-- ==== Sys2Proof/Word.lean ====
section
/-! DEFINITION. The byte type and the fixed-length table type every block's record uses. -/

namespace Sys2Proof

/-- One byte of the plan memory, of the live window or of a link. -/
abbrev Byte := BitVec 8

/-- A table of exactly `n` entries, numbered 0 to `n - 1`. -/
abbrev Tab (α : Type) (n : Nat) := { l : List α // l.length = n }

/-- Entry `i` of a table. -/
def Tab.get {α : Type} {n : Nat} (t : Tab α n) (i : Fin n) : α :=
  t.val[i.val]'(by rw [t.property]; exact i.isLt)

/-- The table with entry `i` replaced. -/
def Tab.set {α : Type} {n : Nat} (t : Tab α n) (i : Fin n) (x : α) : Tab α n :=
  ⟨t.val.set i.val x, by simp [t.property]⟩

/-- The table whose every entry is `x`. -/
def Tab.fill {α : Type} (n : Nat) (x : α) : Tab α n :=
  ⟨List.replicate n x, by simp⟩

/-- The table of the values of a function on the entry numbers. -/
def Tab.ofFn {α : Type} {n : Nat} (f : Fin n → α) : Tab α n :=
  ⟨(List.finRange n).map f, by simp⟩

/-- Every entry changed by one function of its value. -/
def Tab.map {α β : Type} {n : Nat} (f : α → β) (t : Tab α n) : Tab β n :=
  ⟨t.val.map f, by simp [t.property]⟩

end Sys2Proof
end

