-- ==== Sys2Proof/Syntax.lean ====
section
/-! DEFINITION. The commands the part takes: one constructor for each row of spec/opcode_table.json.
Every moment `t` counts µs from the release of the most recent reset (assumption log 1). -/

namespace Sys2Proof

/-- A terminal status level (R23). -/
inductive TermStatus where
  | absent | sleep | run | low
  deriving DecidableEq, Repr

/-- The source of a scan trigger (R49). -/
inductive TrigSource where
  | tick | round | supervisor
  deriving DecidableEq, Repr

/-- A command of the part. `p` is a port, `v` a byte the supervisor writes. -/
inductive Instr where
  | powerOnReset
  | warmReset (t : Nat)
  | nresetRelease
  /-- a 1 ms sample of MAINS_OK at `t` shows the level `high` (R1) -/
  | mainsOkChange (t : Nat) (high : Bool)
  | lossQualified (t : Nat)
  | restoreQualified (t : Nat)
  | settlingComplete (t : Nat)
  | accountingPeriodEnd (t : Nat)
  | startLevelWrite (t : Nat) (v : Byte)
  /-- a reading of port `p`'s status line; `none` falls between two levels (R23) -/
  | terminalStatusReading (t : Nat) (p : Fin 48) (reading : Option TermStatus)
  | statusDebounceExpiry (t : Nat) (p : Fin 48)
  | absenceTimerExpiry (t : Nat) (p : Fin 48)
  | tripReport (t : Nat) (p : Fin 48)
  | coolOffExpiry (t : Nat) (p : Fin 48)
  | pulseTimerExpiry (t : Nat) (p : Fin 48)
  | answerTimerExpiry (t : Nat) (p : Fin 48)
  | retryTimerExpiry (t : Nat) (p : Fin 48)
  | barClear (t : Nat) (v : Byte)
  | gateGrant (t : Nat)
  /-- the conversion in progress completes with the module's reading `raw`, in the channel's unit (R46) -/
  | conversionComplete (t : Nat) (raw : Int)
  | conversionFailed (t : Nat)
  | scanTrigger (t : Nat) (source : TrigSource)
  | scanStop (t : Nat)
  | roundTimerExpiry (t : Nat)
  | claimAttempt (t : Nat)
  | claimRelease (t : Nat)
  | claimLapse (t : Nat)
  /-- the bytes of the test request field that the transaction wrote (R121) -/
  | testRequest (t : Nat) (port kind minutes : Option Byte)
  | testAbort (t : Nat) (v : Byte)
  | holdupTimeExpiry (t : Nat)
  | testPulseEnd (t : Nat)
  | testAnswerTimerExpiry (t : Nat)
  /-- the samples the test channel took, one each millisecond, in mA (R116) -/
  | drawSamplingEnd (t : Nat) (samples : List Nat)
  /-- the bytes of the event read index field that the transaction wrote (R136) -/
  | readIndexWrite (t : Nat) (lo hi : Option Byte)
  | bankSwitchWrite (t : Nat) (v : Byte)
  | transactionStart (t : Nat)
  /-- `count` bytes are clocked out from `addr` on; in a read already begun the burst goes on (R155) -/
  | arrayRead (t : Nat) (addr count : Nat)
  /-- `bytes` are clocked in from `addr` on; in a write already begun the burst goes on (R155) -/
  | arrayWrite (t : Nat) (addr : Nat) (bytes : List Byte)
  | otherCommand (t : Nat) (command : Byte)
  | mapLockWrite (t : Nat) (v : Byte)
  /-- the supervisor writes `v` at offset `off` of the live window, a byte with no behaviour (R161) -/
  | liveWriteAbsorbed (t : Nat) (off : Fin 128) (v : Byte)
  | transactionEnd (t : Nat)
  | linkStuck (t : Nat)
  | ownAccessStart (t : Nat)
  | planLoadReadComplete (t : Nat)
  | measRecordWriteComplete (t : Nat)
  | eventRecordWriteComplete (t : Nat)
  | portImageWriteComplete (t : Nat)
  | installationWriteComplete (t : Nat)
  | powerOnResetRelease
  deriving DecidableEq, Repr

end Sys2Proof
end

