-- ==== Sys2Proof/Config.lean ====
section
/-! DEFINITION. The part's fixed times and sizes, and the values its manual leaves free. -/

namespace Sys2Proof.Config

/-- one millisecond, in µs -/
def ms : Nat := 1000
/-- one second, in µs -/
def sec : Nat := 1000000
/-- size of the plan memory: 256 KiB (00_scope.md) -/
def memSize : Nat := 262144
/-- conversion time (R47) -/
def conversionTime : Nat := 2 * ms
/-- status debounce (R23) -/
def debounceTime : Nat := 200 * ms
/-- absence timer (R25) -/
def absenceTime : Nat := 5 * sec
/-- wake and test pulse (R29, R37) -/
def pulseTime : Nat := 500 * ms
/-- answer timer of a wake and of a WAKE test (R29, R115) -/
def answerTime : Nat := 5 * sec
/-- retry timer (R31) -/
def retryTime : Nat := 30 * sec
/-- cool-off (R33) -/
def coolOffTime : Nat := 60 * sec
/-- bus spacing (R39) -/
def busSpacing : Nat := 50 * ms
/-- lapse of a claim (R111) -/
def lapseTime : Nat := 120 * sec
/-- sampling of a DRAW test (R116) -/
def drawTime : Nat := 10 * sec
/-- number of samples of a DRAW test (R116) -/
def drawSamples : Nat := 10000
/-- quiet gap of the supervisor link (R164) -/
def quietGap : Nat := 2
/-- a select held low this long is stuck (R167) -/
def stuckTime : Nat := 50 * ms
/-- places of the own-access queue -/
def queuePlaces : Nat := 16
/-- places of the staging list -/
def stagingPlaces : Nat := 8

/-- FREE VALUE (assumption log 9): how many bytes of an own write had reached the memory when the
`n`-th cut of an own access fell; the manual says only that whatever was written stays (R166). -/
opaque cutBytes : Nat → Nat

/-- FREE VALUE (assumption log 10): the byte at an offset of the plan a block reads while no plan is
in use; the manual gives no plan there (R154). -/
opaque noPlanByte : Nat → Byte

end Sys2Proof.Config
end

