-- ==== Sys2Proof/Machine/State.lean ====
section
/-! DEFINITION. The state of the part, block by block, and its values after power-on reset. Every
moment is in µs since the release of the most recent reset. -/

namespace Sys2Proof.Machine

/-- Byte-addressed contents: cells at strictly rising addresses, none holding 0; an address not
listed reads 0 (assumption log 6). -/
abbrev Mem := List Host.Cell

/-! ## Names of states and codes -/

/-- The outage phase (R4). -/
inductive Phase where
  | mains | outage | reserve | cutoff | restore
  deriving DecidableEq, Repr

/-- The qualifier's view of mains (R1). -/
inductive MainsState where
  | present | losing | lost | returning
  deriving DecidableEq, Repr

/-- The qualification timer: stopped, running from a moment, or held with a count in µs (R3). -/
inductive Qual where
  | stopped
  | running (since : Nat)
  | held (count : Nat)
  deriving DecidableEq, Repr

/-- The transition cause of a PHASE event (R4). -/
inductive PhaseCause where
  | mainsLost | level | undervoltage | mainsBack | settled
  deriving DecidableEq, Repr

/-- A port's action state (R26). -/
inductive Action where
  | off | idle | waking | feeding | testing | tripped | barred
  deriving DecidableEq, Repr

/-- The step within WAKING (R29 to R32). -/
inductive WakeStep where
  | pulse | answer | retryWait | deferred | queued
  deriving DecidableEq, Repr

/-- The three kinds of test (R112). -/
inductive TestKind where
  | holdup | wake | draw
  deriving DecidableEq, Repr

/-- What aborts a test (R118). -/
inductive AbortCause where
  | trip | phase | thermal | supervisor | reset
  deriving DecidableEq, Repr

/-- The result of a test (R117). -/
inductive TestResult where
  | pass | fail
  | aborted (cause : AbortCause)
  deriving DecidableEq, Repr

/-- The kind of a switch-on request (R38). -/
inductive ReqKind where
  | slot | retry | pulse
  deriving DecidableEq, Repr

/-- The scanner's state (R50). -/
inductive ScanState where
  | idle | sweeping | waiting | paused
  deriving DecidableEq, Repr

/-- The scanner's mode (R50 to R52). -/
inductive ScanMode where
  | oneShot | oneShotLocked | continuous | step
  deriving DecidableEq, Repr

/-- The thermal state (R61). -/
inductive Thermal where
  | normal | warm | hot | critical
  deriving DecidableEq, Repr

/-- The content of a slot (R97). -/
inductive SlotAction where
  | none | feed | wake | test
  deriving DecidableEq, Repr

/-- How a slot ended (R98). -/
inductive SlotOutcome where
  | empty | issued | windowFull | portLeft | phase | abandoned | dry
  deriving DecidableEq, Repr

/-- The owner of the test channel (R109). -/
inductive Owner where
  | none | rota | supervisor
  deriving DecidableEq, Repr

/-- The supervisor's claim (R111). -/
inductive Claim where
  | none | held | releasing
  deriving DecidableEq, Repr

/-- Why a test request is refused (R122). -/
inductive RefuseCause where
  | phase | noClaim | busy | badPort | notReady
  deriving DecidableEq, Repr

/-- What became of the last request (R123). -/
inductive ReqOutcome where
  | none | started
  | refused (cause : RefuseCause)
  deriving DecidableEq, Repr

/-- The kinds of event, in the order of their codes 1 to 16 (10_memory_images.md). -/
inductive EventKind where
  | partStart | phase | bankSwitch | bankRefused | writeRefused | linkStuck | portTrip | portBarred
  | wakeFailed | terminalLost | terminalLow | testResult | testRefused | thermal | alarm | lost
  deriving DecidableEq, Repr

/-- The two plan banks. -/
inductive Bank where
  | a | b
  deriving DecidableEq, Repr

/-- The outcome of a bank's most recent validation (R144). -/
inductive Validity where
  | valid | invalid | absent
  deriving DecidableEq, Repr

/-- The plan in use (R145): a bank's bytes as taken, the built-in plan, or no plan before the end of
a load. -/
inductive PlanUse where
  | noPlan | builtIn
  | bank (which : Bank) (image : Mem)
  deriving DecidableEq, Repr

/-- The kind of a region (R156). -/
inductive RegionKind where
  | plain | planA | planB | portImage | meas | events
  deriving DecidableEq, Repr

/-- What the memory link is doing (R155). -/
inductive LinkState where
  | idle | forwarding | own | stuck
  deriving DecidableEq, Repr

/-- The command of a supervisor transaction (R155). -/
inductive LinkCmd where
  | read | write | other
  deriving DecidableEq, Repr

/-- Why a write is refused (R158, R159). -/
inductive WriteCause where
  | mapUnknown | phase | locked | activeBank | owned | afterWindow
  deriving DecidableEq, Repr

/-- Which own-access source is served next (R164). -/
inductive Turn where
  | queue | marks
  deriving DecidableEq, Repr

/-- The dirty mark last served (R164). -/
inductive MarkId where
  | inst
  | port (p : Fin 48)
  deriving DecidableEq, Repr

/-- The work of an own access (R165). -/
inductive OwnKind where
  | load | meas | event | inst
  | image (p : Fin 48)
  deriving DecidableEq, Repr

/-- A part of a plan load (R152). -/
inductive LoadPart where
  | inst
  | bank (which : Bank)
  deriving DecidableEq, Repr

/-- What started a plan load: one of the resets, the part becoming configured, or a change of a plan
region (R157). -/
inductive LoadCause where
  | powerOn | warm | configured | remapped
  deriving DecidableEq, Repr

/-- Whether a reset is asserted. -/
inductive ResetLine where
  | released | powerOn | warm
  deriving DecidableEq, Repr

/-! ## Records -/

/-- The scanner's thermal settings (R60); the values given are those of an unconfigured part. -/
structure ThermalCfg where
  warm : Int := 90
  hot : Int := 110
  critical : Int := 130
  hyst : Int := 4
  offsets : Tab Int 4 := Tab.fill 4 0
  deriving DecidableEq, Repr

/-- A port's last test summary (R117). -/
structure TestSummary where
  kind : TestKind
  result : TestResult
  value : Nat
  deriving DecidableEq, Repr

/-- A port's record: the port controller's fields, then the charge accounting unit's. -/
structure Port where
  action : Action := .off
  status : TermStatus := .absent
  /-- candidate level and the moment its debounce started (R23) -/
  cand : Option (TermStatus × Nat) := none
  step : Option WakeStep := none
  /-- the feed switch is closed -/
  switch : Bool := false
  trips : Nat := 0
  attempts : Nat := 0
  feedSecs : Nat := 0
  /-- the feed has lasted through a period end (R112) -/
  fed : Bool := false
  /-- trip limit in the comparator, in mA (R28; 0 before the first load, assumption log 27) -/
  limit : Nat := 0
  coolOff : Option Nat := none
  pulse : Option Nat := none
  answer : Option Nat := none
  retry : Option Nat := none
  absence : Option Nat := none
  lastTest : Option TestSummary := none
  deficit : Nat := 0
  /-- capacity C as last taken from a plan in use; 0 before (R73, assumption log 16) -/
  cap : Nat := 0
  u : Nat := 0
  key : Nat := 0
  taper : Nat := 0
  deriving DecidableEq, Repr

/-- A switch-on request; `headed` once it has been the head of its segment (R40). -/
structure Request where
  port : Fin 48
  kind : ReqKind
  placed : Nat
  headed : Bool := false
  deriving DecidableEq, Repr

/-- The segment gate (R38). -/
structure Gate where
  /-- oldest first -/
  waiting : List Request := []
  /-- per segment, up to four start times, newest last -/
  hist : Tab (List Nat) 8 := Tab.fill 8 []
  last : Option Nat := none
  deriving DecidableEq, Repr

/-- A measurement: channel, value and part time (R59). -/
structure Meas where
  channel : Fin 54
  value : Int
  time : Nat
  deriving DecidableEq, Repr

/-- The measurement scanner. -/
structure Scan where
  values : Tab Int 54 := Tab.fill 54 0
  ages : Tab Nat 54 := Tab.fill 54 255
  state : ScanState := .idle
  pos : Fin 54 := 0
  /-- moment the conversion in progress started -/
  conv : Option Nat := none
  held : Option Meas := none
  startUp : Bool := false
  thermal : Thermal := .normal
  latch : Bool := false
  /-- the thermal settings in force (R60; before the first load, assumption log 27) -/
  cfg : ThermalCfg := {}
  measIdx : Nat := 0
  /-- a load since the last reset has formed the index (R160) -/
  measFormed : Bool := false
  deriving DecidableEq, Repr

/-- The charge accounting unit's central figures. -/
structure Acct where
  q : Nat := 0
  cap : Nat := 360000000
  level : Nat := 0
  f16 : Nat := 0
  /-- switch-ons granted since the last sample -/
  count : Nat := 0
  hold : Bool := false
  /-- moment of the latest period end -/
  lastEnd : Nat := 0
  deriving DecidableEq, Repr

/-- An entry of the feed queue (R84). -/
structure QueueEntry where
  port : Fin 48
  u : Nat
  key : Nat
  deriving DecidableEq, Repr

/-- A slot of a round; `outcome` is `none` while unresolved (R98). -/
structure Slot where
  action : SlotAction := .none
  port : Option (Fin 48) := none
  /-- the rota index of a test start -/
  rota : Option (Fin 16) := none
  outcome : Option SlotOutcome := none
  deriving DecidableEq, Repr

/-- A slot of the last-round record (R100). -/
structure SlotRecord where
  action : SlotAction := .none
  port : Option (Fin 48) := none
  outcome : SlotOutcome := .empty
  deriving DecidableEq, Repr

/-- The last-round record (R100). -/
structure RoundRecord where
  number : Nat := 0
  slots : Tab SlotRecord 4 := Tab.fill 4 {}
  deriving DecidableEq, Repr

/-- The feed scheduler. -/
structure Sched where
  /-- in queue order (R84) -/
  queue : List QueueEntry := []
  running : Bool := false
  /-- the feed enable read at the latest round start was "no" (R18, R91) -/
  dry : Bool := false
  slots : Tab Slot 4 := Tab.fill 4 {}
  /-- the moment the round timer expires; `none` while stopped -/
  timer : Option Nat := none
  startPending : Bool := false
  number : Nat := 0
  record : RoundRecord := {}
  deriving DecidableEq, Repr

/-- The test in progress, which is also the attachment (R108, R113). -/
structure TestRun where
  port : Fin 48
  kind : TestKind
  bySupervisor : Bool
  minutes : Nat
  rota : Option (Fin 16)
  attached : Nat
  /-- start of the test pulse while the switch is closed for it (R115) -/
  pulse : Option Nat := none
  /-- moment of the grant of a WAKE test's pulse (R115) -/
  granted : Option Nat := none
  deriving DecidableEq, Repr

/-- The last test request (R121): its bytes as written and its outcome. -/
structure TestReq where
  port : Nat := 0
  kind : Nat := 0
  minutes : Nat := 1
  outcome : ReqOutcome := .none
  deriving DecidableEq, Repr

/-- The last result (R123); `span` holds a completed DRAW's minimum and maximum. -/
structure LastResult where
  kind : TestKind
  port : Fin 48
  bySupervisor : Bool
  result : TestResult
  value : Nat
  span : Option (Nat × Nat)
  deriving DecidableEq, Repr

/-- The test unit. -/
structure TestUnit where
  owner : Owner := .none
  claim : Claim := .none
  /-- start of the lapse timer -/
  lapse : Option Nat := none
  run : Option TestRun := none
  counters : Tab Nat 16 := Tab.fill 16 0
  minute : Nat := 0
  /-- rota count of the plan the counters were last adjusted to (R119) -/
  rotaN : Nat := 0
  req : TestReq := {}
  last : Option LastResult := none
  deriving DecidableEq, Repr

/-- An event entry with its eight fields (R129); subject 255 is none. -/
structure Event where
  kind : EventKind
  phase : Phase
  time : Nat
  subject : Nat
  value : Int
  cause : Nat
  tag : Nat
  count : Nat
  deriving DecidableEq, Repr

/-- What an entry of the own-access queue holds. -/
inductive QueueItem where
  | meas (m : Meas)
  | event (e : Event)
  deriving DecidableEq, Repr

/-- An entry of the own-access queue; `begun` once its own write has begun (R132). -/
structure OwnEntry where
  item : QueueItem
  begun : Bool := false
  deriving DecidableEq, Repr

/-- The event unit. -/
structure EventUnit where
  edges : Tab Bool 16 := Tab.fill 16 false
  staging : List Event := []
  w : Nat := 0
  r : Nat := 0
  idxFormed : Bool := false
  newest : Option Nat := none
  unkept : Bool := false
  lastKind : Option EventKind := none
  /-- ALERT# is asserted -/
  alert : Bool := false
  /-- bytes of a read-index write held while LOADING (R136) -/
  heldRd : Option Nat := none
  deriving DecidableEq, Repr

/-- A bank: its image, validity and first invalid item (R144). -/
structure BankInfo where
  image : Mem := []
  validity : Validity := .absent
  item : Option Int := none
  deriving DecidableEq, Repr

/-- A plan load: its cause, the parts still to read (the first one being read) and the offset
reached in it (R152). -/
structure Load where
  cause : LoadCause
  todo : List LoadPart
  off : Nat
  deriving DecidableEq, Repr

/-- The plan store. -/
structure Store where
  a : BankInfo := {}
  b : BankInfo := {}
  active : Bank := .a
  activeFormed : Bool := false
  plan : PlanUse := .noPlan
  target : Option Bank := none
  /-- READY; LOADING otherwise -/
  ready : Bool := false
  load : Option Load := none
  deriving DecidableEq, Repr

/-- A byte a transaction placed in memory; `locked` if it went in MAINS into the installation block
or the active bank's region of a configured part (R162). -/
structure Placed where
  addr : Nat
  byte : Byte
  locked : Bool
  deriving DecidableEq, Repr

/-- The transaction in progress on the supervisor link (R155 to R161). -/
structure Txn where
  began : Nat
  cmd : Option LinkCmd := none
  addr : Nat := 0
  /-- ML_CS# is low for it -/
  mlLow : Bool := false
  /-- a live-window byte has been reached -/
  live : Bool := false
  /-- address at which forwarding was refused (R159) -/
  refused : Option Nat := none
  /-- Subject and cause with which the first data byte of a write was found refusing when its address was
  complete (R155; assumption log 53). -/
  decided : Option (Nat × WriteCause) := none
  placed : List Placed := []
  /-- the snapshot of the live window (R161) -/
  snap : Option (List Byte) := none
  /-- outcome of the claim attempt (R110) -/
  claim : Option Byte := none
  reqWritten : Bool := false
  /-- bytes written to the event read index field -/
  rdLo : Option Byte := none
  rdHi : Option Byte := none
  stuck : Bool := false
  deriving DecidableEq, Repr

/-- An own access in progress: place and bytes to write (none for a read); `redirty` if a mark was set
after its content was taken; `void` if its entry was discarded meanwhile. -/
structure Own where
  kind : OwnKind
  addr : Nat
  data : List Byte
  redirty : Bool := false
  void : Bool := false
  deriving DecidableEq, Repr

/-- The path unit. -/
structure Path where
  /-- installation image; `none` while unknown -/
  inst : Option Mem := none
  /-- installation bytes read while the image is unknown -/
  instBuf : Mem := []
  mapLock : Bool := false
  link : LinkState := .idle
  /-- SL_CS# is low -/
  csLow : Bool := false
  /-- moment of the latest edge of SL_CS# -/
  csSince : Nat := 0
  /-- the transaction taken; `none` with `csLow` is one ignored since a reset (R168) -/
  txn : Option Txn := none
  ownq : List OwnEntry := []
  dirty : Tab Bool 48 := Tab.fill 48 false
  dirtyInst : Bool := false
  turn : Turn := .queue
  lastMark : MarkId := .port 47
  own : Option Own := none
  preempted : Option OwnKind := none
  /-- bytes driven toward the supervisor in the current or latest transaction -/
  slOut : List Byte := []
  deriving DecidableEq, Repr

/-- The phase controller, with the MAINS_OK line. -/
structure PhaseCtl where
  phase : Phase := .mains
  mains : MainsState := .present
  qual : Qual := .stopped
  outageTime : Nat := 0
  uv : Nat := 0
  startLevel : Nat := 100
  mainsOk : Bool := true
  deriving DecidableEq, Repr

/-- The whole state of the part, with the plan memory behind it and the queue of waiting commands. -/
structure State where
  /-- µs since the release of the most recent reset; 0 while a reset is asserted -/
  clock : Nat
  line : ResetLine
  phase : PhaseCtl
  ports : Tab Port 48
  /-- effective segment boundaries E(0) to E(7) (R21) -/
  segBounds : Tab Nat 8
  gate : Gate
  scan : Scan
  acct : Acct
  sched : Sched
  test : TestUnit
  ev : EventUnit
  store : Store
  path : Path
  mem : Mem
  /-- the model's own field: index of the next free value -/
  fresh : Nat
  /-- the commands waiting, first in, first out -/
  pending : List Instr
  deriving DecidableEq, Repr

/-- The spec gives the part no machine fault: a refused write, a trip or a bar is a change of state. -/
inductive Fault where
  deriving DecidableEq, Repr

/-- Why a command has no meaning. -/
inductive Refusal where
  /-- raised by `exec` for a command the model gives no meaning; safe -/
  | notModelled (mnemonic : String)
  deriving DecidableEq, Repr

/-- The part after a power-on reset that is not yet released: every block holds its power-on values
(R19, R44, R65, R82, R106, R124, R139, R154, R168). -/
def State.reset : State where
  clock := 0
  line := .powerOn
  phase := {}
  ports := Tab.fill 48 {}
  segBounds := Tab.fill 8 0
  gate := {}
  scan := {}
  acct := {}
  sched := {}
  test := {}
  ev := {}
  store := {}
  path := {}
  mem := []
  fresh := 0
  pending := []

end Sys2Proof.Machine
end

