-- ==== Sys2Proof/Machine/Ops.lean ====
section
/-! DEFINITION. The named operations over the plan memory, the byte images, time and the port
records. -/

namespace Sys2Proof.Machine

/-! ## Plan memory and images -/

/-- What an address holds; an address not listed reads 0 (assumption log 6). -/
def Mem.read : Mem → Nat → Byte
  | [], _ => 0#8
  | c :: rest, a => if c.1 = a then c.2 else Mem.read rest a

/-- One byte written, the canonical form kept. -/
def Mem.write : Mem → Nat → Byte → Mem
  | [], a, x => if x = 0#8 then [] else [(a, x)]
  | c :: rest, a, x =>
    if a < c.1 then (if x = 0#8 then c :: rest else (a, x) :: c :: rest)
    else if a = c.1 then (if x = 0#8 then rest else (a, x) :: rest)
    else c :: Mem.write rest a x

/-- Bytes written one after another from `a` on. -/
def Mem.writeBytes : Mem → Nat → List Byte → Mem
  | m, _, [] => m
  | m, a, x :: rest => Mem.writeBytes (m.write a x) (a + 1) rest

/-- `n` bytes read one after another from `a` on. -/
def Mem.readBytes (m : Mem) : Nat → Nat → List Byte
  | _, 0 => []
  | a, n + 1 => m.read a :: Mem.readBytes m (a + 1) n

/-- The canonical form: strictly rising addresses above `low`, no listed 0. -/
def Mem.wfFrom : Nat → Mem → Bool
  | _, [] => true
  | low, c :: rest => decide (low ≤ c.1) && decide (c.2 ≠ 0#8) && Mem.wfFrom (c.1 + 1) rest

/-- The canonical form of a memory. -/
def Mem.wf (m : Mem) : Bool := Mem.wfFrom 0 m

/-- The byte at an offset, as a number. -/
def Mem.num (m : Mem) (o : Nat) : Nat := (m.read o).toNat

/-! ## Byte order (R169): the least significant byte at the lowest offset -/

/-- The low byte of a number. -/
def byteOf (n : Nat) : Byte := BitVec.ofNat 8 n

/-- `n` bytes of a number, least significant first. -/
def leBytes : Nat → Nat → List Byte
  | 0, _ => []
  | n + 1, x => byteOf x :: leBytes n (x / 256)

/-- A signed number as its 32-bit pattern. -/
def pattern32 (i : Int) : Nat := (i % 4294967296).toNat

/-- A signed number as its 16-bit pattern. -/
def pattern16 (i : Int) : Nat := (i % 65536).toNat

/-- Two bytes of an image at offset `o`, as a number. -/
def num16 (f : Nat → Nat) (o : Nat) : Nat := f o + 256 * f (o + 1)

/-- Three bytes of an image at offset `o`, as a number. -/
def num24 (f : Nat → Nat) (o : Nat) : Nat := num16 f o + 65536 * f (o + 2)

/-- A byte read as a signed number. -/
def signed8 (n : Nat) : Int := if n < 128 then n else (n : Int) - 256

/-- Two bytes read as a signed number. -/
def signed16 (n : Nat) : Int := if n < 32768 then n else (n : Int) - 65536

/-! ## Ranges -/

/-- `x` clamped to `lo` to `hi`. -/
def clampN (lo hi x : Nat) : Nat := max lo (min hi x)

/-- A signed `x` clamped to `lo` to `hi`. -/
def clampI (lo hi x : Int) : Int := max lo (min hi x)

/-- The largest 32-bit count, at which counters that saturate stop. -/
def max32 : Nat := 4294967295

/-! ## Time -/

/-- Time moves on to the moment of a command; a command late for its moment is taken now. -/
def State.advance (t : Nat) (s : State) : State := { s with clock := max s.clock t }

/-- Part time: whole seconds since the release of reset, in 32 bits. -/
def State.partTime (s : State) : Nat := s.clock / Config.sec % 4294967296

/-- A timer started at `since` has run for `len` at `now`; a stopped timer has not. -/
def hasRun (since : Option Nat) (len now : Nat) : Bool :=
  match since with
  | some t0 => decide (t0 + len ≤ now)
  | none => false

/-- The common shape of a command that happens in time: nothing while a reset is asserted (R168,
assumption log 14), else its effect at its moment. -/
def timed (t : Nat) (f : State → State) (s : State) : Host.Outcome State Fault Refusal :=
  .next (if s.line = .released then f (s.advance t) else s)

/-! ## Ports -/

/-- The port numbers, ascending. -/
def allPorts : List (Fin 48) := List.finRange 48

/-- Port `p`'s record. -/
def State.port (s : State) (p : Fin 48) : Port := s.ports.get p

/-- Port `p`'s record replaced. -/
def State.setPort (s : State) (p : Fin 48) (x : Port) : State := { s with ports := s.ports.set p x }

/-- The port of a number, if it is 0 to 47. -/
def portOf (n : Nat) : Option (Fin 48) := if h : n < 48 then some ⟨n, h⟩ else none

/-- A port's timers all stopped and its wake step none. -/
def Port.clearTimers (x : Port) : Port :=
  { x with step := none, coolOff := none, pulse := none, answer := none, retry := none,
           absence := none }

/-- A count of 32 bits advanced by one, saturating. -/
def bump32 (n : Nat) : Nat := min max32 (n + 1)

end Sys2Proof.Machine
end

