-- ==== Sys2Proof/Machine/Operands.lean ====
section
/-! DEFINITION. The fields of the installation block and of a plan bank, decoded and clamped from their
bytes (10_memory_images.md; R21, R60, R74, R141 to R144, R156). An image is read through a function
from offsets to byte values. -/

namespace Sys2Proof.Machine

/-! ## Codes -/

/-- Kind code of a test; 0 and codes above 3 name no kind. -/
def TestKind.ofCode : Nat → Option TestKind
  | 1 => some .holdup
  | 2 => some .wake
  | 3 => some .draw
  | _ => none

/-- Code of a test kind. -/
def TestKind.code : TestKind → Nat
  | .holdup => 1
  | .wake => 2
  | .draw => 3

/-- Scanner mode of a code; a code above 3 makes a bank invalid and is never handed on (R141). -/
def ScanMode.ofCode (n : Nat) : ScanMode :=
  match n % 4 with
  | 0 => .oneShot
  | 1 => .oneShotLocked
  | 2 => .continuous
  | _ => .step

/-- Region kind of a code; a code above 5 is PLAIN (R156). -/
def RegionKind.ofCode : Nat → RegionKind
  | 1 => .planA
  | 2 => .planB
  | 3 => .portImage
  | 4 => .meas
  | 5 => .events
  | _ => .plain

/-- The kind of the region that holds a bank (R140). -/
def Bank.regionKind : Bank → RegionKind
  | .a => .planA
  | .b => .planB

/-- Number of a bank. -/
def Bank.code : Bank → Nat
  | .a => 0
  | .b => 1

/-! ## Installation block -/

/-- Signature 3C5Ah and layout version 1 (R157). -/
def instValid (f : Nat → Nat) : Bool := num16 f 0 == 0x3C5A && f 2 == 1

/-- The active bank byte; a value other than 0 or 1 is taken as 0 (R153). -/
def instActive (f : Nat → Nat) : Bank := if f 3 = 1 then .b else .a

/-- A region: addresses `lo` up to but not including `hi`. -/
structure Region where
  lo : Nat
  hi : Nat
  kind : RegionKind
  deriving DecidableEq, Repr

/-- The regions of boundaries and kinds, given the boundary before them and the kinds already taken
by a lower region that is not empty (R156). -/
def regionsFrom : Nat → List RegionKind → List (Nat × RegionKind) → List Region
  | _, _, [] => []
  | low, taken, (bound, kind) :: rest =>
    let e := max bound low
    let k := if e = low ∨ taken.contains kind then .plain else kind
    let taken' := if k = .plain then taken else k :: taken
    { lo := low * 256, hi := e * 256, kind := k } :: regionsFrom e taken' rest

/-- The eight regions of the installation block (R156). -/
def instRegions (f : Nat → Nat) : List Region :=
  regionsFrom 1 [] ((List.range 8).map fun i =>
    (min 1024 (num16 f (10 + 2 * i)), RegionKind.ofCode (f (26 + i))))

/-- Effective segment boundary E(i) (R21). -/
def instSegBound (f : Nat → Nat) : Nat → Nat
  | 0 => min 48 (f 34)
  | i + 1 => max (min 48 (f (34 + (i + 1)))) (instSegBound f i)

/-- The segment map of the installation block (R21). -/
def instSegBounds (f : Nat → Nat) : Tab Nat 8 := Tab.ofFn fun i => instSegBound f i.val

/-- Port `p`'s bit of the population mask. -/
def instMaskBit (f : Nat → Nat) (p : Nat) : Bool := Nat.testBit (f (42 + p / 8)) (p % 8)

/-- Cap in mA·s (R74). -/
def instCap (f : Nat → Nat) : Nat := clampN 1 1000 (num16 f 48) * 3600000

/-- Bus floor in 10 mV steps. -/
def instBusFloor (f : Nat → Nat) : Nat := num16 f 50

/-- Loss qualify time in s (R2). -/
def instLossTime (f : Nat → Nat) : Nat := clampN 1 30 (f 52)

/-- Restore qualify time in s (R2). -/
def instRestoreTime (f : Nat → Nat) : Nat := clampN 5 600 (num16 f 53)

/-- Thermal settings of the installation block, the levels raised into ascending order (R60). -/
def instThermal (f : Nat → Nat) : ThermalCfg :=
  let warm := clampI (-80) 250 (signed16 (num16 f 55))
  let hot := max warm (clampI (-80) 250 (signed16 (num16 f 57)))
  { warm := warm
    hot := hot
    critical := max hot (clampI (-80) 250 (signed16 (num16 f 59)))
    hyst := (clampN 0 20 (f 61) : Nat)
    offsets := Tab.ofFn fun i => clampI (-20) 20 (signed8 (f (62 + i.val))) }

/-- Thermal settings of an unconfigured part (R60). -/
def thermalDefault : ThermalCfg := {}

/-! ## Plan bank -/

/-- The header's fields as handed on (R141). -/
structure Header where
  tag : Nat
  feedEnable : Bool
  period : Nat
  feedLimit : Nat
  reserve : Nat
  cutoff : Nat
  k : Nat
  budget : Nat
  thermal : Nat
  inrush : Nat
  testWeight : Nat
  early : Nat
  spacing : Nat
  window : Nat
  mode : ScanMode
  first : Fin 54
  final : Fin 54
  trigTick : Bool
  trigRound : Bool
  trigSup : Bool
  logging : Bool
  rotaN : Nat
  alarmN : Nat
  deriving DecidableEq, Repr

/-- A port policy as handed on; `cap` is C in mA·s (R142, R69). -/
structure Policy where
  cls : Nat
  cap : Nat
  run : Nat
  sleep : Nat
  eff : Nat
  trip : Nat
  taper : Nat
  join : Nat
  stop : Nat
  cond : Nat
  invert : Bool
  retries : Nat
  drawLo : Nat
  drawHi : Nat
  deriving DecidableEq, Repr

/-- A rota entry (R143). -/
structure RotaEntry where
  port : Nat
  kind : Option TestKind
  interval : Nat
  minutes : Nat
  deriving DecidableEq, Repr

/-- An alarm rule (R143). -/
structure AlarmRule where
  code : Nat
  relation : Nat
  port : Nat
  const : Nat
  tag : Nat
  deriving DecidableEq, Repr

/-- The header of a bank's bytes, clamped in the order of R141. -/
def decodeHeader (f : Nat → Nat) : Header :=
  let cutoff := clampN 0 100 (f 6)
  let budget := clampN 0 20000 (num16 f 8)
  { tag := num16 f 0
    feedEnable := f 2 != 0
    period := clampN 2 60 (f 3)
    feedLimit := clampN 1 24 (f 4)
    reserve := max cutoff (clampN 0 100 (f 5))
    cutoff := cutoff
    k := min 7 (f 7)
    budget := budget
    thermal := min budget (clampN 0 20000 (num16 f 10))
    inrush := clampN 0 2000 (num16 f 12)
    testWeight := clampN 0 2000 (num16 f 14)
    early := clampN 0 1440 (num16 f 16)
    spacing := clampN 1 50 (f 18)
    window := clampN 1 60 (f 19)
    mode := ScanMode.ofCode (f 20)
    first := Fin.ofNat 54 (f 21)
    final := Fin.ofNat 54 (f 22)
    trigTick := Nat.testBit (f 23) 0
    trigRound := Nat.testBit (f 23) 1
    trigSup := Nat.testBit (f 23) 2
    logging := f 24 != 0
    rotaN := min 16 (f 25)
    alarmN := min 16 (f 26) }

/-- The policy of port `p` of a bank's bytes (R142). -/
def decodePolicy (f : Nat → Nat) (p : Nat) : Policy :=
  let o := 32 + 16 * p
  let flags := f o
  let runTaper := num24 f (o + 3)
  let levels := num24 f (o + 10)
  let band := num24 f (o + 13)
  let join := clampN 0 1024 (levels % 4096)
  let stop := clampN 0 1024 (levels / 4096)
  { cls := flags % 4
    cap := clampN 100 20000 (num16 f (o + 1)) * 3600
    run := clampN 0 1000 (runTaper % 4096)
    sleep := clampN 0 200 (f (o + 6))
    eff := clampN 1 16 (f (o + 7))
    trip := clampN 100 4000 (num16 f (o + 8))
    taper := clampN 0 500 (runTaper / 4096)
    join := join
    stop := if join ≤ stop then join - 64 else stop
    cond := flags / 4 % 4
    invert := flags / 16 % 2 == 1
    retries := flags / 32
    drawLo := clampN 0 4095 (band % 4096)
    drawHi := clampN 0 4095 (band / 4096) }

/-- Rota entry `i` of a bank's bytes (R143). -/
def decodeRota (f : Nat → Nat) (i : Nat) : RotaEntry :=
  let o := 800 + 5 * i
  { port := f o
    kind := TestKind.ofCode (f (o + 1))
    interval := clampN 1 1440 (num16 f (o + 2))
    minutes := clampN 1 60 (f (o + 4)) }

/-- Alarm rule `i` of a bank's bytes (R143). -/
def decodeAlarm (f : Nat → Nat) (i : Nat) : AlarmRule :=
  let o := 880 + 7 * i
  { code := f o
    relation := f (o + 1)
    port := f (o + 2)
    const := num16 f (o + 3)
    tag := num16 f (o + 5) }

/-! ## Validation (R144) -/

/-- The header makes the bank invalid by a mode, channel or count out of range (R141). -/
def headerOk (f : Nat → Nat) : Bool :=
  f 20 ≤ 3 && f 21 ≤ 53 && f 22 ≤ 53 && f 25 ≤ 16 && f 26 ≤ 16

/-- Class 3 or a draw band low above its high makes the bank invalid (R142). -/
def policyOk (f : Nat → Nat) (p : Nat) : Bool :=
  let pol := decodePolicy f p
  pol.cls != 3 && decide (pol.drawLo ≤ pol.drawHi)

/-- A port of 48 or above, or a code that names no kind, makes the bank invalid (R143). -/
def rotaOk (f : Nat → Nat) (i : Nat) : Bool :=
  let e := decodeRota f i
  decide (e.port < 48) && e.kind.isSome

/-- A quantity above 7 or a relation above 3 makes the bank invalid (R143). -/
def alarmOk (f : Nat → Nat) (i : Nat) : Bool :=
  let r := decodeAlarm f i
  decide (r.code ≤ 7) && decide (r.relation ≤ 3)

/-- The number of the first item that fails, in the order of R144. -/
def firstInvalid (f : Nat → Nat) (populated : Fin 48 → Bool) : Option Int :=
  if !headerOk f then some 0
  else match allPorts.find? fun p => populated p && !policyOk f p.val with
  | some p => some (100 + (p.val : Int))
  | none => match (List.range (f 25)).find? fun i => !rotaOk f i with
    | some i => some (200 + (i : Int))
    | none => match (List.range (f 26)).find? fun i => !alarmOk f i with
      | some i => some (300 + (i : Int))
      | none => none

/-! ## The plan in use -/

/-- The built-in plan's header (R146). -/
def builtInHeader : Header :=
  { tag := 0, feedEnable := true, period := 10, feedLimit := 8, reserve := 30, cutoff := 10, k := 3,
    budget := 8000, thermal := 4000, inrush := 500, testWeight := 500, early := 0, spacing := 5,
    window := 10, mode := .continuous, first := 0, final := 53, trigTick := true, trigRound := false,
    trigSup := false, logging := false, rotaN := 0, alarmN := 0 }

/-- The built-in plan's policy of every port (R146). -/
def builtInPolicy : Policy :=
  { cls := 1, cap := 7200000, run := 250, sleep := 40, eff := 12, trip := 1500, taper := 50,
    join := 512, stop := 128, cond := 3, invert := false, retries := 2, drawLo := 100,
    drawHi := 1500 }

/-- The byte values a block reads while no plan is in use: free (assumption log 10). -/
def noPlanNum (o : Nat) : Nat := (Config.noPlanByte o).toNat

/-- The header of the plan in use. -/
def PlanUse.header : PlanUse → Header
  | .noPlan => decodeHeader noPlanNum
  | .builtIn => builtInHeader
  | .bank _ image => decodeHeader image.num

/-- The policy of port `p` in the plan in use. -/
def PlanUse.policy : PlanUse → Fin 48 → Policy
  | .noPlan, p => decodePolicy noPlanNum p.val
  | .builtIn, _ => builtInPolicy
  | .bank _ image, p => decodePolicy image.num p.val

/-- Rota entry `i` of the plan in use; the built-in plan has none (R146). -/
def PlanUse.rota : PlanUse → Fin 16 → RotaEntry
  | .noPlan, i => decodeRota noPlanNum i.val
  | .builtIn, _ => { port := 0, kind := none, interval := 1, minutes := 1 }
  | .bank _ image, i => decodeRota image.num i.val

/-- Alarm rule `i` of the plan in use; the built-in plan has none (R146). -/
def PlanUse.alarm : PlanUse → Fin 16 → AlarmRule
  | .noPlan, i => decodeAlarm noPlanNum i.val
  | .builtIn, _ => { code := 0, relation := 0, port := 0, const := 0, tag := 0 }
  | .bank _ image, i => decodeAlarm image.num i.val

/-- The tag of events raised under the plan: 0 for the built-in plan and for no plan (R129). -/
def PlanUse.tag : PlanUse → Nat
  | .bank _ image => (decodeHeader image.num).tag
  | _ => 0

/-- The plan's number in BANK_SWITCH values: 0, 1, or 2 for the built-in plan (R148). -/
def PlanUse.code : PlanUse → Nat
  | .bank which _ => which.code
  | _ => 2

end Sys2Proof.Machine
end

