-- ==== Sys2Proof/Machine/Flags.lean ====
section
/-! DEFINITION. The signals the blocks read from the state: configuration and regions, the plan in
use, permissions, condition flags, hold and shed, readiness marks, and ALERT#. -/

namespace Sys2Proof.Machine

/-! ## Configuration and regions -/

/-- The region map is known (R156). -/
def State.mapKnown (s : State) : Bool := s.path.inst.isSome

/-- The part is configured: the map is known and the block is valid (R157). -/
def State.configured (s : State) : Bool :=
  match s.path.inst with
  | some m => instValid m.num
  | none => false

/-- The part is unconfigured: the map is known and the block is not valid (R157). -/
def State.unconfigured (s : State) : Bool :=
  match s.path.inst with
  | some m => !instValid m.num
  | none => false

/-- The regions: eight when configured, none otherwise (R156, R157). -/
def State.regions (s : State) : List Region :=
  match s.path.inst with
  | some m => if instValid m.num then instRegions m.num else []
  | none => []

/-- The region of a kind, if the map holds one (R156). -/
def State.region (s : State) (k : RegionKind) : Option Region :=
  s.regions.find? fun r => r.kind = k

/-- The number of the region that holds an address. -/
def State.regionIdx (s : State) (a : Nat) : Option Nat :=
  s.regions.findIdx? fun r => decide (r.lo ≤ a) && decide (a < r.hi)

/-- The kind of the region that holds an address; PLAIN outside every region (R156). -/
def State.kindAt (s : State) (a : Nat) : RegionKind :=
  match s.regions.find? fun r => decide (r.lo ≤ a) && decide (a < r.hi) with
  | some r => r.kind
  | none => .plain

/-- Size of a region in bytes. -/
def Region.size (r : Region) : Nat := r.hi - r.lo

/-- The region of a bank, if it is there and holds at least 1024 bytes (R140). -/
def State.bankRegion (s : State) (bank : Bank) : Option Region :=
  match s.region bank.regionKind with
  | some r => if 1024 ≤ r.size then some r else none
  | none => none

/-- Port images are kept: a PORT_IMAGE region of 48 images is there (R43). -/
def State.imageRegion (s : State) : Option Region :=
  match s.region .portImage with
  | some r => if 1536 ≤ r.size then some r else none
  | none => none

/-- MEAS ring capacity (R59); 0 without a MEAS region. -/
def State.measN (s : State) : Nat :=
  match s.region .meas with
  | some r => r.size / 8
  | none => 0

/-- EVENTS ring capacity N (R134); 0 without an EVENTS region. -/
def State.ringN (s : State) : Nat :=
  match s.region .events with
  | some r => r.size / 16
  | none => 0

/-- Index span M: the largest multiple of N not above 65536 (R134). -/
def State.ringM (s : State) : Nat := 65536 / s.ringN * s.ringN

/-- Unread count (R134). -/
def State.unread (s : State) : Nat := (s.ev.w + s.ringM - s.ev.r) % s.ringM

/-- Events can be placed: a ring is there, or the plan store is LOADING (R130). -/
def State.ringOpen (s : State) : Bool := !s.store.ready || decide (0 < s.ringN)

/-- The level ALERT# takes: an unread attention record, or the unkept attention flag, once the plan
store is READY (R138; without a ring, assumption log 17). -/
def State.alertLevel (s : State) : Bool :=
  s.store.ready &&
    (s.ev.unkept || (decide (0 < s.ringN) && match s.ev.newest with
      | some n => decide ((n + s.ringM - s.ev.r) % s.ringM < s.unread)
      | none => false))

/-- The populations of the installation image (R22). -/
def State.populated (s : State) (p : Fin 48) : Bool :=
  match s.path.inst with
  | some m => instValid m.num && instMaskBit m.num p.val && decide (p.val < instSegBound m.num 7)
  | none => false

/-- The segment map of the installation image (R21): no segment holds a port without one. -/
def State.instBounds (s : State) : Tab Nat 8 :=
  match s.path.inst with
  | some m => if instValid m.num then instSegBounds m.num else Tab.fill 8 0
  | none => Tab.fill 8 0

/-- The segment that holds port `p` in the map last built (R21). -/
def State.segOf (s : State) (p : Fin 48) : Option (Fin 8) :=
  (List.finRange 8).find? fun i => decide (p.val < s.segBounds.get i)

/-- Loss and restore qualify times in µs; defaults while unconfigured or unknown (R2). -/
def State.lossTime (s : State) : Nat :=
  (match s.path.inst with
  | some m => if instValid m.num then instLossTime m.num else 2
  | none => 2) * Config.sec

/-- Restore qualify time in µs (R2). -/
def State.restoreTime (s : State) : Nat :=
  (match s.path.inst with
  | some m => if instValid m.num then instRestoreTime m.num else 30
  | none => 30) * Config.sec

/-- Bus floor; 0 while unconfigured (R7). -/
def State.busFloor (s : State) : Nat :=
  match s.path.inst with
  | some m => if instValid m.num then instBusFloor m.num else 0
  | none => 0

/-- Cap as the installation block gives it; 100 Ah while unconfigured (R74). -/
def State.instCapNow (s : State) : Nat :=
  match s.path.inst with
  | some m => if instValid m.num then instCap m.num else 360000000
  | none => 360000000

/-- Thermal settings in force (R60). -/
def State.thermalCfg (s : State) : ThermalCfg := s.scan.cfg

/-- Thermal settings as the installation block gives them; the defaults while unconfigured (R60). -/
def State.instThermalNow (s : State) : ThermalCfg :=
  match s.path.inst with
  | some m => if instValid m.num then instThermal m.num else thermalDefault
  | none => thermalDefault

/-! ## The plan in use -/

/-- The header of the plan in use. -/
def State.header (s : State) : Header := s.store.plan.header

/-- Port `p`'s policy in the plan in use. -/
def State.policy (s : State) (p : Fin 48) : Policy := s.store.plan.policy p

/-! ## Permissions (R17) -/

/-- Classes that may join the queue, be given feed starts and wakes, and have retries requested, in a phase. -/
def Phase.permits : Phase → Nat → Bool
  | .outage, _ => true
  | .reserve, cls => cls == 0
  | _, _ => false

/-- The phase permits port `p`'s class. -/
def State.permitted (s : State) (p : Fin 48) : Bool := s.phase.phase.permits (s.policy p).cls

/-- OUTAGE or RESERVE: the phases of rounds, rota minutes, level tests and supervisor tests. -/
def Phase.active : Phase → Bool
  | .outage => true
  | .reserve => true
  | _ => false

/-- No switch-on request may stand at the gate (R42). -/
def State.gateClosed (s : State) : Bool :=
  s.scan.latch || s.phase.phase = .cutoff || s.phase.phase = .restore

/-! ## Condition flags (R88) -/

/-- Condition flag `c` as it stands. -/
def State.condFlag (s : State) : Nat → Bool
  | 0 => s.scan.thermal = .normal
  | 1 => s.phase.phase = .outage
  | 2 => decide (s.phase.outageTime < s.header.early * 60)
  | _ => true

/-- Port `p`'s condition: its flag, inverted when its policy says so. -/
def State.condition (s : State) (p : Fin 48) : Bool :=
  (s.condFlag (s.policy p).cond) != (s.policy p).invert

/-! ## Load signals (R79 to R81) -/

/-- F in mA. -/
def State.filter (s : State) : Nat := s.acct.f16 / 16

/-- The limit in force (R80). -/
def State.limit (s : State) : Nat :=
  if s.scan.thermal = .hot then s.header.thermal else s.header.budget

/-- The hold signal as recomputed (R80). -/
def State.holdNow (s : State) : Bool := decide (s.limit ≤ s.filter)

/-- The shed signal (R81). -/
def State.shed (s : State) : Bool := decide (s.limit + s.limit / 4 < s.filter)

/-- The hold signal recomputed (R80). -/
def State.reHold (s : State) : State := { s with acct := { s.acct with hold := s.holdNow } }

/-- The central level reported: the start level in MAINS (R77). -/
def State.level (s : State) : Nat :=
  if s.phase.phase = .mains then s.phase.startLevel else s.acct.level

/-- Class weight of the queue key (R72). -/
def classWeight : Nat → Nat
  | 0 => 512
  | 1 => 256
  | _ => 0

/-! ## Scanner signals -/

/-- A channel value. -/
def State.value (s : State) (c : Fin 54) : Int := s.scan.values.get c

/-- The channel of port `p`'s current. -/
def portChannel (p : Fin 48) : Fin 54 := ⟨p.val, by omega⟩

/-- Port `p`'s latest current in mA. -/
def State.current (s : State) (p : Fin 48) : Nat := (s.value (portChannel p)).toNat

/-- A channel is stale from age 2 (R58). -/
def State.stale (s : State) (c : Fin 54) : Bool := decide (2 ≤ s.scan.ages.get c)

/-- The highest of the four temperature values (R60). -/
def State.highestTemp (s : State) : Int :=
  max (max (s.value 50) (s.value 51)) (max (s.value 52) (s.value 53))

/-- The lowest-numbered sensor that shows the highest temperature (R62). -/
def State.hottestSensor (s : State) : Nat :=
  if s.value 50 = s.highestTemp then 0
  else if s.value 51 = s.highestTemp then 1
  else if s.value 52 = s.highestTemp then 2
  else 3

/-! ## Counts and flags of the live window -/

/-- Number of ports whose record meets a test. -/
def State.countPorts (s : State) (f : Port → Bool) : Nat := s.ports.val.countP f

/-- Feeding count (R87). -/
def State.feedingCount (s : State) : Nat := s.countPorts fun x => x.action = .feeding

/-- Barred count. -/
def State.barredCount (s : State) : Nat := s.countPorts fun x => x.action = .barred

/-- The port has an entry in the feed queue (R84). -/
def State.queued (s : State) (p : Fin 48) : Bool := s.sched.queue.any fun e => e.port = p

/-- A dirty mark is held (R12); an unconfigured part holds none. -/
def State.anyDirty (s : State) : Bool := s.path.dirtyInst || s.path.dirty.val.any id

/-- The settling conditions (R12), tested once the plan store is READY (R20). -/
def State.settled (s : State) : Bool :=
  s.store.ready && s.phase.phase = .restore && s.test.run.isNone
    && s.countPorts (fun x => x.action = .feeding || x.action = .waking || x.action = .testing) == 0
    && (s.unconfigured || !s.anyDirty)

/-- The supervisor link has been quiet for the quiet gap, or is STUCK (R164). -/
def State.linkFree (s : State) : Bool :=
  s.path.link = .stuck ||
    (s.path.link = .idle && !s.path.csLow && decide (s.path.csSince + Config.quietGap ≤ s.clock))

end Sys2Proof.Machine
end

