-- ==== Sys2Proof/Machine/Event.lean ====
section
/-! DEFINITION. Raising an event: its record, its placement, coalescing and loss (R129 to R133, R138),
and the dirty marks that tell the path unit what to write (R43, R165). -/

namespace Sys2Proof.Machine

/-! ## Codes (10_memory_images.md) -/

/-- Code of an event kind. -/
def EventKind.code : EventKind → Nat
  | .partStart => 1
  | .phase => 2
  | .bankSwitch => 3
  | .bankRefused => 4
  | .writeRefused => 5
  | .linkStuck => 6
  | .portTrip => 7
  | .portBarred => 8
  | .wakeFailed => 9
  | .terminalLost => 10
  | .terminalLow => 11
  | .testResult => 12
  | .testRefused => 13
  | .thermal => 14
  | .alarm => 15
  | .lost => 16

/-- The attention kinds. -/
def EventKind.attention : EventKind → Bool
  | .partStart => true
  | .phase => true
  | .bankRefused => true
  | .linkStuck => true
  | .portBarred => true
  | .thermal => true
  | .alarm => true
  | .lost => true
  | .bankSwitch => false
  | .writeRefused => false
  | .portTrip => false
  | .wakeFailed => false
  | .terminalLost => false
  | .terminalLow => false
  | .testResult => false
  | .testRefused => false

/-- Code of a phase. -/
def Phase.code : Phase → Nat
  | .mains => 0
  | .outage => 1
  | .reserve => 2
  | .cutoff => 3
  | .restore => 4

/-- Code of a transition cause. -/
def PhaseCause.code : PhaseCause → Nat
  | .mainsLost => 1
  | .level => 2
  | .undervoltage => 3
  | .mainsBack => 4
  | .settled => 5

/-- Code of an action state. -/
def Action.code : Action → Nat
  | .off => 0
  | .idle => 1
  | .waking => 2
  | .feeding => 3
  | .testing => 4
  | .tripped => 5
  | .barred => 6

/-- Code of a thermal state. -/
def Thermal.code : Thermal → Nat
  | .normal => 0
  | .warm => 1
  | .hot => 2
  | .critical => 3

/-- The subject of an event that has none. -/
def noSubject : Nat := 255

/-! ## Placement -/

/-- A count raised by `n`, saturating at 65535 (R129). -/
def satCount (n : Nat) : Nat := min 65535 n

/-- The entry takes one more refusal (R132). -/
def Event.counted (e : Event) : Event := { e with count := satCount (e.count + 1) }

/-- The entry is a WRITE_REFUSED of a region; the addresses outside every region count as one (assumption log
40). -/
def Event.refusalIn (region : Nat) (e : Event) : Bool := e.kind = .writeRefused && e.subject == region

/-- One more refusal counted into the eligible target of the queue, if there is one (R132). -/
def coalesceQueue (region : Nat) : List OwnEntry → Option (List OwnEntry)
  | [] => none
  | x :: rest =>
    match x.item, x.begun with
    | .event e, false =>
      if e.refusalIn region then some ({ x with item := .event e.counted } :: rest)
      else (coalesceQueue region rest).map (x :: ·)
    | _, _ => (coalesceQueue region rest).map (x :: ·)

/-- One more refusal counted into the target of the staging list, if there is one (R132). -/
def coalesceStaging (region : Nat) : List Event → Option (List Event)
  | [] => none
  | e :: rest =>
    if e.refusalIn region then some (e.counted :: rest)
    else (coalesceStaging region rest).map (e :: ·)

/-- A lost event counted at the tail of a full staging list (R133); `marker` carries the phase, part
time and tag of a LOST marker made now and the lost event's kind code. -/
def countLost (marker : Event) : List Event → List Event
  | [] => []
  | [tail] =>
    if tail.kind = .lost then [{ tail with count := satCount (tail.count + 1), value := marker.value }]
    else [{ marker with count := satCount (tail.count + 1) }]
  | e :: rest => e :: countLost marker rest

/-- Where events stand: the own-access queue, the staging list and the unkept attention flag. -/
structure Spool where
  queue : List OwnEntry
  staging : List Event
  unkept : Bool
  deriving DecidableEq, Repr

/-- A new entry placed by the first row of R130 that applies. -/
def Spool.place (ringOpen : Bool) (marker e : Event) (x : Spool) : Spool :=
  if ringOpen = false then { x with unkept := x.unkept || e.kind.attention }
  else match if e.kind = .writeRefused then coalesceQueue e.subject x.queue else none with
  | some q => { x with queue := q }
  | none => match if e.kind = .writeRefused then coalesceStaging e.subject x.staging else none with
    | some st => { x with staging := st }
    | none =>
      if x.queue.length < Config.queuePlaces ∧ x.staging = [] then
        { x with queue := x.queue ++ [{ item := .event e }] }
      else if x.staging.length < Config.stagingPlaces then { x with staging := x.staging ++ [e] }
      else { x with staging := countLost marker x.staging }

/-- The event entry a block makes now (R129). -/
def State.entry (s : State) (kind : EventKind) (subject : Nat) (value : Int) (cause tag : Nat) : Event :=
  { kind := kind, phase := s.phase.phase, time := s.partTime, subject := subject, value := value,
    cause := cause, tag := tag, count := 1 }

/-- ALERT# re-evaluated (R138). -/
def State.reAlert (s : State) : State := { s with ev := { s.ev with alert := s.alertLevel } }

/-- An event raised with a tag of its own: the last event kind is set and the entry placed (R129). -/
def State.raiseTagged (s : State) (kind : EventKind) (subject : Nat) (value : Int)
    (cause tag : Nat) : State :=
  let x := Spool.place s.ringOpen (s.entry .lost noSubject kind.code 0 s.store.plan.tag)
    (s.entry kind subject value cause tag) ⟨s.path.ownq, s.ev.staging, s.ev.unkept⟩
  State.reAlert { s with
    path := { s.path with ownq := x.queue }
    ev := { s.ev with staging := x.staging, unkept := x.unkept, lastKind := some kind } }

/-- An event raised under the plan's tag (R129). -/
def State.raise (s : State) (kind : EventKind) (subject : Nat) (value : Int) (cause : Nat) : State :=
  s.raiseTagged kind subject value cause s.store.plan.tag

/-! ## Dirty marks -/

/-- An own access under way learns that its content has been overtaken (R165). -/
def Own.overtaken (kind : OwnKind) (o : Option Own) : Option Own :=
  o.map fun x => if x.kind = kind then { x with redirty := true } else x

/-- Port marks are set at all (R43). -/
def State.canMark (s : State) : Bool := s.store.ready && s.imageRegion.isSome

/-- Port `p`'s dirty mark set, where marks are set (R43). -/
def State.markPort (s : State) (p : Fin 48) : State :=
  { s with path := { s.path with
      dirty := if s.canMark then s.path.dirty.set p true else s.path.dirty
      own := if s.canMark then Own.overtaken (.image p) s.path.own else s.path.own } }

/-- The mark set when a condition holds. -/
def State.markPortIf (s : State) (c : Bool) (p : Fin 48) : State := if c then s.markPort p else s

/-- The installation mark set; an unconfigured part sets none (R157). -/
def State.markInst (s : State) : State :=
  { s with path := { s.path with
      dirtyInst := s.configured || s.path.dirtyInst
      own := if s.configured then Own.overtaken .inst s.path.own else s.path.own } }

end Sys2Proof.Machine
end

