-- ==== Sys2Proof/Machine/Ports.lean ====
section
/-! DEFINITION. The port controller's shared operations: requests of R26, status and charge fields of a
port's record, the feed queue's entries, and the segment gate's lists (R21 to R45, R68 to R73). -/

namespace Sys2Proof.Machine

/-! ## Charge fields of a record -/

/-- Urgency and queue key recomputed from the deficit (R72). -/
def Port.reckon (x : Port) (pol : Policy) : Port :=
  let u := x.deficit * 1024 / pol.cap
  { x with u := u, key := u + classWeight pol.cls }

/-- The terminal's own drain by its status (R68). -/
def Policy.drain (pol : Policy) : TermStatus → Nat
  | .run => pol.run
  | .low => pol.run
  | .sleep => pol.sleep
  | .absent => 0

/-- The charge fields all 0. -/
def Port.noCharge (x : Port) : Port := { x with deficit := 0, u := 0, key := 0, taper := 0 }

/-! ## The feed queue -/

/-- An entry put in queue order: descending key, then ascending port (R84). -/
def queueInsert (e : QueueEntry) : List QueueEntry → List QueueEntry
  | [] => [e]
  | x :: rest =>
    if x.key < e.key ∨ (x.key = e.key ∧ e.port.val < x.port.val) then e :: x :: rest
    else x :: queueInsert e rest

/-- Port `p`'s entry taken out of the queue; a removal sets its mark (R86, R43). -/
def State.dequeue (s : State) (p : Fin 48) : State :=
  State.markPortIf
    { s with sched := { s.sched with queue := s.sched.queue.filter fun e => e.port ≠ p } }
    (s.queued p) p

/-- The queue emptied, each removal marked (R9, R64). -/
def State.emptyQueue (s : State) : State := (s.sched.queue.map (·.port)).foldl State.dequeue s

/-! ## Requests at the gate -/

/-- Port `p`'s request leaves the waiting list (R42). -/
def State.unrequest (s : State) (p : Fin 48) : State :=
  { s with gate := { s.gate with waiting := s.gate.waiting.filter fun r => r.port ≠ p } }

/-- A request placed now; one that arrives at a closed gate is withdrawn (R38, R42). -/
def State.request (s : State) (p : Fin 48) (kind : ReqKind) : State :=
  { s with gate := { s.gate with
      waiting := if s.gateClosed then s.gate.waiting
        else s.gate.waiting ++ [{ port := p, kind := kind, placed := s.clock }] } }

/-- The start times of segment `g` still inside the inrush window (R39). -/
def State.inWindow (s : State) (g : Fin 8) : Nat :=
  (s.gate.hist.get g).countP fun t => decide (s.clock < t + s.header.window * Config.sec)

/-- The window limit of segment `g` is not met (R39). -/
def State.windowFull (s : State) (g : Fin 8) : Bool := decide (4 ≤ s.inWindow g)

/-- All three limits of R39 hold for a request. -/
def State.grantable (s : State) (r : Request) : Bool :=
  match s.segOf r.port with
  | none => false
  | some g =>
    (match (s.gate.hist.get g).getLast? with
      | some t => decide (t + s.header.spacing * 100 * Config.ms ≤ s.clock)
      | none => true)
    && (match s.gate.last with
      | some t => decide (t + Config.busSpacing ≤ s.clock)
      | none => true)
    && !s.windowFull g

/-- `r` is older than `q`; of equal age the lower port comes first (R40). -/
def Request.before (r q : Request) : Bool :=
  decide (r.placed < q.placed) || (r.placed == q.placed && decide (r.port.val < q.port.val))

/-- The oldest of a list of requests. -/
def oldest : List Request → Option Request
  | [] => none
  | r :: rest =>
    match oldest rest with
    | none => some r
    | some q => if q.before r then some q else some r

/-- The request the gate grants: the oldest that meets the limits (R40). -/
def State.nextGrant (s : State) : Option Request := oldest (s.gate.waiting.filter s.grantable)

/-- No older request of the same segment waits (R40). -/
def State.isHead (s : State) (r : Request) : Bool :=
  s.gate.waiting.all fun q => !(s.segOf q.port = s.segOf r.port && decide (q.placed < r.placed))

/-! ## Slots of the running round -/

/-- Slot `i` resolved with an outcome (R98). -/
def State.resolve (s : State) (i : Fin 4) (o : SlotOutcome) : State :=
  { s with sched := { s.sched with
      slots := s.sched.slots.set i { s.sched.slots.get i with outcome := some o } } }

/-- The unresolved slot of the running round that names port `p` (R85). -/
def State.openSlot (s : State) (p : Fin 48) : Option (Fin 4) :=
  if s.sched.running then
    (List.finRange 4).find? fun i =>
      decide ((s.sched.slots.get i).port = some p) && (s.sched.slots.get i).outcome.isNone
  else none

/-- Port `p`'s unresolved slot resolved, if it has one. -/
def State.resolvePort (s : State) (p : Fin 48) (o : SlotOutcome) : State :=
  match s.openSlot p with
  | some i => s.resolve i o
  | none => s

/-- Port `p` has a slot request at the gate. -/
def State.slotWaits (s : State) (p : Fin 48) : Bool :=
  s.gate.waiting.any fun r => r.port = p && r.kind = .slot

/-- Port `p`'s request leaves the gate; the slot of a slot request is resolved PORT_LEFT (R42, R98). -/
def State.leaveGate (s : State) (p : Fin 48) : State :=
  if s.slotWaits p then (s.unrequest p).resolvePort p .portLeft else s.unrequest p

/-! ## Requests of other blocks to a port (R26) -/

/-- Feed end (R27): ignored unless the port is FEEDING. -/
def State.endFeed (s : State) (p : Fin 48) : State :=
  let x := s.port p
  if x.action = .feeding then
    (s.setPort p { x with action := .idle, switch := false, absence := none, fed := false }).markPort p
  else s

/-- End of a wake at any step (R30, R31): ignored unless the port is WAKING. -/
def State.endWake (s : State) (p : Fin 48) : State :=
  let x := s.port p
  if x.action = .waking then
    ((s.setPort p { x.clearTimers with action := .idle, switch := false }).unrequest p).markPort p
  else s

/-- Every feed ended. -/
def State.endFeeds (s : State) : State := allPorts.foldl State.endFeed s

/-- The retry of a WAKING port requested (R32), where the phase permits retries for its class (R17); else the wake
ends without failure, as R31 ends one at its answer timer (assumption log 48). -/
def State.askRetry (s : State) (p : Fin 48) : State :=
  if s.permitted p then
    (s.setPort p { s.port p with step := some .queued, retry := none }).request p .retry
  else s.endWake p

/-- Every wake ended. -/
def State.endWakes (s : State) : State := allPorts.foldl State.endWake s

/-- A feed begins on an IDLE port (R27); an ABSENT terminal starts the absence timer (R25). -/
def State.startFeed (s : State) (p : Fin 48) : State :=
  let x := s.port p
  (s.setPort p { x with
      action := .feeding, switch := true, fed := false
      absence := if x.status = .absent then some s.clock else none }).markPort p

/-- A pulse of a wake begins (R29); a terminal already at RUN answers it at the grant (R30). -/
def State.startPulse (s : State) (p : Fin 48) : State :=
  let x := s.port p
  let attempts := if x.action = .waking then x.attempts + 1 else 1
  let s1 := (s.setPort p { x.clearTimers with
      action := .waking, step := some .pulse, switch := true, attempts := attempts
      pulse := some s.clock, answer := some s.clock }).markPort p
  if x.status = .run then s1.endWake p else s1

/-- The port goes to BARRED with PORT_BARRED (R31, R33); causes 1 WAKE, 2 TRIPS. -/
def State.bar (s : State) (p : Fin 48) (cause : Nat) : State :=
  let x := s.port p
  let s1 := (s.setPort p { x.clearTimers with action := .barred, switch := false }).markPort p
  s1.raise .portBarred p.val x.trips cause

/-- The trip limit of port `p` in the plan in use is loaded into its comparator (R28). -/
def State.loadLimit (s : State) (p : Fin 48) : State :=
  s.setPort p { s.port p with limit := (s.policy p).trip }

/-- The trip limits of all populated ports loaded (R28). -/
def State.loadLimits (s : State) : State :=
  allPorts.foldl (fun s p => if (s.port p).action = .off then s else s.loadLimit p) s

/-! ## Population (R22) -/

/-- The test unit once the port under test has lost its population: the channel is free, a claim that was
RELEASING has ended with its test (assumption log 34). -/
def TestUnit.bereft (x : TestUnit) : TestUnit :=
  { x with
    run := none
    claim := if x.claim = .releasing then .none else x.claim
    owner := if x.owner = .rota ∨ x.claim = .releasing then .none else x.owner }

/-- A port loses population: OFF from whatever state it held; a slot request it had at the gate is withdrawn
and its slot resolved PORT_LEFT (R22, R42, R69, R98; a test on it, assumption log 34). -/
def State.goOff (s : State) (p : Fin 48) : State :=
  let x := s.port p
  let s1 := ((s.setPort p { x.clearTimers.noCharge with
      action := .off, switch := false, fed := false, trips := 0, attempts := 0, cap := 0 }).leaveGate
        p).dequeue p
  if (s1.test.run.map (·.port)) = some p then { s1 with test := s1.test.bereft } else s1

/-- One port's population re-evaluated; marks are set, and the capacity taken with them, when `marking`
(R22, R73, assumption log 16). -/
def State.repopulate (marking : Bool) (s : State) (p : Fin 48) : State :=
  if (s.port p).action = .off then
    if s.populated p then
      ((s.setPort p { (s.port p).noCharge with
        action := .idle
        cap := if marking then (s.policy p).cap else (s.port p).cap }).loadLimit p).markPortIf marking p
    else s
  else if s.populated p then s
  else (s.goOff p).markPortIf marking p

/-- The segment map rebuilt and population re-evaluated (R21, R22). -/
def State.rebuild (s : State) (marking : Bool) : State :=
  allPorts.foldl (State.repopulate marking) { s with segBounds := s.instBounds }

end Sys2Proof.Machine
end

