-- ==== Sys2Proof/Machine/Scanner.lean ====
section
/-! DEFINITION. The measurement scanner's shared operations: channel values, the sweep in its four
modes, triggers and stops, held results, staleness (R46 to R60). -/

namespace Sys2Proof.Machine

/-- Lowest and highest value of a channel (R46). -/
def channelRange (c : Fin 54) : Int × Int :=
  if c.val < 48 then (0, 4095)
  else if c.val = 48 then (0, 6553)
  else if c.val = 49 then (-32768, 32767)
  else (-80, 250)

/-- A reading as kept: saturated to the channel's range and, for a temperature, corrected by its
sensor's offset and saturated again (R46, R60). -/
def corrected (cfg : ThermalCfg) (c : Fin 54) (raw : Int) : Int :=
  let v := clampI (channelRange c).1 (channelRange c).2 raw
  if c.val < 50 then v else clampI (-80) 250 (v + cfg.offsets.get (Fin.ofNat 4 (c.val - 50)))

/-- The port whose current a channel carries. -/
def channelPort (c : Fin 54) : Option (Fin 48) := portOf c.val

/-- The channel after `c` in the sweep order; S after E (R48). -/
def Header.nextChannel (h : Header) (c : Fin 54) : Fin 54 := if c = h.final then h.first else c + 1

/-- The conversion of a channel starts. -/
def Scan.convert (x : Scan) (now : Nat) (c : Fin 54) : Scan :=
  { x with state := .sweeping, pos := c, conv := some now, held := none }

/-- The scanner goes IDLE at a position, dropping a conversion and a held result. -/
def Scan.rest (x : Scan) (c : Fin 54) : Scan :=
  { x with state := .idle, pos := c, conv := none, held := none }

/-- What follows once the result of the channel at the sweep position has been dealt with
(R50 to R52, R55). -/
def Scan.afterChannel (x : Scan) (h : Header) (now : Nat) : Scan :=
  match h.mode with
  | .oneShot => if x.pos = h.final then x.rest h.first else x.convert now (h.nextChannel x.pos)
  | .oneShotLocked => if x.pos = h.final then x.rest h.first else x.convert now (h.nextChannel x.pos)
  | .continuous => x.convert now (h.nextChannel x.pos)
  | .step => { x with state := .waiting, pos := h.nextChannel x.pos, conv := none, held := none }

/-- What follows a conversion of the start-up sweep (R57). -/
def Scan.afterStartUp (x : Scan) (h : Header) (now : Nat) : Scan :=
  if x.pos = 53 then { x.rest h.first with startUp := false } else x.convert now (x.pos + 1)

/-- A trigger the plan's trigger set selects (R50 to R52). -/
def Scan.trigger (x : Scan) (h : Header) (now : Nat) : Scan :=
  match h.mode with
  | .oneShot => x.convert now h.first
  | .oneShotLocked => if x.state = .idle then x.convert now h.first else x
  | .continuous => if x.state = .idle then x.convert now h.first else x
  | .step => if x.state = .idle ∨ x.state = .waiting then x.convert now x.pos else x

/-- The plan's trigger set selects a source (R49). -/
def Header.selects (h : Header) : TrigSource → Bool
  | .tick => h.trigTick
  | .round => h.trigRound
  | .supervisor => h.trigSup

/-- The scanner takes triggers and stops: the plan store is READY and no start-up sweep runs
(R49, R53, R57). -/
def State.scanOpen (s : State) : Bool := s.store.ready && !s.scan.startUp

/-- A trigger arrives from a source (R49). -/
def State.trigger (s : State) (source : TrigSource) : State :=
  { s with scan :=
      if s.scanOpen && s.header.selects source then s.scan.trigger s.header s.clock else s.scan }

/-- A stop arrives (R53; position, assumption log 19). -/
def State.stopScan (s : State) : State :=
  { s with scan :=
      if s.scanOpen && s.scan.state != .idle then s.scan.rest s.header.first else s.scan }

/-- Results are logged under the plan in use and the region map (R54). -/
def State.logs (s : State) : Bool := s.header.logging && (s.region .meas).isSome

/-- A result with a reading dealt with: the start-up sweep makes no record; otherwise a record joins
the queue, is held, or is not wanted (R54, R57). -/
def State.dealResult (s : State) (v : Int) : State :=
  if s.scan.startUp then { s with scan := s.scan.afterStartUp s.header s.clock }
  else if s.logs then
    let m : Meas := { channel := s.scan.pos, value := v, time := s.partTime }
    if s.path.ownq.length < Config.queuePlaces then
      { s with
        path := { s.path with ownq := s.path.ownq ++ [{ item := .meas m }] }
        scan := s.scan.afterChannel s.header s.clock }
    else { s with scan := { s.scan with state := .paused, conv := none, held := some m } }
  else { s with scan := s.scan.afterChannel s.header s.clock }

/-- The channel under conversion takes a reading: value, age and stale flag (R46). -/
def State.takeReading (s : State) (v : Int) : State :=
  let c := s.scan.pos
  let s1 := { s with scan := { s.scan with
      values := s.scan.values.set c v, ages := s.scan.ages.set c 0 } }
  match channelPort c with
  | some p => s1.markPortIf (s.stale c) p
  | none => s1

/-- A freed place of the own-access queue is taken by the staging head, else by the held result, with
which the scanner leaves PAUSED (R55, R131). -/
def State.fillPlace (s : State) : State :=
  if s.path.ownq.length < Config.queuePlaces then
    match s.ev.staging with
    | e :: rest =>
      { s with
        path := { s.path with ownq := s.path.ownq ++ [{ item := .event e }] }
        ev := { s.ev with staging := rest } }
    | [] =>
      match s.scan.held with
      | some m =>
        { s with
          path := { s.path with ownq := s.path.ownq ++ [{ item := .meas m }] }
          scan := s.scan.afterChannel s.header s.clock }
      | none => s
  else s

/-- A held result without a MEAS region is discarded and the scanner leaves PAUSED (R56). -/
def State.dropHeld (s : State) : State :=
  { s with scan :=
      if s.scan.held.isSome && (s.region .meas).isNone then s.scan.afterChannel s.header s.clock
      else s.scan }

/-- Every channel's age advances; a port whose flag sets is marked (R58). -/
def State.ageChannels (s : State) : State :=
  let s1 := { s with scan := { s.scan with ages := s.scan.ages.map fun n => min 255 (n + 1) } }
  allPorts.foldl
    (fun x p => x.markPortIf (!s.stale (portChannel p) && s1.stale (portChannel p)) p) s1

/-- The scanner takes a new plan's mode, S and E; the start-up sweep is not interrupted
(R56, R57). -/
def State.scanPlan (s : State) (old : PlanUse) : State :=
  let h := s.header
  { s with scan :=
      if s.scan.startUp || old = .noPlan then s.scan
      else if old.header.mode = h.mode ∧ old.header.first = h.first ∧ old.header.final = h.final then
        s.scan
      else s.scan.rest h.first }

/-- The start-up sweep begins (R57). -/
def State.beginStartUp (s : State) : State :=
  { s with scan := { s.scan.convert s.clock 0 with startUp := true } }

end Sys2Proof.Machine
end

