-- ==== Sys2Proof/Machine/Accounting.lean ====
section
/-! DEFINITION. The charge accounting unit's shared operations: deficits, resyncs, the central string and
the load filter (R67 to R83). -/

namespace Sys2Proof.Machine

/-- A populated port's deficit after a period (R69): held in MAINS, fed, or drained. -/
def Policy.nextDeficit (pol : Policy) (inMains : Bool) (current : Nat) (x : Port) : Nat :=
  let d := pol.drain x.status
  if inMains then x.deficit
  else if x.action = .feeding then min pol.cap (x.deficit - (current - d) * pol.eff / 16)
  else min pol.cap (x.deficit + d)

/-- A populated port's taper count after a period, before the full resync (R71). -/
def Policy.nextTaper (pol : Policy) (current : Nat) (x : Port) : Nat :=
  if x.action = .feeding ∧ current ≤ pol.drain x.status + pol.taper then x.taper + 1 else 0

/-- The period end judges a port full (R71). -/
def Policy.judgesFull (pol : Policy) (current : Nat) (x : Port) : Bool :=
  x.action != .off && decide (60 ≤ pol.nextTaper current x)

/-- Steps 1 and 2 of a period end for one port: deficit, full resync, urgency and key (R69 to R72);
a port that is not populated keeps its zeros. -/
def Policy.account (pol : Policy) (inMains : Bool) (current : Nat) (x : Port) : Port :=
  if x.action = .off then x
  else if 60 ≤ pol.nextTaper current x then Port.reckon { x with deficit := 0, taper := 0 } pol
  else Port.reckon
    { x with deficit := pol.nextDeficit inMains current x, taper := pol.nextTaper current x } pol

/-- Steps 1 and 2 of a period end for every port, with the marks of changed deficits and of full
resyncs (R67, R43, R71). -/
def State.accountPorts (s : State) : State :=
  let ports : Tab Port 48 := Tab.ofFn fun p =>
    (s.policy p).account (s.phase.phase = .mains) (s.current p) (s.port p)
  allPorts.foldl
    (fun x p => x.markPortIf ((ports.get p).deficit != (s.port p).deficit
      || (s.policy p).judgesFull (s.current p) (s.port p)) p) { s with ports := ports }

/-- L of a charge under a capacity (R75). -/
def levelOf (q cap : Nat) : Nat := q * 100 / cap

/-- Step 3: Q falls by the battery current, except in MAINS (R75, R77). -/
def State.accountQ (s : State) : State :=
  let q := (clampI 0 s.acct.cap (s.acct.q - s.value 49)).toNat
  { s with acct :=
      if s.phase.phase = .mains then s.acct
      else { s.acct with q := q, level := levelOf q s.acct.cap } }

/-- The load sample S in mA (R78). -/
def State.loadSample (s : State) : Nat :=
  (allPorts.map fun p =>
      if (s.port p).action = .feeding ∨ (s.port p).action = .waking then s.current p else 0).sum
    + s.header.inrush * s.acct.count
    + (if s.test.run.isSome then s.header.testWeight else 0)

/-- F16 after a sample: a 2^k share of the gap, truncated toward zero (R79). -/
def nextF16 (f16 sample k : Nat) : Nat :=
  ((f16 : Int) + ((sample : Int) * 16 - f16).tdiv ((2 ^ k : Nat) : Int)).toNat

/-- Step 4: the sample is taken and filtered, the switch-on count starts again (R78, R79). -/
def State.accountLoad (s : State) : State :=
  { s with acct := { s.acct with
      f16 := nextF16 s.acct.f16 s.loadSample s.header.k, count := 0 } }

/-- Total feed seconds and the mark of R112 at a period end (R27). -/
def Port.fedSecond (x : Port) : Port :=
  if x.action = .feeding then { x with feedSecs := bump32 x.feedSecs, fed := true } else x

/-- Total feed seconds of every port. -/
def State.feedSeconds (s : State) : State := { s with ports := s.ports.map Port.fedSecond }

/-- The policy a LOW resync reckons with: that of the plan in use; while no plan is, the C kept from the last plan
(R73) under the free class of no plan (assumption log 10), so that U stays within 0 to 1024 (R72). -/
def State.resyncPolicy (s : State) (p : Fin 48) : Policy :=
  if s.store.plan = .noPlan then { s.policy p with cap := (s.port p).cap } else s.policy p

/-- The LOW resync of a port (R70): the deficit at least 7C/8, U and key recomputed. -/
def State.lowResync (s : State) (p : Fin 48) : State :=
  let x := s.port p
  let pol := s.resyncPolicy p
  let deficit := max x.deficit (7 * pol.cap / 8)
  (s.setPort p (Port.reckon { x with deficit := deficit } pol)).markPortIf (deficit != x.deficit) p

/-- Q becomes the charge of the start level at an outage start (R75). -/
def State.startQ (s : State) : State :=
  let q := s.acct.cap * s.phase.startLevel / 100
  { s with acct := { s.acct with q := q, level := levelOf q s.acct.cap } }

/-- Q lowered to the charge of the cut-off level (R76). -/
def State.lowerQ (s : State) : State :=
  let q := min s.acct.q (s.acct.cap * s.header.cutoff / 100)
  { s with acct := { s.acct with q := q, level := levelOf q s.acct.cap } }

/-- Cap taken from the installation block; Q saturated to it (R74, R83). -/
def State.takeCap (s : State) : State :=
  let cap := s.instCapNow
  let q := min s.acct.q cap
  { s with acct := { s.acct with cap := cap, q := q, level := levelOf q cap } }

/-- One populated port under a new plan: capacity taken, deficit saturated to it, U and key recomputed
(R73). -/
def Port.replan (pol : Policy) (x : Port) : Port :=
  if x.action = .off then x
  else Port.reckon { x with deficit := min pol.cap x.deficit, cap := pol.cap } pol

/-- Every port under a new plan, marking those whose capacity, U or key changed (R73). -/
def State.replanPorts (s : State) : State :=
  let ports : Tab Port 48 := Tab.ofFn fun p => Port.replan (s.policy p) (s.port p)
  allPorts.foldl
    (fun x p => x.markPortIf
      ((s.port p).action != .off &&
        ((ports.get p).u != (s.port p).u || (ports.get p).key != (s.port p).key
          || (ports.get p).deficit != (s.port p).deficit || (ports.get p).cap != (s.port p).cap)) p)
    { s with ports := ports }

end Sys2Proof.Machine
end

