-- ==== Sys2Proof/Machine/Plans.lean ====
section
/-! DEFINITION. The plan store's shared operations: validation, the plan in use and carrying it to the
blocks, bank switches (R92, R119, R128, R144 to R151). -/

namespace Sys2Proof.Machine

/-! ## Banks -/

/-- A bank's record. -/
def State.bank (s : State) (bank : Bank) : BankInfo :=
  match bank with
  | .a => s.store.a
  | .b => s.store.b

/-- A bank's record replaced. -/
def State.setBank (s : State) (bank : Bank) (x : BankInfo) : State :=
  { s with store := { s.store with
      a := if bank = .a then x else s.store.a
      b := if bank = .b then x else s.store.b } }

/-- A bank's record after a validation of its image (R144). -/
def State.validated (s : State) (bank : Bank) : BankInfo :=
  match s.bankRegion bank with
  | none => { image := [], validity := .absent, item := some (-1) }
  | some _ =>
    let image := (s.bank bank).image
    match firstInvalid image.num s.populated with
    | none => { image := image, validity := .valid, item := none }
    | some i => { image := image, validity := .invalid, item := some i }

/-- A bank validated (R144). -/
def State.validateBank (s : State) (bank : Bank) : State := s.setBank bank (s.validated bank)

/-- Bytes of a bank's region copied into its image; bytes beyond the 992nd have no effect (R140). -/
def imageTake (image : Mem) (base : Nat) : List Placed → Mem
  | [] => image
  | x :: rest =>
    imageTake
      (if base ≤ x.addr ∧ x.addr < base + 992 then image.write (x.addr - base) x.byte else image)
      base rest

/-! ## The scheduler's part of a plan change (R92) -/

/-- Entries the purge removes: below the join level, class not permitted, condition false. -/
def State.purges (s : State) (p : Fin 48) : Bool :=
  decide ((s.port p).u < (s.policy p).join) || !s.permitted p || !s.condition p

/-- The purge. -/
def State.purge (s : State) : State :=
  ((s.sched.queue.map (·.port)).filter s.purges).foldl State.dequeue s

/-- The remaining entries take their recomputed U and key and are put back in order. -/
def State.reorder (s : State) : State :=
  { s with sched := { s.sched with
      queue := s.sched.queue.foldl (fun q e =>
        queueInsert { e with u := (s.port e.port).u, key := (s.port e.port).key } q) [] } }

/-- The FEEDING port with the lowest queue key, of equal keys the higher port (R92, R94). -/
def State.lowestFeed (s : State) : Option (Fin 48) :=
  allPorts.foldl (fun best p =>
    if (s.port p).action = .feeding then
      match best with
      | none => some p
      | some q => if (s.port p).key ≤ (s.port q).key then some p else some q
    else best) none

/-- One feed ended: the lowest (R94). -/
def State.endLowestFeed (s : State) : State :=
  match s.lowestFeed with
  | some p => s.endFeed p
  | none => s

/-- Feeds ended one at a time until the count is at the feed limit (R92). -/
def State.trimFeeds : Nat → State → State
  | 0, s => s
  | n + 1, s =>
    if s.header.feedLimit < s.feedingCount then State.trimFeeds n s.endLowestFeed else s

/-! ## Carrying a change of the plan in use (R149) -/

/-- The rota counters adjusted to the new rota (R119). -/
def State.adjustRota (s : State) : State :=
  { s with test := { s.test with
      counters := Tab.ofFn fun i =>
        let c := s.test.counters.get i
        if i.val < s.header.rotaN then
          if s.test.rotaN ≤ i.val then (s.store.plan.rota i).interval
          else min c (s.store.plan.rota i).interval
        else c
      rotaN := s.header.rotaN } }

/-- Every alarm edge state set to false (R128). -/
def State.clearEdges (s : State) : State := { s with ev := { s.ev with edges := Tab.fill 16 false } }

/-- The plan now in use carried to the blocks in the order of R149; `old` was in use before. -/
def State.carry (s : State) (old : PlanUse) : State :=
  let s1 := s.replanPorts
  let s2 := State.trimFeeds 48 s1.purge.reorder
  let s3 := s2.loadLimits
  let s4 := s3.scanPlan old
  let s5 := s4.adjustRota
  s5.clearEdges.reHold

/-- The plan in use replaced, not yet carried. -/
def State.usePlan (s : State) (plan : PlanUse) : State := { s with store := { s.store with plan := plan } }

/-- The active bank's bytes as the plan in use. -/
def State.activePlan (s : State) : PlanUse := .bank s.store.active (s.bank s.store.active).image

/-- The active bank's first invalid item as an event's value. -/
def State.itemValue (s : State) (bank : Bank) : Int := (s.bank bank).item.getD 0

/-- BANK_REFUSED with cause BUILT_IN (R145). -/
def State.raiseBuiltIn (s : State) : State :=
  s.raise .bankRefused s.store.active.code (s.itemValue s.store.active) 3

/-- The plan in use decided again after the active bank was validated (R145, R151); `edited` after a
write of the bank's bytes. -/
def State.decidePlan (s : State) (edited : Bool) : State :=
  let old := s.store.plan
  if (s.bank s.store.active).validity = .valid then
    match old with
    | .builtIn =>
      ((s.usePlan s.activePlan).raise .bankSwitch s.store.active.code 2 3).carry old
    | _ =>
      if edited then
        ((s.usePlan s.activePlan).raise .bankSwitch s.store.active.code s.store.active.code 2).carry old
      else s
  else
    match old with
    | .builtIn => s
    | _ => ((s.usePlan .builtIn).raiseBuiltIn).carry old

/-- A bank revalidated and, if it is active, the plan in use decided again. -/
def State.revalidate (s : State) (bank : Bank) (edited : Bool) : State :=
  let s1 := s.validateBank bank
  if bank = s.store.active then s1.decidePlan edited else s1

/-! ## Bank switches -/

/-- The bytes the transaction in progress has placed in a bank's region so far go into its image
(R150). -/
def State.takeForwarded (s : State) (bank : Bank) : State :=
  match s.bankRegion bank, s.path.txn with
  | some r, some x =>
    let info := s.bank bank
    s.setBank bank { info with image := imageTake info.image r.lo x.placed }
  | _, _ => s

/-- The transaction record without the bytes it placed in a region. -/
def Txn.without (x : Txn) (r : Region) : Txn :=
  { x with placed := x.placed.filter fun y => !(decide (r.lo ≤ y.addr) && decide (y.addr < r.hi)) }

/-- The bytes already taken into a bank that became active outside MAINS are not handed on again
(R150). -/
def State.dropForwarded (s : State) (bank : Bank) : State :=
  match s.bankRegion bank with
  | some r =>
    if s.phase.phase = .mains then s
    else { s with path := { s.path with txn := s.path.txn.map fun x => x.without r } }
  | none => s

/-- A switch to a target applied (R148, R150). One to the bank already active takes no bytes and validates nothing
(assumption log 64). -/
def State.applySwitch (s : State) (target : Bank) : State :=
  let s0 := { s with store := { s.store with target := none } }
  if target = s.store.active then s0
  else
    let s1 := (s0.takeForwarded target).validateBank target
    match (s1.bank target).validity with
    | .valid =>
      let old := s1.store.plan
      let s2 := { s1 with store := { s1.store with active := target, activeFormed := true } }
      let s3 := ((s2.usePlan s2.activePlan).dropForwarded target).markInst
      (s3.raise .bankSwitch target.code old.code 1).carry old
    | .invalid => s1.raise .bankRefused target.code (s1.itemValue target) 1
    | .absent => s1.raise .bankRefused target.code (s1.itemValue target) 2

/-- A pending target applied, unless a plan load runs (R147; R157, assumption log 25). -/
def State.applyTarget (s : State) : State :=
  match s.store.target with
  | some bank => if s.store.ready && s.store.load.isNone then s.applySwitch bank else s
  | none => s

/-- A switch request taken by the part's situation (R147). -/
def State.takeSwitch (s : State) (target : Bank) : State :=
  if !s.store.ready || s.store.load.isSome || (s.phase.phase.active && !s.scan.latch) then
    { s with store := { s.store with target := some target } }
  else s.applySwitch target

end Sys2Proof.Machine
end

