-- ==== Sys2Proof/Machine/Tests.lean ====
section
/-! DEFINITION. The test unit's shared operations: readiness, the start and the end of a test, the claim
(R108 to R124). -/

namespace Sys2Proof.Machine

/-! ## Readiness and starting -/

/-- A test of a kind can start on a port (R112). -/
def State.readyFor (s : State) (p : Fin 48) : TestKind → Bool
  | .holdup =>
    decide ((s.port p).status = .run) &&
      (decide ((s.port p).action = .idle) || (decide ((s.port p).action = .feeding) && (s.port p).fed))
  | .wake =>
    decide ((s.port p).action = .idle) && decide ((s.port p).status = .sleep) && !s.acct.hold
  | .draw => decide ((s.port p).action = .feeding)

/-- The attach (R37, R108): the port goes to TESTING and leaves the queue; a slot request it had at the
gate is withdrawn and its slot resolved PORT_LEFT (R99). -/
def State.attach (s : State) (p : Fin 48) (kind : TestKind) : State :=
  let x := s.port p
  let s1 := ((s.setPort p { x.clearTimers with
      action := .testing, switch := decide (kind = .draw) && x.switch, fed := false }).markPort p).dequeue p
  if s.slotWaits p then (s1.unrequest p).resolvePort p .portLeft else s1

/-- A test starts (R113). -/
def State.startTest (s : State) (p : Fin 48) (kind : TestKind) (bySupervisor : Bool) (minutes : Nat)
    (rota : Option (Fin 16)) : State :=
  let s1 := s.attach p kind
  let s2 := { s1 with test := { s1.test with
      run := some { port := p, kind := kind, bySupervisor := bySupervisor, minutes := minutes,
                    rota := rota, attached := s.clock }
      owner := if bySupervisor then s1.test.owner else .rota } }
  if kind = .wake then s2.request p .pulse else s2

/-! ## The end of a test -/

/-- Cause code of TEST_RESULT (10_memory_images.md). -/
def TestResult.eventCause : TestResult → Nat
  | .pass => 1
  | .fail => 2
  | .aborted .trip => 3
  | .aborted .phase => 4
  | .aborted .thermal => 5
  | .aborted .supervisor => 6
  | .aborted .reset => 0

/-- Whole seconds since the attach. -/
def TestRun.elapsed (run : TestRun) (now : Nat) : Nat := (now - run.attached) / Config.sec

/-- The detach (R37): switch open, port IDLE. -/
def State.detach (s : State) (p : Fin 48) : State :=
  (s.setPort p { s.port p with action := .idle, switch := false }).markPort p

/-- The port's last-test summary written (R117). -/
def State.summarise (s : State) (run : TestRun) (result : TestResult) (value : Nat) : State :=
  (s.setPort run.port { s.port run.port with
    lastTest := some { kind := run.kind, result := result, value := value } }).markPort run.port

/-- The test unit's own fields at the end of a test: last result, owner, claim, the rota entry's
counter (R117, R119). -/
def State.endedTest (s : State) (run : TestRun) (result : TestResult) (value : Nat)
    (span : Option (Nat × Nat)) : TestUnit :=
  let released := run.bySupervisor && decide (s.test.claim = .releasing)
  { s.test with
    run := none
    last := some { kind := run.kind, port := run.port, bySupervisor := run.bySupervisor,
                   result := result, value := value, span := span }
    owner := if !run.bySupervisor || released then .none else s.test.owner
    claim := if released then .none else s.test.claim
    counters := match run.rota with
      | some i =>
        if i.val < s.header.rotaN then s.test.counters.set i (s.store.plan.rota i).interval
        else s.test.counters
      | none => s.test.counters }

/-- A test ends with its result (R117); after a trip no detach is made. -/
def State.endTest (s : State) (run : TestRun) (result : TestResult) (value : Nat)
    (span : Option (Nat × Nat)) (tripped : Bool) : State :=
  let s1 := (if tripped then s else s.detach run.port).unrequest run.port
  let s2 := s1.summarise run result value
  let s3 := { s2 with test := s2.endedTest run result value span }
  s3.raiseTagged .testResult run.port.val value result.eventCause
    (run.kind.code + 256 * (if run.bySupervisor then 2 else 1))

/-- A test in progress aborted (R118). -/
def State.abortTest (s : State) (cause : AbortCause) (tripped : Bool) : State :=
  match s.test.run with
  | some run => s.endTest run (.aborted cause) (run.elapsed s.clock) none tripped
  | none => s

/-- A status change of the port under test (R114, R115). -/
def State.testStatus (s : State) (p : Fin 48) (status : TermStatus) : State :=
  match s.test.run with
  | some run =>
    if run.port = p then
      match run.kind with
      | .holdup =>
        if status = .run then s
        else s.endTest run .fail (min (run.elapsed s.clock) (60 * run.minutes - 1)) none false
      | .wake =>
        match run.granted with
        | some g =>
          if status = .run then
            s.endTest run .pass (min 5000 ((s.clock - g) / Config.ms)) none false
          else s
        | none => s
      | .draw => s
    else s
  | none => s

/-! ## The rota (R120) -/

/-- Rota entry `i` is due and ready on a populated port: its port and kind. -/
def State.rotaReady (s : State) (i : Fin 16) : Option (Fin 48 × TestKind) :=
  let e := s.store.plan.rota i
  match portOf e.port, e.kind with
  | some p, some kind =>
    if i.val < s.header.rotaN ∧ s.test.counters.get i = 0 ∧ s.readyFor p kind then some (p, kind) else none
  | _, _ => none

/-- The first rota entry that is due and ready (R120). -/
def State.rotaFirst (s : State) : Option (Fin 16) :=
  (List.finRange 16).find? fun i => (s.rotaReady i).isSome

end Sys2Proof.Machine
end

