-- ==== Sys2Proof/Machine/Rounds.lean ====
section
/-! DEFINITION. The feed scheduler's rounds (R84 to R107) and the segment gate's grants (R38 to R42). -/

namespace Sys2Proof.Machine

/-! ## Eligibility -/

/-- An eligibility notice taken (R85): admitted, refreshed or discarded. -/
def State.notice (s : State) (p : Fin 48) : State :=
  let x := s.port p
  if x.action = .idle ∧ s.permitted p ∧ s.scan.latch = false ∧ s.openSlot p = none then
    State.markPortIf
      { s with sched := { s.sched with
          queue := queueInsert { port := p, u := x.u, key := x.key }
            (s.sched.queue.filter fun e => e.port ≠ p) } }
      (!s.queued p) p
  else s

/-- The notices of a period end (R72): every populated port at or above its join level. -/
def State.notices (s : State) : State :=
  allPorts.foldl (fun x p =>
    if (s.port p).action ≠ .off ∧ (s.policy p).join ≤ (s.port p).u then x.notice p else x) s

/-! ## Issuing and ending -/

/-- The first unresolved slot. -/
def State.firstOpen (s : State) : Option (Fin 4) :=
  (List.finRange 4).find? fun i => (s.sched.slots.get i).outcome.isNone

/-- A slot request that has become the head of its segment is dropped if the window is full (R40). One that has
been a head stays marked so when a new map moves its port to another segment (assumption log 55). -/
def State.checkHead (s : State) : State :=
  match s.gate.waiting.find? fun r => r.kind = .slot with
  | none => s
  | some r =>
    if r.headed || !s.isHead r then s
    else match s.segOf r.port with
      | none => s
      | some g =>
        if s.windowFull g then (s.unrequest r.port).resolvePort r.port .windowFull
        else { s with gate := { s.gate with
          waiting := s.gate.waiting.map fun q => if q = r then { q with headed := true } else q } }

/-- Slot `i`, holding port `p`, issued (R97); a test start meets the channel and the port as R95 found
them, so its readiness holds. A feed or wake start looks at the port's state now (assumption log 49). -/
def State.issueSlot (s : State) (i : Fin 4) (p : Fin 48) : State :=
  let slot := s.sched.slots.get i
  if s.sched.dry then s.resolve i .dry
  else match slot.action, slot.rota with
    | .test, some r =>
      let e := s.store.plan.rota r
      match e.kind with
      | some kind =>
        if s.test.run.isNone && s.readyFor p kind then
          (s.startTest p kind false e.minutes (some r)).resolve i .issued
        else s.resolve i .portLeft
      | none => s.resolve i .portLeft
    | _, _ =>
      if (s.port p).action ≠ .idle then s.resolve i .portLeft
      else if s.gateClosed then s.resolve i .abandoned
      else (s.request p .slot).checkHead

/-- Slots issued in ascending order until one waits at the gate or all are resolved (R97). -/
def State.issueSlots : Nat → State → State
  | 0, s => s
  | n + 1, s =>
    match s.firstOpen with
    | none => s
    | some i =>
      match (s.sched.slots.get i).port with
      | none => State.issueSlots n (s.resolve i .empty)
      | some p => if s.slotWaits p then s else State.issueSlots n (s.issueSlot i p)

/-- A slot as the last-round record keeps it (R100). -/
def Slot.recorded (x : Slot) : SlotRecord :=
  { action := x.action, port := x.port, outcome := x.outcome.getD .empty }

/-- The round ends: its record is made, the round state is NONE (R100). -/
def State.endRound (s : State) : State :=
  { s with sched := { s.sched with
      running := false
      record := { number := s.sched.number, slots := s.sched.slots.map Slot.recorded } } }

/-- A round whose last slot is resolved ends (R100). -/
def State.finishRound (s : State) : State :=
  if s.sched.running ∧ s.firstOpen = none then s.endRound else s

/-- An entry to CUTOFF, RESTORE or CRITICAL abandons a running round and stops the timer (R104). -/
def State.abandonRound (s : State) : State :=
  let slots : Tab Slot 4 := s.sched.slots.map fun x =>
    if x.outcome.isNone then { x with outcome := some .abandoned } else x
  let s1 := if s.sched.running then
      State.endRound { s with sched := { s.sched with slots := slots } }
    else s
  { s1 with sched := { s1.sched with timer := none, startPending := false } }

/-! ## The round start -/

/-- Why step 3 ends a feed: done, class or condition (R93). -/
def State.feedOver (s : State) (p : Fin 48) : Bool :=
  decide ((s.port p).u ≤ (s.policy p).stop) || !s.permitted p || !s.condition p

/-- Step 3: feeds that have done their work or may no longer run are ended together (R93). -/
def State.endDone (s : State) : State := (allPorts.filter s.feedOver).foldl State.endFeed s

/-- Step 4: one feed shed while the shed signal is on (R94). -/
def State.shedOne (s : State) : State := if s.shed then s.endLowestFeed else s

/-- Slot 0 may take a test start (R95). -/
def State.testAllowed (s : State) : Bool :=
  s.test.run.isNone && decide (s.test.owner = .none) && decide (s.scan.thermal = .normal)
    && decide (s.phase.phase = .outage)
    && s.sched.queue.all fun e => !((s.policy e.port).cls == 0 && decide (896 ≤ e.u))

/-- A slot filled; its port leaves the queue (R96). -/
def State.fill (s : State) (i : Fin 4) (action : SlotAction) (p : Fin 48) (rota : Option (Fin 16)) :
    State :=
  State.dequeue { s with sched := { s.sched with
    slots := s.sched.slots.set i { action := action, port := some p, rota := rota } } } p

/-- Slot 0's test start placed, if R95 gives one. -/
def State.fillTest (s : State) : State :=
  if s.testAllowed then
    match s.rotaFirst with
    | some r =>
      match s.rotaReady r with
      | some (p, _) => s.fill 0 .test p (some r)
      | none => s
    | none => s
  else s

/-- The lowest free slot below a bound. -/
def State.freeSlot (s : State) (bound : Nat) : Option (Fin 4) :=
  (List.finRange 4).find? fun i => decide (i.val < bound) && decide ((s.sched.slots.get i).action = .none)

/-- The candidate walk over the queue (R96); `feeds` is the feed count. -/
def State.walk : List QueueEntry → Nat → State → State
  | [], _, s => s
  | e :: rest, feeds, s =>
    let p := e.port
    if !s.condition p || s.acct.hold || decide (s.header.feedLimit ≤ feeds) then State.walk rest feeds s
    else if (s.port p).status = .sleep ∨ (s.port p).status = .absent then
      match s.freeSlot 2 with
      | some i => State.walk rest feeds (s.fill i .wake p none)
      | none => State.walk rest feeds s
    else
      match s.freeSlot 4 with
      | some i => State.walk rest (feeds + 1) (s.fill i .feed p none)
      | none => State.walk rest feeds s

/-- Slots left without content are resolved EMPTY (R96). -/
def State.emptySlots (s : State) : State :=
  { s with sched := { s.sched with
      slots := s.sched.slots.map fun x =>
        if x.action = .none then { x with outcome := some .empty } else x } }

/-- Step 5: the slots filled (R95, R96). -/
def State.fillSlots (s : State) : State :=
  let s1 := s.fillTest
  (State.walk s1.sched.queue s1.feedingCount s1).emptySlots

/-- The round timer starts for one round period of the plan in use (R89). -/
def State.startTimer (s : State) : State :=
  { s with sched := { s.sched with timer := some (s.clock + s.header.period * Config.sec) } }

/-- The feed enable of the plan in use is read for the round (R18, R91). -/
def State.readFeedEnable (s : State) : State :=
  { s with sched := { s.sched with dry := !s.header.feedEnable } }

/-- A round starts: steps 1 to 6 in one step (R91), then the round-start trigger (R49). -/
def State.roundStart (s : State) : State :=
  let s0 := { s with sched := { s.sched with
      number := (s.sched.number + 1) % 65536, running := true, slots := Tab.fill 4 {} } }
  let s2 := s0.applyTarget.startTimer
  let s5 := s2.endDone.shedOne.readFeedEnable.fillSlots
  ((State.issueSlots 9 s5).finishRound).trigger .round

/-- The running round goes on after a change at the gate or in its slots: a new head is checked, slots
are issued, and the round ends with its last slot (R40, R97, R100). -/
def State.issueOn (s : State) : State :=
  if s.sched.running then (State.issueSlots 9 s.checkHead).finishRound else s

/-- The running round goes on, and at its end a pending start is taken (R90, R100). -/
def State.runRound (s : State) : State :=
  let s1 := s.issueOn
  if s1.sched.running = false ∧ s1.sched.startPending then
    State.roundStart { s1 with sched := { s1.sched with startPending := false } }
  else s1

/-! ## Grants (R41) -/

/-- A start time appended to a history, pushing out the oldest of four. -/
def pushStart (h : List Nat) (t : Nat) : List Nat := (h ++ [t]).drop (h.length + 1 - 4)

/-- Effects 1 to 4 of a grant. -/
def State.noteGrant (s : State) (r : Request) : State :=
  let s1 := s.unrequest r.port
  { s1 with
    gate := { s1.gate with
      hist := match s.segOf r.port with
        | some g => s1.gate.hist.set g (pushStart (s1.gate.hist.get g) s.clock)
        | none => s1.gate.hist
      last := some s.clock }
    acct := { s1.acct with count := s1.acct.count + 1 } }

/-- The pulse of a WAKE test begins (R37, R115); a terminal already at RUN passes with value 0. -/
def State.startTestPulse (s : State) (p : Fin 48) : State :=
  match s.test.run with
  | some run =>
    if run.port = p ∧ (s.port p).action = .testing then
      let run' := { run with pulse := some s.clock, granted := some s.clock }
      let s1 := State.setPort { s with test := { s.test with run := some run' } } p
        { s.port p with switch := true }
      if (s.port p).status = .run then s1.endTest run' .pass 0 none false else s1
    else s
  | none => s

/-- The work of a granted slot begins on its IDLE port (R27, R29). -/
def State.startSlot (s : State) (action : SlotAction) (p : Fin 48) : State :=
  if (s.port p).action = .idle then
    if action = .wake then s.startPulse p else s.startFeed p
  else s

/-- Effect 5 of a grant: the requester is told (R41), and a feed start begins also above a feed limit that a reload
has lowered since its slot was filled (R96; assumption log 56). -/
def State.tellGrant (s : State) (r : Request) : State :=
  match r.kind with
  | .slot =>
    match s.openSlot r.port with
    | some i => (s.resolve i .issued).startSlot (s.sched.slots.get i).action r.port
    | none => s
  | .retry => if (s.port r.port).action = .waking then s.startPulse r.port else s
  | .pulse => s.startTestPulse r.port

/-- The grant of a request in one step (R41). -/
def State.grant (s : State) (r : Request) : State := ((s.noteGrant r).tellGrant r).runRound

end Sys2Proof.Machine
end

