-- ==== Sys2Proof/Machine/Phases.lean ====
section
/-! DEFINITION. The phase controller's transitions and the thermal states with the CRITICAL latch
(R1 to R20, R60 to R64). -/

namespace Sys2Proof.Machine

/-! ## Entries -/

/-- The PHASE event of an entry, with the level reported once the entry is complete (R4). -/
def State.raisePhase (s : State) (cause : PhaseCause) : State :=
  s.raise .phase noSubject s.level cause.code

/-- The phase set; every entry but RESTORE zeroes the undervoltage count (R7). -/
def State.setPhase (s : State) (phase : Phase) : State :=
  { s with phase := { s.phase with
      phase := phase, uv := if phase = .restore then s.phase.uv else 0 } }

/-- Every request withdrawn (R42). -/
def State.clearGate (s : State) : State := { s with gate := { s.gate with waiting := [] } }

/-- All feeding stops: queue emptied, round abandoned, requests withdrawn, feeds and wakes ended
(R9, R64). -/
def State.stopAll (s : State) : State := s.emptyQueue.abandonRound.clearGate.endFeeds.endWakes

/-- Port `p` is of class 1 or 2. -/
def State.lowClass (s : State) (p : Fin 48) : Bool := (s.policy p).cls != 0

/-- Unresolved slots of class 1 and 2 ports resolved PHASE, their requests withdrawn (R103). -/
def State.narrowSlots (s : State) : State :=
  allPorts.foldl (fun x p =>
    if x.lowClass p && (x.openSlot p).isSome then
      (if x.slotWaits p then x.unrequest p else x).resolvePort p .phase
    else x) s

/-- Entry to RESERVE; the running round goes on with the slots of class 0, a pending start waits for the end
of the step that made the entry (R8, R91, R103). -/
def State.enterReserve (s : State) (cause : PhaseCause) : State :=
  let s1 := s.setPhase .reserve
  let s2 := ((s1.sched.queue.map (·.port)).filter s1.lowClass).foldl State.dequeue s1
  let s3 := (allPorts.filter s2.lowClass).foldl State.endWake s2.narrowSlots
  (s3.raisePhase cause).issueOn

/-- Entry to CUTOFF (R9, R76). -/
def State.enterCutoff (s : State) (cause : PhaseCause) : State :=
  let s1 := s.setPhase .cutoff
  let s2 := if cause = .undervoltage then s1.lowerQ else s1
  (((s2.stopAll).abortTest .phase false).raisePhase cause).applyTarget

/-- Entry to RESTORE (R11). -/
def State.enterRestore (s : State) : State :=
  ((((s.setPhase .restore).stopAll).abortTest .phase false).raisePhase .mainsBack).applyTarget

/-- The round timer starts at an entry to OUTAGE or RESERVE with the latch clear (R89). -/
def State.entryTimer (s : State) : State := if s.scan.latch then s else s.startTimer

/-- The level test (R6). -/
def State.levelTest (s : State) : State :=
  let l := s.acct.level
  if s.phase.phase = .outage then
    if l < s.header.cutoff then s.enterCutoff .level
    else if l < s.header.reserve then s.enterReserve .level
    else s
  else if s.phase.phase = .reserve then
    if l < s.header.cutoff then s.enterCutoff .level else s
  else s

/-- Every rota due counter loaded with its entry's interval, the minute count set to 0 (R119). -/
def State.loadRota (s : State) : State :=
  { s with test := { s.test with
      counters := Tab.ofFn fun i =>
        if i.val < s.header.rotaN then (s.store.plan.rota i).interval else s.test.counters.get i
      minute := 0 } }

/-- The outage start (R5). -/
def State.outageStart (s : State) : State :=
  let s1 := s.setPhase .outage
  let s2 := { s1 with phase := { s1.phase with outageTime := 0 } }
  let s3 := s2.startQ.loadRota.entryTimer
  (s3.raisePhase .mainsLost).levelTest

/-- A loss qualified in RESTORE (R13). -/
def State.returnFromRestore (s : State) : State :=
  let l := s.acct.level
  if l < s.header.cutoff then s.enterCutoff .mainsLost
  else if l < s.header.reserve then s.entryTimer.enterReserve .mainsLost
  else ((s.setPhase .outage).entryTimer).raisePhase .mainsLost

/-! ## Qualification -/

/-- A loss qualification is taken (R1, R5, R13). -/
def State.takeLoss (s : State) : State :=
  let s1 := { s with phase := { s.phase with mains := .lost, qual := .stopped } }
  match s.phase.phase with
  | .mains => s1.outageStart
  | .restore => s1.returnFromRestore
  | _ => s1

/-- A restore qualification is taken (R1, R11). -/
def State.takeRestore (s : State) : State :=
  let s1 := { s with phase := { s.phase with mains := .present, qual := .stopped } }
  if s.phase.phase.active ∨ s.phase.phase = .cutoff then s1.enterRestore else s1

/-- The qualify time that the running or held qualification is compared with (R2). -/
def State.qualifyTime (s : State) : Nat :=
  if s.phase.mains = .losing then s.lossTime else s.restoreTime

/-- The timer has reached its time with `count` counted: taken while READY, held with that count while
LOADING (R3). -/
def State.qualify (s : State) (count : Nat) : State :=
  if s.store.ready = false then { s with phase := { s.phase with qual := .held count } }
  else if s.phase.mains = .losing then s.takeLoss
  else if s.phase.mains = .returning then s.takeRestore
  else s

/-- The qualification timer looked at again, at its expiry, after a change of the qualify time or once
the plan store is READY (R2, R3). -/
def State.requalify (s : State) : State :=
  match s.phase.qual with
  | .stopped => s
  | .running t0 => if t0 + s.qualifyTime ≤ s.clock then s.qualify (s.clock - t0) else s
  | .held n =>
    if n < s.qualifyTime then
      { s with phase := { s.phase with qual := .running (s.clock - n) } }
    else if s.store.ready then s.qualify n
    else s

/-- A sample of MAINS_OK (R1). -/
def State.mainsSample (s : State) (high : Bool) : State :=
  let s1 := { s with phase := { s.phase with mainsOk := high } }
  match s.phase.mains, high with
  | .present, false => { s1 with phase := { s1.phase with mains := .losing, qual := .running s.clock } }
  | .losing, true => { s1 with phase := { s1.phase with mains := .present, qual := .stopped } }
  | .lost, true => { s1 with phase := { s1.phase with mains := .returning, qual := .running s.clock } }
  | .returning, false => { s1 with phase := { s1.phase with mains := .lost, qual := .stopped } }
  | _, _ => s1

/-! ## Thermal states -/

/-- The thermal state an evaluation gives (R61). -/
def nextThermal (cfg : ThermalCfg) (t : Int) : Thermal → Thermal
  | .critical => .critical
  | .normal =>
    if cfg.critical ≤ t then .critical else if cfg.hot ≤ t then .hot
    else if cfg.warm ≤ t then .warm else .normal
  | .warm =>
    if cfg.critical ≤ t then .critical else if cfg.hot ≤ t then .hot
    else if cfg.warm ≤ t then .warm else if t < cfg.warm - cfg.hyst then .normal else .warm
  | .hot =>
    if cfg.critical ≤ t then .critical else if cfg.hot ≤ t then .hot
    else if t < cfg.hot - cfg.hyst then .warm else .hot

/-- THERMAL raised for the state just entered (R62). -/
def State.raiseThermal (s : State) : State :=
  s.raise .thermal s.hottestSensor s.highestTemp s.scan.thermal.code

/-- Entry to CRITICAL: the latch and its effects in one step (R64). -/
def State.enterCritical (s : State) : State :=
  let s1 := { s with scan := { s.scan with thermal := .critical, latch := true } }
  (((s1.stopAll).abortTest .thermal false).applyTarget).raiseThermal

/-- A thermal evaluation on the channel values held (R61 to R64, R80). -/
def State.evalThermal (s : State) : State :=
  let was := s.scan.thermal
  let new := nextThermal s.thermalCfg s.highestTemp was
  if new = was then s
  else
    let s1 := { s with scan := { s.scan with thermal := new } }
    let s2 := if was = .hot ∨ new = .hot then s1.reHold else s1
    if new = .critical then s2.enterCritical
    else if new = .hot then s2.raiseThermal
    else s2

end Sys2Proof.Machine
end

