-- ==== Sys2Proof/Machine/Live.lean ====
section
/-! DEFINITION. The live window: what a written byte does, what the snapshot serves, the claim and the
test request (R36, R53, R110, R111, R121 to R123, R136, R147, R161, R163; 10_memory_images.md). -/

namespace Sys2Proof.Machine

/-! ## Touching the window (R111) -/

/-- The lapse timer of a HELD claim starts again. -/
def State.restartLapse (s : State) : State :=
  { s with test := { s.test with
      lapse := if s.test.claim = .held then some s.clock else s.test.lapse } }

/-- A live byte is read or written: the first of its transaction restarts the lapse timer (R111, R161). -/
def State.touch (s : State) : State :=
  match s.path.txn with
  | some x =>
    if x.live then s
    else State.restartLapse { s with path := { s.path with txn := some { x with live := true } } }
  | none => s.restartLapse

/-- A write burst is open on the supervisor link. -/
def State.inWrite (s : State) : Bool := s.path.txn.any fun x => x.cmd = some .write

/-- The touch of a command that names a live byte of its own. While a write burst is open the byte is one of
another transaction, which the burst does not reach (R150, R163; assumption log 8). -/
def State.touchRow (s : State) : State := if s.inWrite then s.restartLapse else s.touch

/-- The path unit takes live bytes now: not while STUCK (R167), not in a transaction with another command
(R155), not in one ignored since a reset (R168). -/
def State.takesLive (s : State) : Bool :=
  match s.path.txn with
  | some x => !x.stuck && x.cmd != some .other
  | none => !s.path.csLow

/-- A command that names a live byte of its own: the window is touched and the byte acts, where the path unit
takes it. -/
def State.liveRow (s : State) (act : State → State) : State := if s.takesLive then act s.touchRow else s

/-! ## Acts of written bytes -/

/-- The central start level stored, above 100 as 100 (R16). -/
def State.writeStartLevel (s : State) (v : Byte) : State :=
  { s with phase := { s.phase with startLevel := min 100 v.toNat } }

/-- A bar clear (R36). -/
def State.clearBar (s : State) (v : Byte) : State :=
  match portOf v.toNat with
  | some p =>
    if (s.port p).action = .barred then
      (s.setPort p { s.port p with action := .idle, trips := 0, attempts := 0 }).markPort p
    else s
  | none => s

/-- A release of the claim (R111). -/
def State.release (s : State) : State :=
  if s.test.claim = .held then
    { s with test := { s.test with
        claim := if s.test.run.isSome then .releasing else .none
        owner := if s.test.run.isSome then s.test.owner else .none
        lapse := none } }
  else s

/-- A write to the abort byte (R118). -/
def State.abortWrite (s : State) : State := (s.abortTest .supervisor false).runRound

/-- A write to the bank switch byte (R147). -/
def State.switchWrite (s : State) (v : Byte) : State :=
  if v = 0#8 then s.takeSwitch .a else if v = 1#8 then s.takeSwitch .b else s

/-- A write to the map lock byte (R163). -/
def State.lockWrite (s : State) (v : Byte) : State :=
  { s with path := { s.path with mapLock := s.path.mapLock || v != 0#8 } }

/-- A write to the scan control byte (R49, R53). -/
def State.scanWrite (s : State) (v : Byte) : State :=
  if v = 1#8 then s.trigger .supervisor else if v = 2#8 then s.stopScan else s

/-! ## The claim (R110) -/

/-- A claim attempt: the value returned and the state after it. -/
def State.attemptClaim (s : State) : Byte × State :=
  if s.test.owner = .none ∧ s.test.run = none then
    (0#8, { s with test := { s.test with claim := .held, owner := .supervisor, lapse := some s.clock } })
  else (1#8, s)

/-- The claim byte is reached in a read: the first time in a transaction attempts the claim, later times
return the same value (R110). The byte goes out to the supervisor. -/
def State.readClaim (s : State) : State :=
  match s.path.txn with
  | some x =>
    match x.claim with
    | some v => { s with path := { s.path with slOut := s.path.slOut ++ [v] } }
    | none =>
      let r := s.attemptClaim
      { r.2 with path := { r.2.path with
        txn := some { x with claim := some r.1 }, slOut := s.path.slOut ++ [r.1] } }
  | none =>
    let r := s.attemptClaim
    { r.2 with path := { r.2.path with slOut := s.path.slOut ++ [r.1] } }

/-- CLAIM_ATTEMPT as a command of its own: in an open write burst it is the read of another transaction
(assumption logs 8 and 50). -/
def State.readClaimRow (s : State) : State :=
  if s.inWrite then
    let r := s.attemptClaim
    { r.2 with path := { r.2.path with slOut := s.path.slOut ++ [r.1] } }
  else s.readClaim

/-! ## The test request (R121, R122) -/

/-- The bytes of the field that a transaction wrote are stored; the others keep their values. -/
def State.storeRequest (s : State) (port kind minutes : Option Byte) : State :=
  { s with test := { s.test with req := { s.test.req with
      port := (port.map (·.toNat)).getD s.test.req.port
      kind := (kind.map (·.toNat)).getD s.test.req.kind
      minutes := (minutes.map (·.toNat)).getD s.test.req.minutes } } }

/-- The first cause of R122 that refuses the stored request, or the port and kind it starts. -/
def State.judgeRequest (s : State) : RefuseCause ⊕ (Fin 48 × TestKind) :=
  if s.phase.phase.active = false then .inl .phase
  else if s.test.claim ≠ .held then .inl .noClaim
  else if s.test.run.isSome then .inl .busy
  else match portOf s.test.req.port with
    | none => .inl .badPort
    | some p =>
      if (s.port p).action = .off then .inl .badPort
      else if s.store.ready = false ∨ s.scan.thermal ≠ .normal then .inl .notReady
      else match TestKind.ofCode s.test.req.kind with
        | none => .inl .notReady
        | some kind => if s.readyFor p kind then .inr (p, kind) else .inl .notReady

/-- Code of a refusal cause. -/
def RefuseCause.code : RefuseCause → Nat
  | .phase => 1
  | .noClaim => 2
  | .busy => 3
  | .badPort => 4
  | .notReady => 5

/-- The outcome of the last request. -/
def State.setReqOutcome (s : State) (o : ReqOutcome) : State :=
  { s with test := { s.test with req := { s.test.req with outcome := o } } }

/-- The stored request is taken: minutes clamped, the test started or the request refused with
TEST_REFUSED (R121, R122). -/
def State.takeRequest (s : State) : State :=
  let s1 := { s with test := { s.test with req := { s.test.req with
      minutes := clampN 1 60 s.test.req.minutes } } }
  match s1.judgeRequest with
  | .inr (p, kind) =>
    ((s1.setReqOutcome .started).startTest p kind true s1.test.req.minutes none).runRound
  | .inl cause =>
    (s1.setReqOutcome (.refused cause)).raise .testRefused s1.test.req.port s1.test.req.kind cause.code

/-! ## The event read index (R136) -/

/-- The value a written value becomes, against W, N and M. -/
def State.clampIndex (s : State) (v : Nat) : Nat :=
  let m := s.ringM
  let w := s.ev.w
  if m ≤ v then w
  else
    let back := (w + m - v) % m
    let ahead := (v + m - w) % m
    if back ≤ s.ringN then v
    else if ahead ≤ back - s.ringN then w
    else (w + m - s.ringN) % m

/-- A value of the read index field is applied: R moves where a ring is, the unkept attention flag
clears, ALERT# is re-evaluated (R136, R138). -/
def State.applyIndex (s : State) (v : Nat) : State :=
  let r := if 0 < s.ringN then s.clampIndex v else s.ev.r
  let s1 := { s with ev := { s.ev with r := r, unkept := false } }
  (if r = s.ev.r then s1 else s1.markInst).reAlert

/-- The value formed from the bytes written and, for a byte not written, R (R136). -/
def State.formIndex (s : State) (lo hi : Option Byte) : Nat :=
  (lo.map (·.toNat)).getD (s.ev.r % 256) + 256 * (hi.map (·.toNat)).getD (s.ev.r / 256)

/-- The written read index is taken at the end of its transaction; while LOADING it is held (R136). -/
def State.takeIndex (s : State) (lo hi : Option Byte) : State :=
  if lo.isNone && hi.isNone then s
  else if s.store.ready then s.applyIndex (s.formIndex lo hi)
  else { s with ev := { s.ev with heldRd := some (s.formIndex lo hi) } }

/-! ## Delivery of a written live byte (R161) -/

/-- The transaction in progress changed, if there is one. -/
def State.modTxn (s : State) (f : Txn → Txn) : State :=
  { s with path := { s.path with txn := s.path.txn.map f } }

/-- A written live byte delivered to the owner of its field. -/
def State.deliver (s : State) (off : Nat) (v : Byte) : State :=
  match off with
  | 19 => if v = 1#8 then s.release else s
  | 20 => (s.storeRequest (some v) none none).modTxn fun x => { x with reqWritten := true }
  | 21 => (s.storeRequest none (some v) none).modTxn fun x => { x with reqWritten := true }
  | 22 => (s.storeRequest none none (some v)).modTxn fun x => { x with reqWritten := true }
  | 25 => s.abortWrite
  | 43 => s.switchWrite v
  | 44 => s.lockWrite v
  | 45 => s.writeStartLevel v
  | 46 => s.modTxn fun x => { x with rdLo := some v }
  | 47 => s.modTxn fun x => { x with rdHi := some v }
  | 53 => s.scanWrite v
  | 55 => s.clearBar v
  | _ => s

/-! ## The snapshot (R161; 10_memory_images.md) -/

/-- Code of the mains state. -/
def MainsState.code : MainsState → Nat
  | .present => 0
  | .losing => 1
  | .lost => 2
  | .returning => 3

/-- Code of an owner. -/
def Owner.code : Owner → Nat
  | .none => 0
  | .rota => 1
  | .supervisor => 2

/-- Code of a claim state. -/
def Claim.code : Claim → Nat
  | .none => 0
  | .held => 1
  | .releasing => 2

/-- Code of a test result. -/
def TestResult.code : TestResult → Nat
  | .pass => 1
  | .fail => 2
  | .aborted _ => 3

/-- Code of an abort cause. -/
def AbortCause.code : AbortCause → Nat
  | .trip => 1
  | .phase => 2
  | .thermal => 3
  | .supervisor => 4
  | .reset => 5

/-- Abort cause code of a result; 0 unless ABORTED. -/
def TestResult.abortCode : TestResult → Nat
  | .aborted c => c.code
  | _ => 0

/-- Outcome and refusal cause codes of the last request. -/
def ReqOutcome.codes : ReqOutcome → Nat × Nat
  | .none => (0, 0)
  | .started => (1, 0)
  | .refused c => (2, c.code)

/-- Code of a bank's validity. -/
def Validity.code : Validity → Nat
  | .valid => 0
  | .invalid => 1
  | .absent => 2

/-- Code of a pending target. -/
def targetCode : Option Bank → Nat
  | none => 0
  | some .a => 1
  | some .b => 2

/-- Code of the scanner's state. -/
def ScanState.code : ScanState → Nat
  | .idle => 0
  | .sweeping => 1
  | .waiting => 2
  | .paused => 3

/-- Code of a slot's action. -/
def SlotAction.code : SlotAction → Nat
  | .none => 0
  | .feed => 1
  | .wake => 2
  | .test => 3

/-- Code of a slot's outcome. -/
def SlotOutcome.code : SlotOutcome → Nat
  | .empty => 0
  | .issued => 1
  | .windowFull => 2
  | .portLeft => 3
  | .phase => 4
  | .abandoned => 5
  | .dry => 6

/-- A port's number as a byte; FFh for none. -/
def portByte (p : Option (Fin 48)) : Byte := byteOf ((p.map (·.val)).getD 255)

/-- The bank switch byte (R147). -/
def State.switchByte (s : State) : Nat :=
  s.store.active.code + 2 * targetCode s.store.target + 8 * s.store.a.validity.code
    + 32 * s.store.b.validity.code + (if s.store.plan = .builtIn then 128 else 0)

/-- Offsets 26 to 42: owner, claim, test in progress and last result; with no result its value reads 0 (assumption
log 68). -/
def State.testBytes (s : State) : List Byte :=
  [byteOf s.test.owner.code, byteOf s.test.claim.code,
    portByte (s.test.run.map (·.port)), byteOf ((s.test.run.map (·.kind.code)).getD 0)]
  ++ leBytes 2 ((s.test.run.map (·.elapsed s.clock)).getD 0)
  ++ match s.test.last with
    | none => [0#8, 255#8, 0#8, 0#8, 0#8] ++ leBytes 2 0 ++ leBytes 2 0 ++ leBytes 2 0
    | some x =>
      [byteOf x.kind.code, portByte (some x.port), byteOf (if x.bySupervisor then 2 else 1),
        byteOf x.result.code, byteOf x.result.abortCode]
      ++ leBytes 2 x.value ++ leBytes 2 ((x.span.map (·.1)).getD 0)
      ++ leBytes 2 ((x.span.map (·.2)).getD 0)

/-- The three bytes of a last-round slot. -/
def SlotRecord.bytes (x : SlotRecord) : List Byte :=
  [byteOf x.action.code, portByte x.port, byteOf x.outcome.code]

/-- The 128 live values as they stand now; the claim byte is served apart (R110, R161). -/
def State.liveWindow (s : State) : List Byte :=
  [0x48#8, 0x01#8, byteOf s.phase.phase.code, byteOf s.phase.mains.code, byteOf s.scan.thermal.code,
    byteOf (if s.scan.latch then 1 else 0), byteOf s.level, 0#8]
  ++ leBytes 4 s.acct.q ++ leBytes 4 s.filter
  ++ [byteOf s.sched.queue.length, byteOf s.feedingCount, byteOf s.barredCount, 0#8,
    byteOf s.test.req.port, byteOf s.test.req.kind, byteOf s.test.req.minutes,
    byteOf s.test.req.outcome.codes.1, byteOf s.test.req.outcome.codes.2, 0#8]
  ++ s.testBytes
  ++ [byteOf s.switchByte, byteOf (if s.path.mapLock then 1 else 0), byteOf s.phase.startLevel]
  ++ leBytes 2 s.ev.r ++ leBytes 2 s.ev.w ++ leBytes 2 s.scan.measIdx
  ++ [byteOf ((s.ev.lastKind.map (·.code)).getD 0), byteOf s.scan.state.code, byteOf s.scan.pos.val, 0#8]
  ++ leBytes 2 s.sched.record.number ++ (s.sched.record.slots.val.map SlotRecord.bytes).flatten
  ++ List.replicate 58 0#8

end Sys2Proof.Machine
end

