-- ==== Sys2Proof/Machine/Load.lean ====
section
/-! DEFINITION. Changes of the region map, the installation block as the blocks take it, the ring indexes
formed from memory, and the plan load from its first read to its end (R59, R137, R151 to R154, R157,
R162). -/

namespace Sys2Proof.Machine

/-! ## Loss of work that has no place any more -/

/-- An event entry of the own-access queue. -/
def OwnEntry.isEvent (x : OwnEntry) : Bool :=
  match x.item with
  | .event _ => true
  | .meas _ => false

/-- An own access whose entry or mark has been discarded; a plan-load read has none (assumption
log 28). -/
def Own.voided (kinds : OwnKind → Bool) (o : Option Own) : Option Own :=
  o.map fun x => if kinds x.kind then { x with void := true } else x

/-- A preempted access that is not owed a restart any more. -/
def keptOwed (kinds : OwnKind → Bool) (o : Option OwnKind) : Option OwnKind := o.filter fun k => !kinds k

/-- Every kind of own write. -/
def OwnKind.isWrite (k : OwnKind) : Bool := k != .load

/-- Every event entry of the queue and of the staging list discarded (R137). -/
def State.discardEvents (s : State) : State :=
  { s with
    path := { s.path with
      ownq := s.path.ownq.filter fun x => !x.isEvent
      own := Own.voided (· = .event) s.path.own
      preempted := keptOwed (· = .event) s.path.preempted }
    ev := { s.ev with staging := [] } }

/-- An unconfigured part holds no own write, no queue entry and no mark; the preempted access, a load's read too, is
dropped (R157). -/
def State.clearOwnWork (s : State) : State :=
  { s with
    path := { s.path with
      ownq := []
      dirty := Tab.fill 48 false
      dirtyInst := false
      own := Own.voided OwnKind.isWrite s.path.own
      preempted := none }
    ev := { s.ev with staging := [] } }

/-! ## The rings under a changed map (R59, R137) -/

/-- The EVENTS ring after a change of the region map (R137); `old` holds the earlier map. A ring that appears
counts as formed (assumption log 23); a record's write under way through a change of N is not stopped
(assumption log 28). -/
def State.ringChange (s old : State) : State :=
  let n := s.ringN
  if n = old.ringN then s.reAlert
  else if n = 0 then s.discardEvents.fillPlace.reAlert
  else
    State.reAlert (State.markInst { s with ev := { s.ev with
      w := 0, r := 0, newest := none, unkept := false
      idxFormed := s.ev.idxFormed || old.configured } })

/-- The measurement write index after a change of the region map (R59). A part-owned write under way learns
of an index put back to 0 (R165); no mark is set (assumption log 42); a ring that appears counts as formed
(assumption log 23). -/
def State.measChange (s old : State) : State :=
  let n := s.measN
  if n = 0 ∨ n = old.measN then s
  else
    let idx := if n ≤ s.scan.measIdx then 0 else s.scan.measIdx
    { s with
      scan := { s.scan with measIdx := idx, measFormed := s.scan.measFormed || old.configured }
      path := { s.path with
        own := if idx = s.scan.measIdx then s.path.own else Own.overtaken .inst s.path.own } }

/-! ## The installation block as the blocks take it (R162) -/

/-- The charge accounting unit takes a changed central capacity (R74). -/
def State.capChange (s : State) : State := if s.instCapNow = s.acct.cap then s else s.takeCap

/-- The thermal settings of the installation block come into force (R60). -/
def State.takeThermal (s : State) : State :=
  { s with scan := { s.scan with cfg := s.instThermalNow } }

/-- The scanner takes changed thermal settings with one evaluation (R60, assumption log 26). -/
def State.thermalChange (s : State) : State :=
  if s.instThermalNow = s.thermalCfg then s else s.takeThermal.evalThermal

/-- What follows every change of the installation image at once: the qualify times (R2), a result without a
MEAS region (R56), the ring indexes under the changed map (R59, R137). -/
def State.takeMap (s old : State) : State := ((s.requalify.dropHeld).measChange old).ringChange old

/-- The blocks take the installation fields in the order of R162, up to the event unit. -/
def State.takeInstallation (s old : State) : State :=
  let s1 := s.requalify
  let s2 := s1.rebuild true
  let s3 := s2.capChange
  let s4 := (s3.thermalChange.dropHeld).measChange old
  s4.ringChange old

/-- The installation image replaced; a part made unconfigured by it loses its own work (R157). -/
def State.setInst (s : State) (image : Mem) : State :=
  let s1 := { s with path := { s.path with inst := some image } }
  if s.configured && s1.unconfigured then s1.clearOwnWork else s1

/-! ## Ring indexes read from memory (R59, R137) -/

/-- A byte pair of the installation image. -/
def State.instNum16 (s : State) (o : Nat) : Nat :=
  match s.path.inst with
  | some m => num16 m.num o
  | none => 0

/-- W and R formed at the end of a load with a ring (R137, steps 1 to 4). -/
def State.formRing (s : State) : State :=
  let w0 := s.instNum16 4
  let r0 := s.instNum16 6
  let w := if s.ringM ≤ w0 then 0 else w0
  let s1 := { s with ev := { s.ev with w := w } }
  let r := if s.ringM ≤ w0 then 0 else s1.clampIndex r0
  let s2 := { s1 with ev := { s1.ev with r := r, idxFormed := true } }
  let s3 := if w = w0 ∧ r = r0 then s2 else s2.markInst
  { s3 with ev := { s3.ev with
    newest := if 0 < s3.unread then some ((w + s3.ringM - 1) % s3.ringM) else none } }

/-- A read-index write held through LOADING is applied (R136, R137 step 5). -/
def State.applyHeld (s : State) : State :=
  match s.ev.heldRd with
  | some v => State.applyIndex { s with ev := { s.ev with heldRd := none } } v
  | none => s

/-- Every event entry is discarded at the end of a load without a ring; R138 applies to each (R130). -/
def State.discardKept (s : State) : State :=
  let lost := (s.path.ownq.any fun x => match x.item with
    | .event e => e.kind.attention
    | .meas _ => false) || s.ev.staging.any fun e => e.kind.attention
  let s1 := s.discardEvents
  { s1 with ev := { s1.ev with unkept := s1.ev.unkept || lost } }

/-- The event unit takes the ring indexes (R137). -/
def State.formEvents (s : State) : State :=
  (if 0 < s.ringN then s.formRing else s.discardKept).applyHeld

/-- The scanner takes the measurement write index (R59); one put to 0 sets no mark (assumption log 42). -/
def State.formMeas (s : State) : State :=
  let v := s.instNum16 8
  if 0 < s.measN then
    { s with scan := { s.scan with measIdx := if s.measN ≤ v then 0 else v, measFormed := true } }
  else s

/-! ## The active bank (R153, R154) -/

/-- The bank the installation image names; bank A while the image is unknown or the part unconfigured. -/
def State.namedBank (s : State) : Bank :=
  match s.path.inst with
  | some m => if instValid m.num then instActive m.num else .a
  | none => .a

/-- Until a load has taken it, the active bank follows the installation image (R154). -/
def State.followActive (s : State) : State :=
  if s.store.activeFormed then s else { s with store := { s.store with active := s.namedBank } }

/-- The active bank byte names a bank. -/
def State.activeByteOk (s : State) : Bool :=
  match s.path.inst with
  | some m => decide (m.num 3 ≤ 1)
  | none => true

/-- Step 1 of R153. -/
def State.formActive (s : State) : State :=
  let s1 := { s with store := { s.store with active := s.namedBank, activeFormed := true } }
  if s.activeByteOk then s1 else s1.markInst

/-! ## The end of the load (R153) -/

/-- The load follows a reset. -/
def LoadCause.isReset : LoadCause → Bool
  | .powerOn => true
  | .warm => true
  | .configured => false
  | .remapped => false

/-- Steps 1 and 2 of R153; not taken after a change of a plan region (R157). -/
def State.formFields (s : State) (cause : LoadCause) : State :=
  if cause = .remapped then s else (s.formActive.formMeas).formEvents

/-- PART_START, raised after a reset alone (R153, R157). -/
def State.raiseStart (s : State) (cause : LoadCause) : State :=
  match cause with
  | .powerOn => s.raise .partStart noSubject 0 0
  | .warm => s.raise .partStart noSubject 1 0
  | .configured => s
  | .remapped => s

/-- BANK_REFUSED for the built-in plan, or BANK_SWITCH where a reload leaves it (R145, R153, assumption
log 38). -/
def State.raiseDecided (s : State) (old : PlanUse) : State :=
  if s.store.plan = .builtIn then s.raiseBuiltIn
  else if old = .builtIn then s.raise .bankSwitch s.store.active.code 2 3
  else s

/-- Step 3 of R153: both banks validated, the plan in use decided. -/
def State.decideLoaded (s : State) : State :=
  let s1 := (s.validateBank .a).validateBank .b
  s1.usePlan (if (s1.bank s1.store.active).validity = .valid then s1.activePlan else .builtIn)

/-- The scanner at the end of a load: the thermal settings with their evaluation, after a reset with the
start-up sweep (R57, R60, assumption log 39). -/
def State.startScan (s : State) (cause : LoadCause) : State :=
  if cause.isReset then s.beginStartUp.takeThermal.evalThermal else s.thermalChange

/-- The round timer starts at READY in OUTAGE or RESERVE with the latch clear (R89). -/
def State.readyTimer (s : State) (cause : LoadCause) : State :=
  if cause.isReset && s.phase.phase.active then s.entryTimer else s

/-- Step 6 of R153: a target held over from the load is taken as written now. -/
def State.takeTarget (s : State) : State :=
  match s.store.target with
  | some bank => s.takeSwitch bank
  | none => s

/-- A round that runs through a load without a reset goes on with the requests the load has left at the gate
(R42); its open slots stand under a lower feed limit (R96; assumption log 56). -/
def State.roundAfter (s : State) (cause : LoadCause) : State := if cause.isReset then s else s.runRound

/-- The last read of a load has completed (R153; order, assumption log 39). It goes by the images, without the bytes
that a STUCK transaction still open has placed in a part already read (assumption log 65). -/
def State.finishLoad (s : State) (cause : LoadCause) : State :=
  let old := s.store.plan
  let s1 := (s.formFields cause).decideLoaded
  let s2 := { s1 with store := { s1.store with ready := true, load := none } }
  let s3 := (s2.rebuild (!cause.isReset)).takeCap
  let s4 := ((s3.raiseStart cause).raiseDecided old).reAlert
  let s5 := (s4.carry old).startScan cause
  (((s5.takeTarget).readyTimer cause).requalify).roundAfter cause

/-! ## Reads of the load (R152) -/

/-- The banks present on the map, in the order of the load. -/
def State.presentBanks (s : State) : List Bank := [Bank.a, Bank.b].filter fun which => (s.bankRegion which).isSome

/-- The parts still to be read replaced; a load with none left ends. -/
def State.setTodo (s : State) (l : Load) (todo : List LoadPart) : State :=
  match todo with
  | [] => s.finishLoad l.cause
  | _ => { s with store := { s.store with load := some { l with todo := todo, off := 0 } } }

/-- The installation block has been read whole into `image`: the region map and what follows it change at
once (R156), segments, population, Cap and thermal settings at the end of the load (R21, R22, R60, R74). -/
def State.instRead (s : State) (l : Load) (image : Mem) : State :=
  let s0 := { s with path := { s.path with instBuf := [] } }
  let s1 := if s0.path.inst = some image then s0
    else
      let s2 := s0.setInst image
      if s0.store.ready then s2.takeMap s0 else s2.followActive.requalify
  s1.setTodo l (s1.presentBanks.map .bank)

/-- Bytes of an own read in a load's part. -/
def Load.count (l : Load) : Nat :=
  match l.todo with
  | .bank _ :: _ => min 64 (992 - l.off)
  | _ => 64

/-- A plan-load read from `addr` has completed: its bytes enter the part being read (R152, R165). -/
def State.takeLoadRead (s : State) (addr : Nat) : State :=
  match s.store.load with
  | none => s
  | some l =>
    let bytes := s.mem.readBytes addr l.count
    let next := { s with store := { s.store with load := some { l with off := l.off + l.count } } }
    match l.todo with
    | [] => s
    | .inst :: _ =>
      let buf := s.path.instBuf.writeBytes l.off bytes
      if l.off + l.count < 128 then { next with path := { next.path with instBuf := buf } }
      else s.instRead l buf
    | .bank which :: rest =>
      let info := { s.bank which with image := (s.bank which).image.writeBytes l.off bytes }
      if l.off + l.count < 992 then next.setBank which info
      else (s.setBank which info).setTodo l rest

/-- The place of the read that is due in a load. -/
def State.loadAddr (s : State) (l : Load) : Nat :=
  match l.todo with
  | .bank which :: _ => ((s.bankRegion which).map (·.lo)).getD 0 + l.off
  | _ => l.off

/-! ## A changed map during a load, and loads started by a snooped write (R152, R157) -/

/-- The place of a bank: base and size of its region; a bank whose region has another size alone counts as moved
(R152; assumption log 60). -/
def State.bankPlace (s : State) (which : Bank) : Option (Nat × Nat) :=
  (s.bankRegion which).map fun r => (r.lo, r.size)

/-- The base, size or kind of a plan region has changed. -/
def State.plansMoved (s old : State) : Bool :=
  s.region .planA != old.region .planA || s.region .planB != old.region .planB

/-- A plan-load read under way or owed is of no use any more. -/
def State.dropLoadRead (s : State) : State :=
  { s with path := { s.path with
      own := Own.voided (· = .load) s.path.own
      preempted := keptOwed (· = .load) s.path.preempted } }

/-- A part of the running load is kept in the list of parts to read: its bank is still there. -/
def State.stillThere (s : State) : LoadPart → Bool
  | .inst => true
  | .bank which => (s.bankPlace which).isSome

/-- Banks already read, or absent before, that the new map places elsewhere or gives another size (assumption log
60). -/
def State.moved (s old : State) (todo : List LoadPart) : List LoadPart :=
  ([Bank.a, Bank.b].filter fun which => !todo.contains (.bank which) && (s.bankPlace which).isSome
    && s.bankPlace which != old.bankPlace which).map .bank

/-- The part being read stands at a new place or has a new size; its read starts again (assumption log 60). -/
def State.headMoved (s old : State) : List LoadPart → Bool
  | .bank which :: _ => s.bankPlace which != old.bankPlace which
  | _ => false

/-- A load of LOADING under a changed installation image (R152). -/
def State.replanLoad (s old : State) : State :=
  match s.store.load with
  | none => s
  | some l =>
    if l.todo.contains .inst then s
    else
      let todo := l.todo.filter s.stillThere ++ s.moved old l.todo
      if s.plansMoved old = false then s
      else if s.headMoved old l.todo || todo.isEmpty then s.dropLoadRead.setTodo l todo
      else { s with store := { s.store with load := some { l with todo := todo } } }

/-- A plan load started with no reset (R157). -/
def State.startReload (s : State) (cause : LoadCause) : State :=
  let s1 := s.dropLoadRead
  { s1 with
    store := { s1.store with load := some { cause := cause, todo := [.inst], off := 0 } }
    path := { s1.path with instBuf := [] } }

/-- The cause of a reload: a load that has still to take the active bank keeps doing so. -/
def State.reloadCause (s : State) : LoadCause :=
  match s.store.load with
  | some l => if l.cause = .configured then .configured else .remapped
  | none => .remapped

/-- Both banks revalidated (R144). -/
def State.revalidateBoth (s : State) : State := (s.revalidate .a false).revalidate .b false

/-- A load that meets an unconfigured part goes on with the installation block, if it is still at that, and
ends without the banks otherwise (R152, R153, R157). -/
def State.loadUnconfigured (s : State) (l : Load) : State :=
  if l.todo.contains .inst then s else s.dropLoadRead.setTodo l []

/-- Step 6 of R162: the plan store runs the load again or revalidates both banks (R157; the active bank of a
part made unconfigured, assumption log 23). -/
def State.storeTakesMap (s old : State) : State :=
  if s.configured && !old.configured then s.startReload .configured
  else if !s.configured then
    match s.store.load with
    | some l => s.loadUnconfigured l
    | none => s.revalidateBoth
  else if s.plansMoved old then s.startReload s.reloadCause
  else if s.store.load.isSome then s
  else s.revalidateBoth

/-! ## Snooping (R162) -/

/-- An address lies in the region of the bank that is active now. -/
def State.inActive (s : State) (a : Nat) : Bool :=
  (s.bankRegion s.store.active).any fun r => decide (r.lo ≤ a) && decide (a < r.hi)

/-- The bytes a transaction hands on at its end: those it placed; once the phase is not MAINS, without the ones
that were open only in MAINS and without those of the bank now active, which a switch has already taken into its
image (R150, R151, R162; assumption log 54). -/
def State.handedOn (s : State) (x : Txn) : List Placed :=
  x.placed.filter fun y => s.phase.phase = .mains || !y.locked && !s.inActive y.addr

/-- Placed bytes of the installation block copied into an image of it. -/
def instTake : Mem → List Placed → Mem
  | image, [] => image
  | image, x :: rest => instTake (if x.addr < 128 then image.write x.addr x.byte else image) rest

/-- The first part of a snoop: the installation block (R162). While LOADING the map and the qualify times change at
once; segments, population, Cap, thermal settings, ring indexes and event entries are left to the end of the load
(assumption log 61). Part-owned bytes that a STUCK transaction placed enter the image also where an own write has
changed them since (assumption log 66). -/
def State.snoopInst (s : State) (bytes : List Placed) : State :=
  match s.path.inst with
  | none => s
  | some image =>
    let s0 := if s.store.load.isSome then
        { s with path := { s.path with instBuf := instTake s.path.instBuf bytes } }
      else s
    let image' := instTake image bytes
    if image' = image then s0
    else
      let s1 := s0.setInst image'
      if s0.store.ready then (s1.takeInstallation s0).storeTakesMap s0
      else (s1.followActive.requalify).replanLoad s0

/-- Bytes of a bank's region handed to the plan store (R151). They edit the plan in use where one of them is a byte
of the bank (R140; assumption log 44), be it an unused one (assumption log 67). -/
def State.snoopBank (s : State) (which : Bank) (bytes : List Placed) : State :=
  match s.bankRegion which with
  | none => s
  | some r =>
    let inRegion := bytes.filter fun y => decide (r.lo ≤ y.addr) && decide (y.addr < r.hi)
    if inRegion.isEmpty then s
    else
      let info := s.bank which
      let s1 := s.setBank which { info with image := imageTake info.image r.lo inRegion }
      if s.store.ready && s.store.load.isNone then
        s1.revalidate which (inRegion.any fun y => decide (y.addr < r.lo + 992))
      else s1

/-- The bytes of an ended write handed on: the installation block first, then bank A, then bank B
(R151, R162). What is handed on goes by the phase at the rise, also where the installation part ends MAINS
(assumption log 63). -/
def State.snoop (s : State) (x : Txn) : State :=
  let bytes := s.handedOn x
  ((s.snoopInst bytes).snoopBank .a bytes).snoopBank .b bytes

end Sys2Proof.Machine
end

