-- ==== Sys2Proof/Machine/Path.lean ====
section
/-! DEFINITION. The path unit: the byte images it writes, the classes of written bytes, bursts of the
supervisor, the edges of SL_CS#, a stuck select, and own accesses (R155 to R168; 10_memory_images.md). -/

namespace Sys2Proof.Machine

/-! ## Byte images -/

/-- Code of a terminal status. -/
def statusCode : TermStatus → Nat
  | .absent => 0
  | .sleep => 1
  | .run => 2
  | .low => 3

/-- The three code bytes of a last-test summary and the two of its value; with no summary the value reads 0
(assumption log 68). -/
def summaryBytes : Option TestSummary → List Byte
  | none => [0#8, 0#8, 0#8] ++ leBytes 2 0
  | some x => [byteOf x.kind.code, byteOf x.result.code, byteOf x.result.abortCode] ++ leBytes 2 x.value

/-- Port `p`'s image as it stands (10_memory_images.md). -/
def State.portImage (s : State) (p : Fin 48) : List Byte :=
  let x := s.port p
  let flags := (if s.queued p then 1 else 0) + (if s.stale (portChannel p) then 2 else 0)
  [byteOf x.action.code, byteOf (statusCode x.status), byteOf flags, byteOf x.trips]
  ++ leBytes 4 x.deficit ++ leBytes 4 (if x.action = .off then 0 else (s.policy p).cap)
  ++ leBytes 2 x.u ++ leBytes 2 (s.current p) ++ [byteOf x.attempts] ++ summaryBytes x.lastTest
  ++ leBytes 4 x.feedSecs ++ leBytes 2 x.key ++ List.replicate 4 0#8

/-- A measurement record's bytes. -/
def Meas.bytes (m : Meas) : List Byte :=
  [byteOf m.channel.val, 0#8] ++ leBytes 2 (pattern16 m.value) ++ leBytes 4 m.time

/-- An event record's bytes. -/
def Event.bytes (e : Event) : List Byte :=
  [byteOf e.kind.code, byteOf e.phase.code] ++ leBytes 4 e.time ++ [byteOf e.subject, byteOf e.cause]
  ++ leBytes 4 (pattern32 e.value) ++ leBytes 2 e.tag ++ leBytes 2 e.count

/-- A byte of the installation image; 0 while it is unknown. -/
def State.imageByte (s : State) (o : Nat) : Byte :=
  match s.path.inst with
  | some m => m.read o
  | none => 0#8

/-- The part's own value of a part-owned byte; the image's while no load has formed it (R160). -/
def State.ownedByte (s : State) (o : Nat) : Byte :=
  match o with
  | 3 => if s.store.activeFormed then byteOf s.store.active.code else s.imageByte o
  | 4 => if s.ev.idxFormed then byteOf s.ev.w else s.imageByte o
  | 5 => if s.ev.idxFormed then byteOf (s.ev.w / 256) else s.imageByte o
  | 6 => if s.ev.idxFormed then byteOf s.ev.r else s.imageByte o
  | 7 => if s.ev.idxFormed then byteOf (s.ev.r / 256) else s.imageByte o
  | 8 => if s.scan.measFormed then byteOf s.scan.measIdx else s.imageByte o
  | 9 => if s.scan.measFormed then byteOf (s.scan.measIdx / 256) else s.imageByte o
  | _ => s.imageByte o

/-- The seven part-owned bytes, at offsets 3 to 9, as the installation mark's own write carries them too (R165;
one no load has formed, assumption log 58). -/
def State.ownedBytes (s : State) : List Byte := (List.range 7).map fun i => s.ownedByte (3 + i)

/-! ## Classes of written bytes (R158) -/

/-- The class of a data byte of an array write. -/
inductive WriteClass where
  | live
  | forwarded
  | refusing (cause : WriteCause)
  deriving DecidableEq, Repr

/-- Code of a refusal cause. -/
def WriteCause.code : WriteCause → Nat
  | .mapUnknown => 1
  | .phase => 2
  | .locked => 3
  | .activeBank => 4
  | .owned => 5
  | .afterWindow => 6

/-- The address lies in the live window. -/
def inLive (a : Nat) : Bool := decide (128 ≤ a) && decide (a < 256)

/-- The class of a byte of the installation block. -/
def State.classifyInst (s : State) : WriteClass :=
  if !s.mapKnown then .refusing .mapUnknown
  else if s.unconfigured then .forwarded
  else if s.phase.phase ≠ .mains then .refusing .phase
  else if s.path.mapLock then .refusing .locked
  else .forwarded

/-- The class of a byte above 0000FFh. -/
def State.classifyHigh (s : State) (a : Nat) : WriteClass :=
  if !s.mapKnown then .refusing .mapUnknown
  else match s.kindAt a with
    | .plain => .forwarded
    | .portImage => .refusing .owned
    | .meas => .refusing .owned
    | .events => .refusing .owned
    | k =>
      if k = s.store.active.regionKind ∧ s.phase.phase ≠ .mains then .refusing .activeBank
      else .forwarded

/-- The class of the byte at an address, at the moment the address is reached. -/
def State.classify (s : State) (a : Nat) : WriteClass :=
  if inLive a then .live else if a < 128 then s.classifyInst else s.classifyHigh a

/-- Subject code of a refusal: region, installation block, unmapped (R159, 10_memory_images.md); the installation
block has its own also while the map is unknown (assumption log 59). -/
def State.refusalSubject (s : State) (a : Nat) : Nat :=
  if a < 128 then 8 else (s.regionIdx a).getD 9

/-! ## Bursts -/

/-- The bytes placed may not be handed on once the phase has left MAINS (R162). -/
def State.placedLocked (s : State) (a : Nat) : Bool :=
  s.configured && decide (s.phase.phase = .mains)
    && (decide (a < 128) || decide (s.kindAt a = s.store.active.regionKind))

/-- The byte passed on to the memory: the part's own for a part-owned byte (R160). -/
def State.passedOn (s : State) (a : Nat) (v : Byte) : Byte :=
  if 3 ≤ a ∧ a ≤ 9 then s.ownedByte a else v

/-- A byte forwarded to the plan memory (R155, R158, R160). -/
def State.forwardByte (s : State) (a : Nat) (v : Byte) : State :=
  let x : Placed := { addr := a, byte := s.passedOn a v, locked := s.placedLocked a }
  let s1 := { s with mem := s.mem.write a x.byte, path := { s.path with link := .forwarding } }
  s1.modTxn fun t => { t with mlLow := true, placed := t.placed ++ [x] }

/-- The refusal that the class of a byte gives now, with its subject (R158). -/
def State.classRefusal (s : State) (a : Nat) : Option (Nat × WriteCause) :=
  match s.classify a with
  | .refusing cause => some (s.refusalSubject a, cause)
  | .forwarded => none
  | .live => none

/-- Why a byte outside the live window is not forwarded: as decided with the complete address (R155), after the
window, or by its class now; with the subject (R158, R159). -/
def State.refusalAt (s : State) (t : Txn) (a : Nat) : Option (Nat × WriteCause) :=
  match t.decided with
  | some d => some d
  | none =>
    if t.live then some (s.refusalSubject a, .afterWindow) else s.classRefusal a

/-- Forwarding stops at a refused byte: the one WRITE_REFUSED of the transaction (R159). -/
def State.refuseByte (s : State) (a : Nat) (d : Nat × WriteCause) : State :=
  (s.modTxn fun t => { t with mlLow := false, refused := some a }).raise .writeRefused d.1 a d.2.code

/-- A live byte of a write: absorbed, and delivered unless a refusing byte came before it (R159,
R161). -/
def State.writeLive (s : State) (a : Nat) (v : Byte) (refused : Bool) : State :=
  let s1 := (s.modTxn fun t => { t with mlLow := false }).touch
  if refused then s1 else s1.deliver (a - 128) v

/-- One data byte of an array write at the address reached. -/
def State.writeOne (s : State) (a : Nat) (v : Byte) : State :=
  match s.path.txn with
  | none => s
  | some t =>
    if inLive a then s.writeLive a v t.refused.isSome
    else if t.refused.isSome then s
    else match s.refusalAt t a with
      | some d => s.refuseByte a d
      | none => s.forwardByte a v

/-- The address after `a`: a burst returns from 03FFFFh to 000000h (R155). -/
def nextAddr (a : Nat) : Nat := (a + 1) % Config.memSize

/-- The data bytes of a write in burst order. -/
def State.writeBurst : List Byte → Nat → State → State
  | [], a, s => s.modTxn fun t => { t with addr := a }
  | v :: rest, a, s => State.writeBurst rest (nextAddr a) (s.writeOne a v)

/-- A byte goes out toward the supervisor. -/
def State.sendByte (s : State) (v : Byte) : State :=
  { s with path := { s.path with slOut := s.path.slOut ++ [v] } }

/-- The snapshot of a transaction, taken at its first live byte (R161). -/
def State.takeSnapshot (s : State) : State :=
  s.modTxn fun t => if t.snap.isSome then t else { t with snap := some s.liveWindow }

/-- The snapshot's byte of a live offset. -/
def State.snapByte (s : State) (o : Nat) : Byte :=
  match s.path.txn with
  | some t => match t.snap with
    | some l => l.getD o 0#8
    | none => 0#8
  | none => 0#8

/-- One byte of an array read at the address reached (R161); the snapshot comes before a claim attempt
(assumption log 50). -/
def State.readOne (s : State) (a : Nat) : State :=
  if inLive a then
    let s1 := s.takeSnapshot.touch
    if a = 147 then s1.readClaim else s1.sendByte (s1.snapByte (a - 128))
  else s.sendByte (s.mem.read a)

/-- The bytes of a read in burst order. -/
def State.readBurst : Nat → Nat → State → State
  | 0, a, s => s.modTxn fun t => { t with addr := a }
  | n + 1, a, s => State.readBurst n (nextAddr a) (s.readOne a)

/-- A transaction of which the path unit still takes bytes (R167). -/
def State.openTxn (s : State) : Option Txn := s.path.txn.filter fun t => !t.stuck

/-- An array read, or the next piece of one already begun (R155; assumption log 8). -/
def State.takeRead (s : State) (addr count : Nat) : State :=
  match s.openTxn with
  | none => s
  | some t =>
    match t.cmd with
    | none =>
      State.readBurst count (addr % Config.memSize)
        (State.modTxn { s with path := { s.path with link := .forwarding } }
          fun x => { x with cmd := some .read, mlLow := true })
    | some .read => State.readBurst count t.addr s
    | some .write => s
    | some .other => s

/-- The address of an array write is complete: ML_CS# is driven if its first byte would be forwarded; a refusing
byte is then refused as it was found, since ML_CS# is not driven for the transaction (R155; assumption log 53). -/
def State.openWrite (s : State) (a : Nat) : State :=
  let drive := decide (s.classify a = .forwarded)
  State.modTxn { s with path := { s.path with link := if drive then .forwarding else s.path.link } }
    fun x => { x with cmd := some .write, mlLow := drive, decided := s.classRefusal a }

/-- An array write, or the next piece of one already begun (R155; assumption log 8). -/
def State.takeWrite (s : State) (addr : Nat) (bytes : List Byte) : State :=
  match s.openTxn with
  | none => s
  | some t =>
    match t.cmd with
    | none => State.writeBurst bytes (addr % Config.memSize) (s.openWrite (addr % Config.memSize))
    | some .write => State.writeBurst bytes t.addr s
    | some .read => s
    | some .other => s

/-- Any other command (R155). -/
def State.takeOther (s : State) : State :=
  match s.openTxn with
  | none => s
  | some t => if t.cmd.isNone then s.modTxn fun x => { x with cmd := some .other } else s

/-! ## Own accesses (R164 to R166) -/

/-- What an own write under way has placed in memory when it is cut: a free number of its bytes
(assumption log 9). -/
def State.cutOwn (s : State) : State :=
  match s.path.own with
  | none => s
  | some o =>
    let path := { s.path with own := none, link := .idle }
    if o.data = [] then { s with path := path }
    else
      { s with
        mem := s.mem.writeBytes o.addr (o.data.take (Config.cutBytes s.fresh % (o.data.length + 1)))
        fresh := s.fresh + 1
        path := path }

/-- The access under way is cut off and owed a restart, unless its entry is gone (R166). -/
def State.preempt (s : State) : State :=
  match s.path.own with
  | none => s
  | some o =>
    let s1 := s.cutOwn
    { s1 with path := { s1.path with preempted := if o.void then none else some o.kind } }

/-- The region an entry is written to is there. -/
def State.entryPlaced (s : State) (x : OwnEntry) : Bool :=
  match x.item with
  | .meas _ => decide (0 < s.measN)
  | .event _ => decide (0 < s.ringN)

/-- The head of the own-access queue leaves it, and the freed place is passed on (R131, R55). -/
def State.leaveQueue (s : State) : State :=
  State.fillPlace { s with path := { s.path with ownq := s.path.ownq.drop 1 } }

/-- Entries at the head whose region has disappeared are discarded (R165). -/
def State.dropEntries : Nat → State → State
  | 0, s => s
  | n + 1, s =>
    match s.path.ownq with
    | [] => s
    | x :: _ => if s.entryPlaced x then s else State.dropEntries n s.leaveQueue

/-- The work an access of a kind would do is still there. -/
def State.stillOwed (s : State) : OwnKind → Bool
  | .load => s.store.load.isSome
  | .meas => decide (0 < s.measN)
  | .event => decide (0 < s.ringN)
  | .inst => s.configured
  | .image _ => s.imageRegion.isSome

/-- Work whose region has disappeared is dropped before the next access is chosen (R165; assumption
log 29). -/
def State.dropDead (s : State) : State :=
  if s.store.ready then
    let s1 := State.dropEntries 32 s
    { s1 with path := { s1.path with
      dirty := if s1.imageRegion.isSome then s1.path.dirty else Tab.fill 48 false
      preempted := s1.path.preempted.filter s1.stillOwed } }
  else s

/-- The mark of an identity is set. -/
def State.marked (s : State) : MarkId → Bool
  | .inst => s.path.dirtyInst
  | .port p => s.path.dirty.get p

/-- Place of a mark in the cyclic order. -/
def MarkId.place : MarkId → Nat
  | .inst => 0
  | .port p => p.val + 1

/-- The mark at a place of the cyclic order. -/
def markAt (n : Nat) : MarkId := if n % 49 = 0 then .inst else .port (Fin.ofNat 48 (n % 49 - 1))

/-- The next mark in the cyclic order after the last one served (R164). -/
def State.nextMark (s : State) : Option MarkId :=
  ((List.range 49).map fun i => markAt (s.path.lastMark.place + 1 + i)).find? s.marked

/-- The kind of access that serves a mark. -/
def MarkId.kind : MarkId → OwnKind
  | .inst => .inst
  | .port p => .image p

/-- The kind of access that writes an entry. -/
def OwnEntry.kind (x : OwnEntry) : OwnKind :=
  match x.item with
  | .meas _ => .meas
  | .event _ => .event

/-- The access to make next (R164). -/
def State.chooseOwn (s : State) : Option OwnKind :=
  match s.path.preempted with
  | some k => some k
  | none =>
    if s.store.load.isSome then some .load
    else if s.store.ready && s.configured then
      match s.path.ownq.head?, s.nextMark with
      | none, none => none
      | some x, none => some x.kind
      | none, some m => some m.kind
      | some x, some m => if s.path.turn = .queue then some x.kind else some m.kind
    else none

/-- Base of the region of a kind; 0 without one. -/
def State.base (s : State) (k : RegionKind) : Nat := ((s.region k).map (·.lo)).getD 0

/-- The bytes of the head entry of the queue. -/
def State.headBytes (s : State) : List Byte :=
  match s.path.ownq.head? with
  | some x => match x.item with
    | .meas m => m.bytes
    | .event e => e.bytes
  | none => []

/-- An access of a kind as its attempt starts: its place, and its content taken now (R165). -/
def State.ownFor (s : State) (k : OwnKind) : Own :=
  match k with
  | .load => { kind := .load, addr := (s.store.load.map s.loadAddr).getD 0, data := [] }
  | .meas => { kind := .meas, addr := s.base .meas + 8 * s.scan.measIdx, data := s.headBytes }
  | .event => { kind := .event, addr := s.base .events + 16 * (s.ev.w % s.ringN), data := s.headBytes }
  | .inst => { kind := .inst, addr := 3, data := s.ownedBytes }
  | .image p => { kind := .image p, addr := s.base .portImage + 32 * p.val, data := s.portImage p }

/-- The head entry's own write has begun (R132). -/
def beginHead : List OwnEntry → List OwnEntry
  | [] => []
  | x :: rest => { x with begun := true } :: rest

/-- An access of a kind starts. -/
def State.beginOwn (s : State) (k : OwnKind) : State :=
  { s with path := { s.path with
    own := some (s.ownFor k)
    preempted := none
    link := .own
    ownq := if k = .meas ∨ k = .event then beginHead s.path.ownq else s.path.ownq } }

/-- The next own access starts, where R164 allows one. -/
def State.startOwn (s : State) : State :=
  if s.linkFree && s.path.own.isNone then
    let s1 := s.dropDead
    match s1.chooseOwn with
    | some k => s1.beginOwn k
    | none => s1
  else s

/-- The own access under way, if it is of the kind that completes. -/
def State.ownDone (s : State) (isKind : OwnKind → Bool) : Option Own :=
  s.path.own.filter fun o => isKind o.kind && decide (s.path.link = .own)

/-- The access leaves the memory link, its bytes written; STUCK goes on until SL_CS# rises (R167). -/
def State.endOwn (s : State) (o : Own) : State :=
  { s with
    mem := s.mem.writeBytes o.addr o.data
    path := { s.path with
      own := none
      link := if s.path.txn.any (·.stuck) then .stuck else .idle } }

/-- A measurement record's write completes (R59, R165); without a MEAS region by then the entry leaves and no index
moves (assumption log 28). -/
def State.measWritten (s : State) (o : Own) : State :=
  let s1 := s.endOwn o
  if o.void then s1
  else
    let s2 := if 0 < s1.measN then
        State.markInst { s1 with scan := { s1.scan with measIdx := (s1.scan.measIdx + 1) % s1.measN } }
      else s1
    State.leaveQueue { s2 with path := { s2.path with turn := .marks } }

/-- The head entry's kind is an attention kind. -/
def State.headAttention (s : State) : Bool :=
  match s.path.ownq.head? with
  | some x => match x.item with
    | .event e => e.kind.attention
    | .meas _ => false
  | none => false

/-- The indexes after a record has been written (R135, steps 1 to 3). -/
def State.advanceRing (s : State) : State :=
  let full := decide (s.unread = s.ringN)
  { s with ev := { s.ev with
    w := (s.ev.w + 1) % s.ringM
    r := if full then (s.ev.r + 1) % s.ringM else s.ev.r
    newest := if s.headAttention then some s.ev.w else s.ev.newest } }

/-- An event record's write completes (R135, R165). -/
def State.eventWritten (s : State) (o : Own) : State :=
  let s1 := s.endOwn o
  if o.void then s1
  else
    let s2 := if 0 < s1.ringN then (s1.advanceRing).markInst.reAlert else s1
    State.leaveQueue { s2 with path := { s2.path with turn := .marks } }

/-- Port `p`'s image has been written (R165). -/
def State.imageWritten (s : State) (o : Own) (p : Fin 48) : State :=
  let s1 := s.endOwn o
  if o.void then s1
  else { s1 with path := { s1.path with
    dirty := s1.path.dirty.set p (s1.path.dirty.get p && o.redirty), turn := .queue
    lastMark := .port p } }

/-- The part-owned bytes have been written (R165). -/
def State.instWritten (s : State) (o : Own) : State :=
  let s1 := s.endOwn o
  let s2 := { s1 with path := { s1.path with inst := s1.path.inst.map fun m => m.writeBytes 3 o.data } }
  if o.void then s2
  else { s2 with path := { s2.path with
    dirtyInst := s2.path.dirtyInst && o.redirty, turn := .queue, lastMark := .inst } }

/-- A plan-load read completes (R152, R165). -/
def State.loadRead (s : State) (o : Own) : State :=
  let s1 := s.endOwn o
  if o.void then s1 else s1.takeLoadRead o.addr

/-! ## The edges of SL_CS# (R155, R162, R166 to R168) -/

/-- SL_CS# falls: a transaction begins and cuts an own access. -/
def State.fallCs (s : State) : State :=
  if s.path.csLow then s
  else
    let s1 := s.preempt
    { s1 with path := { s1.path with
      csLow := true, csSince := s1.clock, slOut := []
      txn := some { began := s1.clock } } }

/-- The acts of the end of a transaction: the fields first, then the bytes it placed (R161, R162;
assumption log 24). -/
def State.endActs (s : State) (t : Txn) : State :=
  let s1 := if t.reqWritten then s.takeRequest else s
  let s2 := s1.takeIndex t.rdLo t.rdHi
  let placed := (s2.path.txn.map (·.placed)).getD []
  let s3 := { s2 with path := { s2.path with txn := none } }
  if t.cmd = some .write then s3.snoop { t with placed := placed } else s3

/-- SL_CS# rises: the transaction ends. -/
def State.riseCs (s : State) : State :=
  if s.path.csLow then
    let s1 := { s with path := { s.path with csLow := false, csSince := s.clock } }
    match s1.path.txn with
    | none => s1
    | some t =>
      State.runRound (State.endActs { s1 with path := { s1.path with
        link := if s1.path.own.isSome then .own else .idle } } t)
  else s

/-- SL_CS# has been low for 50 ms in one transaction (R167; one ignored since a reset, assumption log 20; no
complete address, log 52; the address reached is that of the next byte, log 62). -/
def State.stickCs (s : State) : State :=
  match s.openTxn with
  | none => s
  | some t =>
    if s.path.csLow ∧ t.began + Config.stuckTime ≤ s.clock then
      let value : Int := match t.cmd with
        | some .read => t.addr
        | some .write => t.addr
        | some .other => -1
        | none => -1
      let s1 := s.modTxn fun x => { x with stuck := true, mlLow := false }
      State.raise { s1 with path := { s1.path with link := .stuck } } .linkStuck noSubject value 0
    else s

end Sys2Proof.Machine
end

