-- ==== Sys2Proof/Machine/PhaseCommands.lean ====
section
/-! DEFINITION. Commands of the resets and of the phase controller. -/

namespace Sys2Proof.Machine

/-! ## Resets -/

/-- POWER_ON_RESET: every block holds its power-on values (R19, R44, R65, R82, R106, R124, R139, R154,
R168); the plan memory, the input lines and the waiting commands stay. -/
def execPowerOnReset (s : State) : Host.Outcome State Fault Refusal :=
  let cut := s.cutOwn
  .next { State.reset with
    phase := { State.reset.phase with mainsOk := s.phase.mainsOk }
    path := { State.reset.path with csLow := s.path.csLow }
    mem := cut.mem
    fresh := cut.fresh
    pending := s.pending }

/-- The test summary that a warm reset leaves on a port (R124). -/
def State.resetSummary (s : State) (p : Fin 48) : Option TestSummary :=
  match s.test.run with
  | some run =>
    if run.port = p then
      some { kind := run.kind, result := .aborted .reset, value := run.elapsed s.clock }
    else (s.port p).lastTest
  | none => (s.port p).lastTest

/-- A port's record after a warm reset (R45, R83, R112). -/
def State.warmPort (s : State) (p : Fin 48) : Port :=
  let x := s.port p
  { x.clearTimers with
    action := if x.action = .barred ∨ x.action = .off then x.action else .idle
    status := .absent, cand := none, switch := false, fed := false, taper := 0
    lastTest := s.resetSummary p }

/-- Every block after the fall of NRESET (R20, R45, R65, R83, R106, R124, R139, R154, R168; a held read-index
write, assumption log 51; request bytes stored by a cut transaction, log 57; the thermal settings, log 27). -/
def State.warm (s : State) : State :=
  let cut := s.cutOwn
  { State.reset with
    line := .warm
    phase := { s.phase with qual := .stopped, uv := 0 }
    ports := Tab.ofFn s.warmPort
    segBounds := s.segBounds
    scan := { State.reset.scan with values := s.scan.values, ages := s.scan.ages }
    acct := { State.reset.acct with q := s.acct.q, cap := s.acct.cap, level := s.acct.level }
    test := { State.reset.test with
      counters := s.test.counters, minute := s.test.minute, rotaN := s.test.rotaN
      req := s.test.req, last := s.test.last }
    ev := { State.reset.ev with lastKind := s.ev.lastKind }
    path := { State.reset.path with csLow := s.path.csLow }
    mem := cut.mem
    fresh := cut.fresh
    pending := s.pending }

/-- WARM_RESET: NRESET falls; nothing while a reset is already asserted. -/
def execWarmReset (t : Nat) (s : State) : Host.Outcome State Fault Refusal :=
  timed t State.warm s

/-- The load of a reset begins, and with it every count from the release (R67, R152). -/
def State.releaseReset (s : State) (cause : LoadCause) : State :=
  { s with
    line := .released
    clock := 0
    store := { s.store with load := some { cause := cause, todo := [.inst], off := 0 } }
    path := { s.path with csSince := 0 } }

/-- The mains state and the qualification timer at the release of NRESET (R20). -/
def PhaseCtl.atRelease (x : PhaseCtl) : PhaseCtl :=
  if x.phase = .mains ∨ x.phase = .restore then
    if x.mainsOk then { x with mains := .present, qual := .stopped }
    else { x with mains := .losing, qual := .running 0 }
  else if x.mainsOk then { x with mains := .returning, qual := .running 0 }
  else { x with mains := .lost, qual := .stopped }

/-- NRESET_RELEASE: NRESET rises (R20, R152). -/
def execNresetRelease (s : State) : Host.Outcome State Fault Refusal :=
  .next (if s.line = .warm then
      State.releaseReset { s with phase := s.phase.atRelease } .warm
    else s)

/-- POWER_ON_RESET_RELEASE: the power-on reset is released (R152, R168). -/
def execPowerOnResetRelease (s : State) : Host.Outcome State Fault Refusal :=
  .next (if s.line = .powerOn then s.releaseReset .powerOn else s)

/-! ## Mains and phases -/

/-- MAINS_OK_CHANGE: a sample shows a level (R1); while a reset is asserted no sample is taken and only
the line itself moves (R20). -/
def execMainsOkChange (t : Nat) (high : Bool) (s : State) : Host.Outcome State Fault Refusal :=
  .next (if s.line = .released then (s.advance t).mainsSample high
    else { s with phase := { s.phase with mainsOk := high } })

/-- LOSS_QUALIFIED: the timer reaches the loss qualify time while LOSING (R1 to R3, R5, R13). -/
def execLossQualified (t : Nat) (s : State) : Host.Outcome State Fault Refusal :=
  timed t (fun s => if s.phase.mains = .losing then s.requalify else s) s

/-- RESTORE_QUALIFIED: the timer reaches the restore qualify time while RETURNING (R1 to R3, R11). -/
def execRestoreQualified (t : Nat) (s : State) : Host.Outcome State Fault Refusal :=
  timed t (fun s => if s.phase.mains = .returning then s.requalify else s) s

/-- Every port's charge figures 0, with marks where a deficit was not (R77). -/
def State.clearCharge (s : State) : State :=
  allPorts.foldl (fun x p => x.markPortIf ((s.port p).deficit != 0) p)
    { s with ports := s.ports.map Port.noCharge }

/-- The entry to MAINS (R12). -/
def State.settle (s : State) : State :=
  let s1 := (s.clearCharge).setPhase .mains
  State.raisePhase { s1 with phase := { s1.phase with outageTime := 0 } } .settled

/-- SETTLING_COMPLETE: the three conditions hold in RESTORE (R12). -/
def execSettlingComplete (t : Nat) (s : State) : Host.Outcome State Fault Refusal :=
  timed t (fun s => if s.settled then s.settle else s) s

/-- START_LEVEL_WRITE (R16). -/
def execStartLevelWrite (t : Nat) (v : Byte) (s : State) : Host.Outcome State Fault Refusal :=
  timed t (fun s => s.liveRow (State.writeStartLevel · v)) s

end Sys2Proof.Machine
end

