-- ==== Sys2Proof/Machine/PeriodCommands.lean ====
section
/-! DEFINITION. The accounting period end and what it hands on (R67; R6, R7, R14, R32, R58, R72, R119,
R125 to R127). -/

namespace Sys2Proof.Machine

/-! ## Tests of the phase controller -/

/-- The undervoltage test of a period end (R7). -/
def State.undervoltage (s : State) : State :=
  if s.phase.phase.active then
    let n := if s.value 48 < (s.busFloor : Int) then s.phase.uv + 1 else 0
    if 5 ≤ n then s.enterCutoff .undervoltage
    else { s with phase := { s.phase with uv := n } }
  else s

/-- The outage time advances outside MAINS (R14). -/
def State.outageTick (s : State) : State :=
  { s with phase := { s.phase with
      outageTime := if s.phase.phase = .mains then s.phase.outageTime else bump32 s.phase.outageTime } }

/-! ## The rota minute (R119) -/

/-- The rota minute count advances in OUTAGE and RESERVE; at 60 every counter above 0 falls by one. -/
def State.rotaTick (s : State) : State :=
  if s.phase.phase.active then
    if s.test.minute + 1 < 60 then { s with test := { s.test with minute := s.test.minute + 1 } }
    else { s with test := { s.test with minute := 0, counters := s.test.counters.map fun n => n - 1 } }
  else s

/-! ## Deferred retries (R32) -/

/-- A DEFERRED port requests its retry while the hold is off (R32, R17). -/
def State.placeDeferred (s : State) (p : Fin 48) : State :=
  if (s.port p).action = .waking ∧ (s.port p).step = some .deferred ∧ s.acct.hold = false then
    s.askRetry p
  else s

/-- Deferred retries of every port. -/
def State.placeAllDeferred (s : State) : State := allPorts.foldl State.placeDeferred s

/-! ## Alarm rules (R125 to R127) -/

/-- The value of a rule's quantity (R125). -/
def State.quantity (s : State) (r : AlarmRule) : Int :=
  match r.code with
  | 0 => s.level
  | 1 => min 65535 s.filter
  | 2 => s.highestTemp
  | 3 => s.value 48
  | 4 => s.value 49
  | 5 => s.sched.queue.length
  | 6 => s.barredCount
  | _ =>
    match portOf r.port with
    | some p => if (s.port p).action = .off then 0 else (s.port p).u
    | none => 0

/-- The quantity is a signed one (R125). -/
def AlarmRule.signed (r : AlarmRule) : Bool := r.code == 2 || r.code == 4

/-- A rule's relation on a value (R126). -/
def AlarmRule.holds (r : AlarmRule) (v : Int) : Bool :=
  let q := pattern16 v
  match r.relation with
  | 0 => decide (signed16 q < signed16 r.const)
  | 1 => decide (q < r.const)
  | 2 => decide (q ≠ r.const)
  | _ => if r.signed then decide (signed16 r.const ≤ signed16 q) else decide (r.const ≤ q)

/-- One rule evaluated against its edge state (R127). -/
def State.evalRule (s : State) (i : Fin 16) : State :=
  if i.val < s.header.alarmN then
    let r := s.store.plan.alarm i
    let v := s.quantity r
    let s1 := { s with ev := { s.ev with edges := s.ev.edges.set i (r.holds v) } }
    if r.holds v && !s.ev.edges.get i then s1.raiseTagged .alarm i.val v r.code r.tag else s1
  else s

/-- The rules evaluated in ascending order. -/
def State.evalAlarms (s : State) : State := (List.finRange 16).foldl State.evalRule s

/-! ## The period end -/

/-- The accounting unit's own steps 1 to 5, after the feed seconds of the period (R27, R67). -/
def State.accountPeriod (s : State) : State :=
  ((((s.feedSeconds).accountPorts).accountQ).accountLoad).reHold

/-- What is handed on at a period end in READY; the tick trigger comes after the phase entries, so under the plan
they leave (assumption log 32). -/
def State.handOn (s : State) : State :=
  let s1 := ((s.undervoltage).levelTest).outageTick
  let s2 := (s1.ageChannels).rotaTick
  let s3 := (s2.placeAllDeferred).notices
  ((s3.evalAlarms).trigger .tick).runRound

/-- A period end (R67); in LOADING only the outage time and the channel ages advance (R20, R65). -/
def State.periodEnd (s : State) : State :=
  let s1 := { s with acct := { s.acct with lastEnd := s.acct.lastEnd + Config.sec } }
  if s.store.ready then (s1.accountPeriod).handOn else (s1.outageTick).ageChannels

/-- ACCOUNTING_PERIOD_END: the accounting timer expires. -/
def execAccountingPeriodEnd (t : Nat) (s : State) : Host.Outcome State Fault Refusal :=
  timed t (fun s => if s.acct.lastEnd + Config.sec ≤ s.clock then s.periodEnd else s) s

end Sys2Proof.Machine
end

