-- ==== Sys2Proof/Machine/PortCommands.lean ====
section
/-! DEFINITION. Commands of the port controller: terminal status, trips, timers of a port, bar clears,
and the gate's grant (R23 to R36, R41). -/

namespace Sys2Proof.Machine

/-! ## Terminal status -/

/-- The candidate after a reading (R23). -/
def Port.candidate (x : Port) (reading : Option TermStatus) (now : Nat) : Option (TermStatus × Nat) :=
  match reading with
  | none => none
  | some l => if l = x.status then none
    else match x.cand with
      | some (c, since) => if c = l then some (c, since) else some (l, now)
      | none => some (l, now)

/-- TERMINAL_STATUS_READING (R23). -/
def execTerminalStatusReading (t : Nat) (p : Fin 48) (reading : Option TermStatus) (s : State) :
    Host.Outcome State Fault Refusal :=
  timed t (fun s => s.setPort p { s.port p with cand := (s.port p).candidate reading s.clock }) s

/-- The LOW resync and TERMINAL_LOW of a change to LOW in an outage phase (R24, R70). -/
def State.lowEffects (s : State) (p : Fin 48) (level : TermStatus) : State :=
  if level = .low ∧ s.phase.phase ≠ .mains then
    let s1 := s.lowResync p
    s1.raise .terminalLow p.val (s1.port p).u 0
  else s

/-- What a populated port's own state makes of the new status (R24, items 3 to 5). -/
def State.actionEffects (s : State) (p : Fin 48) (level : TermStatus) : State :=
  match (s.port p).action with
  | .waking => if level = .run then s.endWake p else s
  | .feeding =>
    s.setPort p { s.port p with absence := if level = .absent then some s.clock else none }
  | .testing => s.testStatus p level
  | .off => s
  | .idle => s
  | .tripped => s
  | .barred => s

/-- A port's terminal status changes (R24). -/
def State.statusChange (s : State) (p : Fin 48) (level : TermStatus) : State :=
  let s1 := s.setPort p { s.port p with status := level, cand := none }
  if (s.port p).action = .off then s1.markPort p
  else (((s1.lowEffects p level).actionEffects p level).markPort p).runRound

/-- STATUS_DEBOUNCE_EXPIRY: the candidate becomes the status (R23, R24). -/
def execStatusDebounceExpiry (t : Nat) (p : Fin 48) (s : State) : Host.Outcome State Fault Refusal :=
  timed t (fun s =>
    match (s.port p).cand with
    | some (level, since) =>
      if since + Config.debounceTime ≤ s.clock then s.statusChange p level else s
    | none => s) s

/-- ABSENCE_TIMER_EXPIRY (R25). -/
def execAbsenceTimerExpiry (t : Nat) (p : Fin 48) (s : State) : Host.Outcome State Fault Refusal :=
  timed t (fun s =>
    if (s.port p).action = .feeding ∧ hasRun (s.port p).absence Config.absenceTime s.clock then
      (s.endFeed p).raise .terminalLost p.val (s.current p) 0
    else s) s

/-! ## Trips -/

/-- The record of a port that has tripped (R33). -/
def Port.tripped (x : Port) (now : Nat) : Port :=
  { x.clearTimers with
    action := .tripped, switch := false, fed := false, trips := min 3 (x.trips + 1)
    coolOff := some now }

/-- A trip of a port whose switch is closed (R33). -/
def State.trip (s : State) (p : Fin 48) : State :=
  let x := s.port p
  let y := x.tripped s.clock
  let s1 := ((s.setPort p y).unrequest p).markPort p
  let s2 := s1.raise .portTrip p.val y.trips x.action.code
  let s3 := if y.trips < 3 then s2 else s2.bar p 2
  (if x.action = .testing then s3.abortTest .trip true else s3).runRound

/-- TRIP_REPORT: discarded unless the switch is held closed (R33, R34). -/
def execTripReport (t : Nat) (p : Fin 48) (s : State) : Host.Outcome State Fault Refusal :=
  timed t (fun s => if (s.port p).switch then s.trip p else s) s

/-- COOL_OFF_EXPIRY (R35). -/
def execCoolOffExpiry (t : Nat) (p : Fin 48) (s : State) : Host.Outcome State Fault Refusal :=
  timed t (fun s =>
    if (s.port p).action = .tripped ∧ hasRun (s.port p).coolOff Config.coolOffTime s.clock then
      (s.setPort p { s.port p with action := .idle, coolOff := none }).markPort p
    else s) s

/-! ## Wakes -/

/-- PULSE_TIMER_EXPIRY (R29). -/
def execPulseTimerExpiry (t : Nat) (p : Fin 48) (s : State) : Host.Outcome State Fault Refusal :=
  timed t (fun s =>
    if (s.port p).action = .waking ∧ hasRun (s.port p).pulse Config.pulseTime s.clock then
      s.setPort p { s.port p with switch := false, step := some .answer, pulse := none }
    else s) s

/-- A pulse has not been answered (R31). -/
def State.unanswered (s : State) (p : Fin 48) : State :=
  let x := s.port p
  if x.attempts < 1 + (s.policy p).retries then
    if s.permitted p then
      s.setPort p { x.clearTimers with switch := false, step := some .retryWait, retry := some s.clock }
    else s.endWake p
  else (s.raise .wakeFailed p.val x.attempts 0).bar p 1

/-- ANSWER_TIMER_EXPIRY (R31). -/
def execAnswerTimerExpiry (t : Nat) (p : Fin 48) (s : State) : Host.Outcome State Fault Refusal :=
  timed t (fun s =>
    if (s.port p).action = .waking ∧ hasRun (s.port p).answer Config.answerTime s.clock then
      s.unanswered p
    else s) s

/-- The retry becomes due: deferred under the hold, whatever the class, else requested (R32, R17; assumption log
48). -/
def State.retryDue (s : State) (p : Fin 48) : State :=
  if s.acct.hold then s.setPort p { s.port p with step := some .deferred, retry := none }
  else s.askRetry p

/-- RETRY_TIMER_EXPIRY (R32). -/
def execRetryTimerExpiry (t : Nat) (p : Fin 48) (s : State) : Host.Outcome State Fault Refusal :=
  timed t (fun s =>
    if (s.port p).action = .waking ∧ hasRun (s.port p).retry Config.retryTime s.clock then s.retryDue p
    else s) s

/-! ## Bar clear and grants -/

/-- BAR_CLEAR (R36). -/
def execBarClear (t : Nat) (v : Byte) (s : State) : Host.Outcome State Fault Refusal :=
  timed t (fun s => s.liveRow (State.clearBar · v)) s

/-- GATE_GRANT: the oldest request that meets the limits (R39 to R41). -/
def execGateGrant (t : Nat) (s : State) : Host.Outcome State Fault Refusal :=
  timed t (fun s =>
    match s.nextGrant with
    | some r => s.grant r
    | none => s) s

end Sys2Proof.Machine
end

