-- ==== Sys2Proof/Machine/ScanCommands.lean ====
section
/-! DEFINITION. Commands of the measurement scanner and of the feed scheduler (R46 to R57, R90). -/

namespace Sys2Proof.Machine

/-- A conversion completes with a reading: value and age, the result dealt with, and a temperature
evaluated (R46, R54, R57, R61). -/
def State.converted (s : State) (raw : Int) : State :=
  let v := corrected s.thermalCfg s.scan.pos raw
  let s1 := (s.takeReading v).dealResult v
  (if 50 ≤ s.scan.pos.val then s1.evalThermal else s1).runRound

/-- CONVERSION_COMPLETE: the conversion has run its 2 ms (R46, R47). -/
def execConversionComplete (t : Nat) (raw : Int) (s : State) : Host.Outcome State Fault Refusal :=
  timed t (fun s =>
    if hasRun s.scan.conv Config.conversionTime s.clock then s.converted raw else s) s

/-- CONVERSION_FAILED: the sweep goes on without a reading (R47). -/
def execConversionFailed (t : Nat) (s : State) : Host.Outcome State Fault Refusal :=
  timed t (fun s =>
    if hasRun s.scan.conv Config.conversionTime s.clock then
      { s with scan :=
          if s.scan.startUp then s.scan.afterStartUp s.header s.clock
          else s.scan.afterChannel s.header s.clock }
    else s) s

/-- SCAN_TRIGGER: a trigger of a source; the supervisor's is a live write (R49 to R52). -/
def execScanTrigger (t : Nat) (source : TrigSource) (s : State) : Host.Outcome State Fault Refusal :=
  timed t (fun s =>
    if source = .supervisor then s.liveRow (State.trigger · source) else s.trigger source) s

/-- SCAN_STOP (R53). -/
def execScanStop (t : Nat) (s : State) : Host.Outcome State Fault Refusal :=
  timed t (fun s => s.liveRow State.stopScan) s

/-- The round timer has expired (R90). -/
def State.roundTimerDone (s : State) : State :=
  let s1 := { s with sched := { s.sched with timer := none } }
  if s.sched.running then { s1 with sched := { s1.sched with startPending := true } }
  else s1.roundStart

/-- ROUND_TIMER_EXPIRY (R90, R91). -/
def execRoundTimerExpiry (t : Nat) (s : State) : Host.Outcome State Fault Refusal :=
  timed t (fun s => if hasRun s.sched.timer 0 s.clock then s.roundTimerDone else s) s

end Sys2Proof.Machine
end

