-- ==== Sys2Proof/Machine/TestCommands.lean ====
section
/-! DEFINITION. Commands of the test unit (R110 to R122). -/

namespace Sys2Proof.Machine

/-- CLAIM_ATTEMPT: a read reaches the claim byte (R110, R111); it takes no snapshot (assumption log 50). -/
def execClaimAttempt (t : Nat) (s : State) : Host.Outcome State Fault Refusal :=
  timed t (fun s => s.liveRow State.readClaimRow) s

/-- CLAIM_RELEASE: 1 is written to the claim byte (R111). -/
def execClaimRelease (t : Nat) (s : State) : Host.Outcome State Fault Refusal :=
  timed t (fun s => s.liveRow State.release) s

/-- CLAIM_LAPSE: the lapse timer reaches 120 s (R111). -/
def execClaimLapse (t : Nat) (s : State) : Host.Outcome State Fault Refusal :=
  timed t (fun s => if hasRun s.test.lapse Config.lapseTime s.clock then s.release else s) s

/-- TEST_REQUEST: a transaction that wrote these bytes of the field ends (R121, R122). -/
def execTestRequest (t : Nat) (port kind minutes : Option Byte) (s : State) :
    Host.Outcome State Fault Refusal :=
  timed t (fun s =>
    if port.isSome || kind.isSome || minutes.isSome then
      s.liveRow fun s => (s.storeRequest port kind minutes).takeRequest
    else s) s

/-- TEST_ABORT: the abort byte is written (R118). -/
def execTestAbort (t : Nat) (_v : Byte) (s : State) : Host.Outcome State Fault Refusal :=
  timed t (fun s => s.liveRow State.abortWrite) s

/-- The hold-up time of a HOLDUP test in µs (R114). -/
def TestRun.holdup (run : TestRun) : Nat := 60 * run.minutes * Config.sec

/-- HOLDUP_TIME_EXPIRY: a HOLDUP test passes (R114). -/
def execHoldupTimeExpiry (t : Nat) (s : State) : Host.Outcome State Fault Refusal :=
  timed t (fun s =>
    match s.test.run with
    | some run =>
      if run.kind = .holdup ∧ run.attached + run.holdup ≤ s.clock then
        (s.endTest run .pass (60 * run.minutes) none false).runRound
      else s
    | none => s) s

/-- TEST_PULSE_END: the switch opens, the answer window goes on (R115). -/
def execTestPulseEnd (t : Nat) (s : State) : Host.Outcome State Fault Refusal :=
  timed t (fun s =>
    match s.test.run with
    | some run =>
      if run.kind = .wake ∧ hasRun run.pulse Config.pulseTime s.clock then
        State.setPort { s with test := { s.test with run := some { run with pulse := none } } } run.port
          { s.port run.port with switch := false }
      else s
    | none => s) s

/-- TEST_ANSWER_TIMER_EXPIRY: a WAKE test fails with value 5000 (R115). -/
def execTestAnswerTimerExpiry (t : Nat) (s : State) : Host.Outcome State Fault Refusal :=
  timed t (fun s =>
    match s.test.run with
    | some run =>
      if run.kind = .wake ∧ hasRun run.granted Config.answerTime s.clock then
        (s.endTest run .fail 5000 none false).runRound
      else s
    | none => s) s

/-- The samples of a DRAW test as taken: saturated to 0 to 4095 (R116). -/
def drawTaken (samples : List Nat) : List Nat := samples.map (min 4095)

/-- The average of a DRAW test (R116). -/
def drawAverage (samples : List Nat) : Nat := (drawTaken samples).sum / Config.drawSamples

/-- Minimum and maximum of a DRAW test (R116). -/
def drawSpan (samples : List Nat) : Nat × Nat :=
  ((drawTaken samples).foldl min 4095, (drawTaken samples).foldl max 0)

/-- A DRAW test judged by the port's draw band in the plan in use (R113, R116). -/
def State.judgeDraw (s : State) (run : TestRun) (samples : List Nat) : State :=
  let avg := drawAverage samples
  let pol := s.policy run.port
  s.endTest run (if pol.drawLo ≤ avg ∧ avg ≤ pol.drawHi then .pass else .fail) avg
    (some (drawSpan samples)) false

/-- DRAW_SAMPLING_END (R116). -/
def execDrawSamplingEnd (t : Nat) (samples : List Nat) (s : State) : Host.Outcome State Fault Refusal :=
  timed t (fun s =>
    match s.test.run with
    | some run =>
      if run.kind = .draw ∧ run.attached + Config.drawTime ≤ s.clock then
        (s.judgeDraw run samples).runRound
      else s
    | none => s) s

end Sys2Proof.Machine
end

