-- ==== Sys2Proof/Machine/PathCommands.lean ====
section
/-! DEFINITION. Commands of the event unit's read index, of the plan store and of the path unit
(R136, R147, R155 to R167). -/

namespace Sys2Proof.Machine

/-! ## Live fields -/

/-- READ_INDEX_WRITE: a transaction that wrote these bytes of the field ends (R136). -/
def execReadIndexWrite (t : Nat) (lo hi : Option Byte) (s : State) : Host.Outcome State Fault Refusal :=
  timed t (fun s => if lo.isSome || hi.isSome then s.liveRow (State.takeIndex · lo hi) else s) s

/-- BANK_SWITCH_WRITE (R147). -/
def execBankSwitchWrite (t : Nat) (v : Byte) (s : State) : Host.Outcome State Fault Refusal :=
  timed t (fun s => s.liveRow (State.switchWrite · v)) s

/-- MAP_LOCK_WRITE (R163). -/
def execMapLockWrite (t : Nat) (v : Byte) (s : State) : Host.Outcome State Fault Refusal :=
  timed t (fun s => s.liveRow (State.lockWrite · v)) s

/-- LIVE_WRITE_ABSORBED: the byte has no behaviour; the window has been touched (R111, R161). -/
def execLiveWriteAbsorbed (t : Nat) (_off : Fin 128) (_v : Byte) (s : State) :
    Host.Outcome State Fault Refusal :=
  timed t (fun s => s.liveRow id) s

/-! ## Transactions -/

/-- TRANSACTION_START: SL_CS# falls; while a reset is asserted only the line moves (R155, R166, R168). -/
def execTransactionStart (t : Nat) (s : State) : Host.Outcome State Fault Refusal :=
  .next (if s.line = .released then (s.advance t).fallCs
    else { s with path := { s.path with csLow := true } })

/-- ARRAY_READ (R155, R161). -/
def execArrayRead (t : Nat) (addr count : Nat) (s : State) : Host.Outcome State Fault Refusal :=
  timed t (fun s => s.takeRead addr count) s

/-- ARRAY_WRITE (R155, R158 to R161). -/
def execArrayWrite (t : Nat) (addr : Nat) (bytes : List Byte) (s : State) :
    Host.Outcome State Fault Refusal :=
  timed t (fun s => s.takeWrite addr bytes) s

/-- OTHER_COMMAND (R155). -/
def execOtherCommand (t : Nat) (_command : Byte) (s : State) : Host.Outcome State Fault Refusal :=
  timed t (fun s => s.takeOther) s

/-- TRANSACTION_END: SL_CS# rises; while a reset is asserted only the line moves (R161, R162, R167,
R168). -/
def execTransactionEnd (t : Nat) (s : State) : Host.Outcome State Fault Refusal :=
  .next (if s.line = .released then (s.advance t).riseCs
    else { s with path := { s.path with csLow := false } })

/-- LINK_STUCK (R167). -/
def execLinkStuck (t : Nat) (s : State) : Host.Outcome State Fault Refusal :=
  timed t (fun s => s.stickCs) s

/-! ## Own accesses -/

/-- OWN_ACCESS_START (R164). -/
def execOwnAccessStart (t : Nat) (s : State) : Host.Outcome State Fault Refusal :=
  timed t (fun s => s.startOwn) s

/-- PLAN_LOAD_READ_COMPLETE (R152, R153, R165). -/
def execPlanLoadReadComplete (t : Nat) (s : State) : Host.Outcome State Fault Refusal :=
  timed t (fun s =>
    match s.ownDone (· = .load) with
    | some o => s.loadRead o
    | none => s) s

/-- MEAS_RECORD_WRITE_COMPLETE (R59, R165). -/
def execMeasRecordWriteComplete (t : Nat) (s : State) : Host.Outcome State Fault Refusal :=
  timed t (fun s =>
    match s.ownDone (· = .meas) with
    | some o => s.measWritten o
    | none => s) s

/-- EVENT_RECORD_WRITE_COMPLETE (R135, R165). -/
def execEventRecordWriteComplete (t : Nat) (s : State) : Host.Outcome State Fault Refusal :=
  timed t (fun s =>
    match s.ownDone (· = .event) with
    | some o => s.eventWritten o
    | none => s) s

/-- PORT_IMAGE_WRITE_COMPLETE (R165). -/
def execPortImageWriteComplete (t : Nat) (s : State) : Host.Outcome State Fault Refusal :=
  timed t (fun s =>
    match s.path.own with
    | some o => match o.kind with
      | .image p => if s.path.link = .own then s.imageWritten o p else s
      | .load => s
      | .meas => s
      | .event => s
      | .inst => s
    | none => s) s

/-- INSTALLATION_WRITE_COMPLETE (R165). -/
def execInstallationWriteComplete (t : Nat) (s : State) : Host.Outcome State Fault Refusal :=
  timed t (fun s =>
    match s.ownDone (· = .inst) with
    | some o => s.instWritten o
    | none => s) s

end Sys2Proof.Machine
end

