-- ==== Sys2Proof/Machine/Dispatch.lean ====
section
/-! DEFINITION. The dispatch of a command to its meaning. -/

namespace Sys2Proof.Machine

def exec (i : Instr) (s : State) : Host.Outcome State Fault Refusal :=
  match i with
  | .powerOnReset => Sys2Proof.Machine.execPowerOnReset s
  | .warmReset t => Sys2Proof.Machine.execWarmReset t s
  | .nresetRelease => Sys2Proof.Machine.execNresetRelease s
  | .mainsOkChange t high => Sys2Proof.Machine.execMainsOkChange t high s
  | .lossQualified t => Sys2Proof.Machine.execLossQualified t s
  | .restoreQualified t => Sys2Proof.Machine.execRestoreQualified t s
  | .settlingComplete t => Sys2Proof.Machine.execSettlingComplete t s
  | .accountingPeriodEnd t => Sys2Proof.Machine.execAccountingPeriodEnd t s
  | .startLevelWrite t v => Sys2Proof.Machine.execStartLevelWrite t v s
  | .terminalStatusReading t p reading => Sys2Proof.Machine.execTerminalStatusReading t p reading s
  | .statusDebounceExpiry t p => Sys2Proof.Machine.execStatusDebounceExpiry t p s
  | .absenceTimerExpiry t p => Sys2Proof.Machine.execAbsenceTimerExpiry t p s
  | .tripReport t p => Sys2Proof.Machine.execTripReport t p s
  | .coolOffExpiry t p => Sys2Proof.Machine.execCoolOffExpiry t p s
  | .pulseTimerExpiry t p => Sys2Proof.Machine.execPulseTimerExpiry t p s
  | .answerTimerExpiry t p => Sys2Proof.Machine.execAnswerTimerExpiry t p s
  | .retryTimerExpiry t p => Sys2Proof.Machine.execRetryTimerExpiry t p s
  | .barClear t v => Sys2Proof.Machine.execBarClear t v s
  | .gateGrant t => Sys2Proof.Machine.execGateGrant t s
  | .conversionComplete t raw => Sys2Proof.Machine.execConversionComplete t raw s
  | .conversionFailed t => Sys2Proof.Machine.execConversionFailed t s
  | .scanTrigger t source => Sys2Proof.Machine.execScanTrigger t source s
  | .scanStop t => Sys2Proof.Machine.execScanStop t s
  | .roundTimerExpiry t => Sys2Proof.Machine.execRoundTimerExpiry t s
  | .claimAttempt t => Sys2Proof.Machine.execClaimAttempt t s
  | .claimRelease t => Sys2Proof.Machine.execClaimRelease t s
  | .claimLapse t => Sys2Proof.Machine.execClaimLapse t s
  | .testRequest t port kind minutes => Sys2Proof.Machine.execTestRequest t port kind minutes s
  | .testAbort t v => Sys2Proof.Machine.execTestAbort t v s
  | .holdupTimeExpiry t => Sys2Proof.Machine.execHoldupTimeExpiry t s
  | .testPulseEnd t => Sys2Proof.Machine.execTestPulseEnd t s
  | .testAnswerTimerExpiry t => Sys2Proof.Machine.execTestAnswerTimerExpiry t s
  | .drawSamplingEnd t samples => Sys2Proof.Machine.execDrawSamplingEnd t samples s
  | .readIndexWrite t lo hi => Sys2Proof.Machine.execReadIndexWrite t lo hi s
  | .bankSwitchWrite t v => Sys2Proof.Machine.execBankSwitchWrite t v s
  | .transactionStart t => Sys2Proof.Machine.execTransactionStart t s
  | .arrayRead t addr count => Sys2Proof.Machine.execArrayRead t addr count s
  | .arrayWrite t addr bytes => Sys2Proof.Machine.execArrayWrite t addr bytes s
  | .otherCommand t command => Sys2Proof.Machine.execOtherCommand t command s
  | .mapLockWrite t v => Sys2Proof.Machine.execMapLockWrite t v s
  | .liveWriteAbsorbed t off v => Sys2Proof.Machine.execLiveWriteAbsorbed t off v s
  | .transactionEnd t => Sys2Proof.Machine.execTransactionEnd t s
  | .linkStuck t => Sys2Proof.Machine.execLinkStuck t s
  | .ownAccessStart t => Sys2Proof.Machine.execOwnAccessStart t s
  | .planLoadReadComplete t => Sys2Proof.Machine.execPlanLoadReadComplete t s
  | .measRecordWriteComplete t => Sys2Proof.Machine.execMeasRecordWriteComplete t s
  | .eventRecordWriteComplete t => Sys2Proof.Machine.execEventRecordWriteComplete t s
  | .portImageWriteComplete t => Sys2Proof.Machine.execPortImageWriteComplete t s
  | .installationWriteComplete t => Sys2Proof.Machine.execInstallationWriteComplete t s
  | .powerOnResetRelease => Sys2Proof.Machine.execPowerOnResetRelease s

end Sys2Proof.Machine
end

