-- ==== Sys2Proof/Safety.lean ====
section
/-! DEFINITION. What the claims say of a state and of a change of state: invariants, and which parts of
the state a command leaves alone. -/

namespace Sys2Proof.Machine

/-! ## Invariants -/

/-- The plan memory is in canonical form. -/
def State.MemOk (s : State) : Prop := s.mem.wf = true

/-- The own-access queue holds at most 16 entries and the staging list at most 8 (R130). -/
def State.SpoolOk (s : State) : Prop :=
  s.path.ownq.length ≤ Config.queuePlaces ∧ s.ev.staging.length ≤ Config.stagingPlaces

/-- A closed switch belongs to a port that is WAKING, FEEDING or TESTING (R26). -/
def Port.SwitchOk (x : Port) : Prop :=
  x.switch = true → x.action = .waking ∨ x.action = .feeding ∨ x.action = .testing

/-- No feed switch is closed on a port that is OFF, IDLE, TRIPPED or BARRED. -/
def State.SwitchesOk (s : State) : Prop := ∀ p, (s.port p).SwitchOk

/-- A port is TESTING exactly when the test channel is attached to it (R108). -/
def State.AttachOk (s : State) : Prop :=
  ∀ p, (s.port p).action = .testing ↔ s.test.run.map (·.port) = some p

/-- `x` stands before `y` in queue order: by descending key, of equal keys by ascending port (R84). -/
def QueueEntry.Precedes (x y : QueueEntry) : Prop :=
  y.key < x.key ∨ y.key = x.key ∧ x.port.val < y.port.val

/-- What R84 and R85 say of the feed queue: it is in queue order and holds each port once, and only IDLE ports
at their join level, of a class the phase permits, that no unresolved slot of the running round names. -/
structure State.QueueOk (s : State) : Prop where
  order : s.sched.queue.Pairwise QueueEntry.Precedes
  once : (s.sched.queue.map (·.port)).Nodup
  idle : ∀ e ∈ s.sched.queue, (s.port e.port).action = .idle
  level : ∀ e ∈ s.sched.queue, (s.policy e.port).join ≤ e.u
  allowed : ∀ e ∈ s.sched.queue, s.permitted e.port = true
  unslotted : ∀ e ∈ s.sched.queue, s.openSlot e.port = none

/-- A port is out of service: OFF, TRIPPED or BARRED. -/
def Port.OutOfService (x : Port) : Prop := x.action = .off ∨ x.action = .tripped ∨ x.action = .barred

/-! ## Parts of the state -/

/-- The parts of the state that a claim can say are left alone. -/
inductive Part where
  | phase | ports | segments | gate | scan | acct | sched | test | ev | store | path | mem | queue
  deriving DecidableEq, Repr

/-- A part is the same in two states. -/
def Part.Same (b : Part) (s t : State) : Prop :=
  match b with
  | .phase => t.phase = s.phase
  | .ports => t.ports = s.ports
  | .segments => t.segBounds = s.segBounds
  | .gate => t.gate = s.gate
  | .scan => t.scan = s.scan
  | .acct => t.acct = s.acct
  | .sched => t.sched = s.sched
  | .test => t.test = s.test
  | .ev => t.ev = s.ev
  | .store => t.store = s.store
  | .path => t.path = s.path
  | .mem => t.mem = s.mem
  | .queue => t.pending = s.pending

/-- Every part outside a list is the same. -/
def SameParts (l : List Part) (s t : State) : Prop := ∀ b, b ∉ l → b.Same s t

/-- Every part outside a list is the same, and no reset has been asserted or released. -/
def SameBut (l : List Part) (s t : State) : Prop := t.line = s.line ∧ SameParts l s t

/-- Every byte of the plan memory reads as before. -/
def SameMem (s t : State) : Prop := ∀ a, t.mem.read a = s.mem.read a

/-- Every port but `p` keeps its record. -/
def OtherPorts (p : Fin 48) (s t : State) : Prop := ∀ q, q ≠ p → t.port q = s.port q

/-- An own access under way, but for the knowledge that its content was overtaken. -/
def ownRest (o : Option Own) : Option Own := o.map fun x => { x with redirty := false }

/-- The path unit has changed in its queue and its dirty marks alone (an own access under way may have
learnt that its content was overtaken). -/
def QueueAndMarks (s t : State) : Prop :=
  t.path = { s.path with
    ownq := t.path.ownq, dirty := t.path.dirty, dirtyInst := t.path.dirtyInst, own := t.path.own } ∧
  ownRest t.path.own = ownRest s.path.own

/-- The path unit has changed in its dirty marks alone. -/
def MarksOnly (s t : State) : Prop := QueueAndMarks s t ∧ t.path.ownq = s.path.ownq

/-- Of the dirty marks, port `p`'s is set, where the part sets marks at all (R43). -/
def MarkSet (p : Fin 48) (s t : State) : Prop :=
  t.path.dirty = (if s.canMark then s.path.dirty.set p true else s.path.dirty) ∧
    t.path.dirtyInst = s.path.dirtyInst

/-- One event has been raised with the phase, part time and tag of `t`: placed by R130 among the entries of
`s`, its kind the last event kind, ALERT# re-evaluated (R129, R138). -/
def Raised (kind : EventKind) (subject : Nat) (value : Int) (cause tag : Nat) (s t : State) : Prop :=
  let x := Spool.place t.ringOpen (t.entry .lost noSubject kind.code 0 t.store.plan.tag)
    (t.entry kind subject value cause tag) ⟨s.path.ownq, s.ev.staging, s.ev.unkept⟩
  t.path.ownq = x.queue ∧
    t.ev = { s.ev with
      staging := x.staging, unkept := x.unkept, lastKind := some kind, alert := t.alertLevel }

/-- Events have been raised one after the other in the phase and at the part time of `t`, each given by its kind,
subject, value, cause and tag: placed in turn by R130 among the entries of `s`, the last one's kind the last event
kind, ALERT# re-evaluated (R129, R138). -/
def RaisedEach (l : List (EventKind × Nat × Int × Nat × Nat)) (s t : State) : Prop :=
  let x := l.foldl (fun x (kind, subject, value, cause, tag) =>
      Spool.place t.ringOpen (t.entry .lost noSubject kind.code 0 t.store.plan.tag)
        (t.entry kind subject value cause tag) x) ⟨s.path.ownq, s.ev.staging, s.ev.unkept⟩
  t.path.ownq = x.queue ∧
    t.ev = { s.ev with
      staging := x.staging, unkept := x.unkept
      lastKind := (l.getLast?.map (·.1)).or s.ev.lastKind, alert := t.alertLevel }

/-! ## Byte images (R169) -/

/-- Fields stand in a byte image, each row an offset, a width in bytes and a value, least significant byte first. -/
def FieldsAt (bytes : List Byte) (rows : List (Nat × Nat × Nat)) : Prop :=
  ∀ r ∈ rows, ∀ k < r.2.1, bytes[r.1 + k]? = some (BitVec.ofNat 8 (r.2.2 / 256 ^ k))

/-! ## The live window touched (R111) -/

/-- A live byte taken now is the first of its transaction: of the one that is open, of another one while a
write burst is open (R150; log 8), or of one that is not shown. -/
def State.touches (s : State) : Bool := s.path.txn.all fun x => x.cmd = some .write || !x.live

/-- The lapse timer after a live byte taken at `now`: a HELD claim's timer starts again. -/
def State.lapseAfter (s : State) (now : Nat) : Option Nat :=
  if s.touches ∧ s.test.claim = .held then some now else s.test.lapse

/-- The path unit after a live byte: its transaction has reached the live window, an open write burst has
not (log 8). -/
def State.pathTouched (s : State) : Path :=
  { s.path with txn := s.path.txn.map fun x =>
      if x.cmd = some .write then x else { x with live := true } }

/-- The command that stands for a live byte of a write with an effect of its own at once: the bytes of the test
request and of the read index are taken at the end of their transaction (R161). -/
def liveRowOf (t : Nat) (off : Fin 128) (v : Byte) : Option Instr :=
  match off.val with
  | 19 => some (if v = 1#8 then .claimRelease t else .liveWriteAbsorbed t off v)
  | 20 => none
  | 21 => none
  | 22 => none
  | 25 => some (.testAbort t v)
  | 43 => some (.bankSwitchWrite t v)
  | 44 => some (.mapLockWrite t v)
  | 45 => some (.startLevelWrite t v)
  | 46 => none
  | 47 => none
  | 53 => some (if v = 1#8 then .scanTrigger t .supervisor else if v = 2#8 then .scanStop t
      else .liveWriteAbsorbed t off v)
  | 55 => some (.barClear t v)
  | _ => some (.liveWriteAbsorbed t off v)

/-! ## Work of ports -/

/-- A port that feeds, wakes or is under test. -/
def Port.Busy (x : Port) : Prop := x.action = .feeding ∨ x.action = .waking ∨ x.action = .testing

/-! ## The sweep -/

/-- R50 to R52, R55 and R57: what follows a channel whose result has been dealt with: the start-up sweep
runs to channel 53, the plan's sweep by its mode to the channel after it. -/
def State.SweepGoesOn (s : State) (now : Nat) (y : Scan) : Prop :=
  let h := s.header
  let c := s.scan.pos
  let next := if c = h.final then h.first else c + 1
  y.held = none ∧
  if s.scan.startUp then
    if c = 53 then y.state = .idle ∧ y.pos = h.first ∧ y.conv = none ∧ y.startUp = false
    else y.state = .sweeping ∧ y.pos = c + 1 ∧ y.conv = some now ∧ y.startUp = true
  else y.startUp = false ∧
    match h.mode with
    | .continuous => y.state = .sweeping ∧ y.pos = next ∧ y.conv = some now
    | .step => y.state = .waiting ∧ y.pos = next ∧ y.conv = none
    | _ => if c = h.final then y.state = .idle ∧ y.pos = h.first ∧ y.conv = none
      else y.state = .sweeping ∧ y.pos = next ∧ y.conv = some now

/-! ## A change of the plan in use (R149) -/

/-- From `s` to `t` the plan in use of `t` has been carried to every block: deficits, U and keys under the new
policies (R73), the queue purged and put back in order and the excess feeds ended (R92), trip limits (R28), the
scanner's rest where its mode, S or E differ (R56), the rota counters (R119; log 13), the alarm edges (R128) and
the hold signal (R80). -/
structure PlanCarried (s t : State) : Prop where
  charge : ∀ p, (s.port p).action ≠ .off →
    (t.port p).deficit = min (t.policy p).cap (s.port p).deficit ∧
    (t.port p).u = (t.port p).deficit * 1024 / (t.policy p).cap ∧
    (t.port p).key = (t.port p).u + (match (t.policy p).cls with
      | 0 => 512
      | 1 => 256
      | _ => 0) ∧
    (t.port p).limit = (t.policy p).trip
  kept : ∀ p, (s.port p).action ≠ .off →
    let x : Port := { s.port p with
      deficit := (t.port p).deficit, u := (t.port p).u, key := (t.port p).key
      cap := (t.policy p).cap, limit := (t.port p).limit }
    t.port p = x ∨ (s.port p).action = .feeding ∧
      t.port p = { x with action := .idle, switch := false, absence := none, fed := false }
  off : ∀ p, (s.port p).action = .off → t.port p = s.port p
  marks : ∀ p, (s.port p).action ≠ .off → s.canMark = true →
    (t.port p).u ≠ (s.port p).u ∨ (t.port p).key ≠ (s.port p).key ∨ (t.policy p).cap ≠ (s.port p).cap →
    t.path.dirty.get p = true
  feeds : t.feedingCount = min s.feedingCount t.header.feedLimit
  lowest : ∀ p q, (s.port p).action = .feeding → (t.port p).action ≠ .feeding →
    (t.port q).action = .feeding → (t.port p).key < (t.port q).key ∨
      (t.port p).key = (t.port q).key ∧ q.val < p.val
  queue : ∀ e, e ∈ t.sched.queue ↔ (∃ d ∈ s.sched.queue, d.port = e.port) ∧
    e.u = (t.port e.port).u ∧ e.key = (t.port e.port).key ∧ (t.policy e.port).join ≤ e.u ∧
    t.permitted e.port = true ∧ t.condition e.port = true
  order : t.sched.queue.Pairwise fun x y => y.key < x.key ∨ y.key = x.key ∧ x.port.val ≤ y.port.val
  sched : t.sched = { s.sched with queue := t.sched.queue }
  scan : s.store.plan ≠ .noPlan → t.scan =
    if s.scan.startUp = true ∨ t.header.mode = s.header.mode ∧ t.header.first = s.header.first ∧
        t.header.final = s.header.final then s.scan
    else { s.scan with state := .idle, pos := t.header.first, conv := none, held := none }
  counters : ∀ i, t.test.counters.get i =
    if t.header.rotaN ≤ i.val then s.test.counters.get i
    else if s.test.rotaN ≤ i.val then (t.store.plan.rota i).interval
    else min (s.test.counters.get i) (t.store.plan.rota i).interval
  test : t.test = { s.test with counters := t.test.counters, rotaN := t.header.rotaN }
  edges : ∀ i, t.ev.edges.get i = false
  acct : t.acct = { s.acct with hold := t.holdNow }

/-- A switch to bank `target` has been applied from `s` to `t` (R148): no change for the bank already active,
BANK_REFUSED for an invalid or absent one, and for a valid one BANK_SWITCH and the new plan carried to every block.
The bank is judged on its image with the bytes an open write burst has forwarded into its region; once it is
active, its region refuses the rest of the burst outside MAINS and the bytes taken are not handed on again, while
in MAINS the burst goes on (R150). -/
def State.SwitchApplied (target : Bank) (s t : State) : Prop :=
  let image := match s.bankRegion target, s.path.txn with
    | some r, some x => imageTake (s.bank target).image r.lo x.placed
    | _, _ => (s.bank target).image
  let info := State.validated (s.setBank target { s.bank target with image := image }) target
  t.clock = s.clock ∧ t.store.target = none ∧ t.store.ready = s.store.ready ∧ t.store.load = s.store.load ∧
  (target = s.store.active → t = { s with store := { s.store with target := none } }) ∧
  (target ≠ s.store.active → t.bank target = info ∧ (∀ k, k ≠ target → t.bank k = s.bank k) ∧
    (info.validity ≠ .valid →
      t.store.active = s.store.active ∧ t.store.plan = s.store.plan ∧
      Raised .bankRefused target.code (info.item.getD 0) (if info.validity = .invalid then 1 else 2)
        s.store.plan.tag s t ∧
      t.path = { s.path with ownq := t.path.ownq } ∧ SameBut [.store, .ev, .path] s t) ∧
    (info.validity = .valid →
      t.store.active = target ∧ t.store.plan = .bank target info.image ∧
      Raised .bankSwitch target.code s.store.plan.code 1 t.store.plan.tag
        { s with ev := { s.ev with edges := t.ev.edges } } t ∧
      PlanCarried s t ∧ (s.configured = true → t.path.dirtyInst = true) ∧
      (∀ r, s.bankRegion target = some r → t.path.txn = s.path.txn.map fun x =>
        if s.phase.phase = .mains then x else { x with
          placed := x.placed.filter fun y => !(r.lo ≤ y.addr && y.addr < r.hi) }) ∧
      (∀ a, 256 ≤ a → s.kindAt a = target.regionKind → t.classify a =
        if s.phase.phase = .mains then .forwarded else .refusing .activeBank) ∧
      QueueAndMarks { s with path := { s.path with txn := t.path.txn } } t ∧
      SameBut [.ports, .scan, .acct, .sched, .test, .ev, .store, .path] s t))

/-- No pending bank switch is applied by an entry to CUTOFF between `s` and `t`: none is pending, a plan load runs
(R157, log 25), or CUTOFF is not entered (R147). -/
def State.PlanStays (s t : State) : Prop :=
  s.store.target = none ∨ s.store.load ≠ none ∨ t.phase.phase ≠ .cutoff ∨ s.phase.phase.active = false

/-! ## The end of a plan load (R153) -/

/-- The read index that a value `v` becomes against W = `w`, for a ring of `n` records and modulus `m` (R136). -/
def indexTaken (n m w v : Nat) : Nat :=
  let back := (((w : Int) - v) % m).toNat
  let ahead := (((v : Int) - w) % m).toNat
  if m ≤ v then w else if back ≤ n then v else if ahead ≤ back - n then w else (((w : Int) - n) % m).toNat

/-- A byte pair of the installation image. -/
def State.pairAt (s : State) (o : Nat) : Nat := (s.imageByte o).toNat + 256 * (s.imageByte (o + 1)).toNat

/-- From `s` to `t` a plan load of a cause has ended with nothing pending and no held qualification due; the map
of `t` is that of `s` or newer. Where no thermal state is entered and the phase stays (`calm`), the events are
those of R153 step 4 (and R145, log 38) and the plan is carried (R149) from the state with the new population. -/
structure LoadEnded (cause : LoadCause) (s t : State) : Prop where
  ready : t.store.ready = true ∧ t.store.load = none ∧ t.store.target = none
  active : t.store.active = if cause = .remapped then s.store.active else t.namedBank
  banks : ∀ c, t.bank c = t.validated c
  plan : t.store.plan = if (t.bank t.store.active).validity = .valid
    then .bank t.store.active (t.bank t.store.active).image else .builtIn
  taken : t.acct.cap = t.instCapNow ∧ t.segBounds = t.instBounds ∧ t.scan.cfg = t.instThermalNow
  populated : ∀ p, (t.port p).action = .off ↔ t.populated p = false
  sweep : cause.isReset = true →
    t.scan.startUp = true ∧ t.scan.state = .sweeping ∧ t.scan.pos = 0 ∧ t.scan.conv = some t.clock
  timer : cause.isReset = true → t.phase.phase.active = true → t.scan.latch = false →
    t.sched.timer = some (t.clock + t.header.period * Config.sec)
  ring : cause ≠ .remapped → 0 < t.ringN →
    let w := t.pairAt 4
    let r := indexTaken t.ringN t.ringM t.ev.w (t.pairAt 6)
    t.ev.heldRd = none ∧ t.ev.w = (if t.ringM ≤ w then 0 else w) ∧
    (s.ev.heldRd = none → t.ev.r = (if t.ringM ≤ w then 0 else r) ∧
      t.ev.newest = (if 0 < t.unread then some ((t.ev.w + t.ringM - 1) % t.ringM) else none) ∧
      (t.ev.w ≠ w ∨ t.ev.r ≠ t.pairAt 6 → t.path.dirtyInst = true)) ∧
    ∀ v, s.ev.heldRd = some v → t.ev.r = indexTaken t.ringN t.ringM t.ev.w v
  noRing : cause ≠ .remapped → t.ringN = 0 →
    t.ev.staging = [] ∧ (∀ z ∈ t.path.ownq, z.isEvent = false) ∧
      (cause.isReset = true → t.ev.unkept = true)
  records : cause ≠ .remapped → 0 < t.measN →
    t.scan.measIdx = if t.measN ≤ t.pairAt 8 then 0 else t.pairAt 8
  calm : t.scan.thermal = s.scan.thermal → t.phase.phase = s.phase.phase →
    (0 < t.ringN →
      ∃ u v : State, u.path.ownq = s.path.ownq ∧
        u.ev = { t.ev with staging := s.ev.staging, lastKind := s.ev.lastKind, unkept := u.ev.unkept } ∧
        (if cause.isReset then
          Raised .partStart noSubject (if cause = .powerOn then 0 else 1) 0 t.store.plan.tag u
            { t with ev := v.ev, path := { t.path with ownq := v.path.ownq } }
        else v = u) ∧
        (if t.store.plan = .builtIn then
          Raised .bankRefused t.store.active.code ((t.bank t.store.active).item.getD 0) 3
            t.store.plan.tag v t
        else if s.store.plan = .builtIn then
          Raised .bankSwitch t.store.active.code 2 3 t.store.plan.tag v t
        else t.path.ownq = v.path.ownq ∧ t.ev = v.ev)) ∧
    ∃ u v : State,
      (∀ p, t.populated p = true → (s.port p).action ≠ .off → u.port p = s.port p) ∧
      (∀ p, t.populated p = true → (s.port p).action = .off → (u.port p).action = .idle) ∧
      u.acct = { s.acct with cap := t.acct.cap, q := min s.acct.q t.acct.cap, level := u.acct.level } ∧
      u.store = { t.store with plan := s.store.plan } ∧ u.phase.phase = t.phase.phase ∧ u.test = s.test ∧
      u.sched = { s.sched with
        queue := s.sched.queue.filter fun e => t.populated e.port, slots := u.sched.slots } ∧
      (cause.isReset = false →
        u.scan = { s.scan with measIdx := t.scan.measIdx, measFormed := t.scan.measFormed } ∧
        t.scan = { v.scan with cfg := t.scan.cfg }) ∧
      PlanCarried u v ∧ t.ports = v.ports ∧ t.test = v.test ∧ t.acct = v.acct ∧
      t.ev.edges = v.ev.edges ∧ t.sched = { v.sched with timer := t.sched.timer } ∧
      v.store = t.store ∧ (∀ p, u.path.dirty.get p = true → t.path.dirty.get p = true) ∧
      t.path.dirty = v.path.dirty

/-! ## The end of a test (R117) -/

/-- The test `run` has ended with a result and a value (steps 1 to 5 of R117, after a detach): port IDLE,
summary, last result, owner and claim, the rota entry's counter, TEST_RESULT; nothing else moves. -/
structure TestEnded (run : TestRun) (result : TestResult) (value : Nat) (span : Option (Nat × Nat))
    (s t : State) : Prop where
  port : t.port run.port = { s.port run.port with
    action := .idle, switch := false
    lastTest := some { kind := run.kind, result := result, value := value } }
  others : OtherPorts run.port s t
  gate : t.gate = { s.gate with waiting := s.gate.waiting.filter fun r => r.port ≠ run.port }
  test : t.test = { s.test with
    run := none, owner := t.test.owner, claim := t.test.claim, counters := t.test.counters
    last := some { kind := run.kind, port := run.port, bySupervisor := run.bySupervisor,
                   result := result, value := value, span := span } }
  rotaOwner : run.bySupervisor = false → t.test.owner = .none ∧ t.test.claim = s.test.claim
  releasing : run.bySupervisor = true → s.test.claim = .releasing →
    t.test.owner = .none ∧ t.test.claim = .none
  held : run.bySupervisor = true → s.test.claim ≠ .releasing →
    t.test.owner = s.test.owner ∧ t.test.claim = s.test.claim
  counters : ∀ i, t.test.counters.get i =
    if run.rota = some i ∧ i.val < s.header.rotaN then (s.store.plan.rota i).interval
    else s.test.counters.get i
  event : Raised .testResult run.port.val value result.eventCause
    (run.kind.code + 256 * (if run.bySupervisor then 2 else 1)) s t
  path : QueueAndMarks s t ∧ MarkSet run.port s t
  rest : SameBut [.ports, .gate, .test, .ev, .path] s t

end Sys2Proof.Machine

/-- A command is a reset or the release of one. -/
def Sys2Proof.Instr.isReset : Instr → Bool
  | .powerOnReset => true
  | .warmReset _ => true
  | .nresetRelease => true
  | .powerOnResetRelease => true
  | _ => false

/-- A command that can change a byte of the plan memory: an array write, or one that cuts or completes an
own access. -/
def Sys2Proof.Instr.movesMemory : Instr → Bool
  | .powerOnReset => true
  | .warmReset _ => true
  | .transactionStart _ => true
  | .arrayWrite _ _ _ => true
  | .planLoadReadComplete _ => true
  | .measRecordWriteComplete _ => true
  | .eventRecordWriteComplete _ => true
  | .portImageWriteComplete _ => true
  | .installationWriteComplete _ => true
  | _ => false

/-- The moment of a command that names a live byte of its own (log 8). -/
def Sys2Proof.Instr.liveAt : Instr → Option Nat
  | .startLevelWrite t _ => some t
  | .barClear t _ => some t
  | .scanTrigger t .supervisor => some t
  | .scanStop t => some t
  | .claimAttempt t => some t
  | .claimRelease t => some t
  | .testRequest t _ _ _ => some t
  | .testAbort t _ => some t
  | .readIndexWrite t _ _ => some t
  | .bankSwitchWrite t _ => some t
  | .mapLockWrite t _ => some t
  | .liveWriteAbsorbed t _ _ => some t
  | _ => none

/-- A command that is a movement of an input line: MAINS_OK or SL_CS#. -/
def Sys2Proof.Instr.movesLine : Instr → Bool
  | .mainsOkChange _ _ => true
  | .transactionStart _ => true
  | .transactionEnd _ => true
  | _ => false
end

