-- ==== Sys2Proof/Certificates/Slice0/Obligations.lean ====
section
/-! DEFINITION. The statements for the provers, in the order: the whole machine, resets, phases, the
period end, ports, scanner, rounds, tests, events, plans, the memory path. `now` is always the moment a
command is taken. -/

open Sys2Proof Sys2Proof.Machine

/-! ## The whole machine -/

/-- The front of the waiting queue is executed with the queue's rest; on an empty queue the part idles (assumption
log 2). -/
def Obligations.StepTakesFrontCommand : Prop :=
  (∀ (s : State) (c : Instr) (rest : List Instr), s.pending = c :: rest →
    step s = exec c { s with pending := rest }) ∧
  ∀ s : State, s.pending = [] → step s = .next s

/-- No command touches the commands still waiting: only the front one leaves the queue at a step. -/
def Obligations.CommandsKeepWaitingQueue : Prop :=
  ∀ (c : Instr) (s t : State), exec c s = .next t → t.pending = s.pending

/-- The plan memory keeps its one canonical form at every step. -/
def Obligations.StepKeepsMemoryCanonical : Prop :=
  ∀ s t : State, s.MemOk → step s = .next t → t.MemOk

/-- R130 and R16: the own-access queue never passes 16 entries nor the staging list 8, and the central start level
never passes 100. R84 and R85: the feed queue stays in queue order, with each port once and only IDLE ports at their
join level, of a permitted class and in no unresolved slot, where no switch is closed on a port that may have none
(that premise is the invariant of `StepKeepsSwitchesOpen`). -/
def Obligations.StepKeepsBounds : Prop :=
  (∀ s t : State, s.SpoolOk → s.phase.startLevel ≤ 100 → step s = .next t →
    t.SpoolOk ∧ t.phase.startLevel ≤ 100) ∧
  ∀ s t : State, s.QueueOk → s.SwitchesOk → step s = .next t → t.QueueOk

/-- The table of action states (R26 on): no step leaves a switch closed on a port that is OFF, IDLE, TRIPPED or
BARRED. -/
def Obligations.StepKeepsSwitchesOpen : Prop :=
  ∀ s t : State, s.SwitchesOk → step s = .next t → t.SwitchesOk

/-- R108: at every step a port is TESTING exactly when the test channel is attached to it. -/
def Obligations.StepKeepsAttachment : Prop :=
  ∀ s t : State, s.AttachOk → step s = .next t → t.AttachOk

/-- R64: the CRITICAL latch, once set, is cleared by no command but a reset. -/
def Obligations.LatchClearedByResetAlone : Prop :=
  ∀ (c : Instr) (s t : State), c.isReset = false → s.scan.latch = true → exec c s = .next t →
    t.scan.latch = true

/-- R155 to R168: a command that neither forwards an array write, nor cuts or completes an own access, leaves every
byte of the plan memory as it is. -/
def Obligations.MemoryMovesOnThePathAlone : Prop :=
  ∀ (c : Instr) (s t : State), c.movesMemory = false → exec c s = .next t → SameMem s t

/-- While a reset is asserted every command but the resets, their releases and the three input lines' own movements
leaves the part as it is (assumption log 14; R20, R67, R168). -/
def Obligations.AssertedResetIsInert : Prop :=
  ∀ (c : Instr) (s : State), s.line ≠ .released → c.isReset = false → c.movesLine = false →
    exec c s = .next s

/-! ## Resets -/

/-- The power-on tables of R19, R44, R65, R82, R106, R124, R139, R154 and R168, on `State.reset`. -/
def Obligations.ResetHoldsPowerOnValues : Prop :=
  let s := State.reset
  (s.phase.phase = .mains ∧ s.phase.mains = .present ∧ s.phase.qual = .stopped ∧
    s.phase.outageTime = 0 ∧ s.phase.uv = 0 ∧ s.phase.startLevel = 100) ∧
  (∀ p, (s.port p).action = .off ∧ (s.port p).status = .absent ∧ (s.port p).cand = none ∧
    (s.port p).switch = false ∧ (s.port p).trips = 0 ∧ (s.port p).attempts = 0 ∧
    (s.port p).lastTest = none ∧ (s.port p).feedSecs = 0 ∧ (s.port p).coolOff = none ∧
    (s.port p).pulse = none ∧ (s.port p).answer = none ∧ (s.port p).retry = none ∧
    (s.port p).absence = none ∧ s.segOf p = none) ∧
  (s.gate.waiting = [] ∧ s.gate.last = none ∧ ∀ g, s.gate.hist.get g = []) ∧
  (∀ c, s.value c = 0 ∧ s.scan.ages.get c = 255 ∧ s.stale c = true) ∧
  (s.scan.state = .idle ∧ s.scan.pos = 0 ∧ s.scan.held = none ∧ s.scan.thermal = .normal ∧
    s.scan.latch = false) ∧
  (∀ p, (s.port p).deficit = 0 ∧ (s.port p).u = 0 ∧ (s.port p).key = 0 ∧ (s.port p).taper = 0) ∧
  (s.acct.q = 0 ∧ s.level = 100 ∧ s.acct.f16 = 0 ∧ s.filter = 0 ∧ s.acct.count = 0 ∧
    s.acct.hold = false ∧ s.shed = false) ∧
  (s.sched.queue = [] ∧ s.sched.running = false ∧ (∀ i, s.sched.slots.get i = {}) ∧
    s.sched.timer = none ∧ s.sched.startPending = false ∧ s.sched.number = 0 ∧
    s.sched.record.number = 0 ∧
    ∀ i, s.sched.record.slots.get i = { action := .none, port := none, outcome := .empty }) ∧
  (s.test.owner = .none ∧ s.test.claim = .none ∧ s.test.lapse = none ∧ s.test.run = none ∧
    (∀ i, s.test.counters.get i = 0) ∧ s.test.minute = 0 ∧
    s.test.req = { port := 0, kind := 0, minutes := 1, outcome := .none } ∧ s.test.last = none) ∧
  ((∀ i, s.ev.edges.get i = false) ∧ s.ev.staging = [] ∧ s.ev.newest = none ∧ s.ev.unkept = false ∧
    s.ev.lastKind = none ∧ s.ev.alert = false) ∧
  (s.store.a = { image := [], validity := .absent, item := none } ∧
    s.store.b = { image := [], validity := .absent, item := none } ∧ s.store.plan = .noPlan ∧
    s.store.target = none ∧ s.store.ready = false) ∧
  (s.path.inst = none ∧ s.path.mapLock = false ∧ s.path.link = .idle ∧ s.path.ownq = [] ∧
    (∀ p, s.path.dirty.get p = false) ∧ s.path.dirtyInst = false ∧ s.path.turn = .queue ∧
    s.path.lastMark = .port 47 ∧ s.path.preempted = none)

/-- The state after power-on reset meets every invariant stated here. -/
def Obligations.ResetMeetsInvariants : Prop :=
  State.reset.MemOk ∧ State.reset.SpoolOk ∧ State.reset.SwitchesOk ∧ State.reset.AttachOk ∧
    State.reset.phase.startLevel ≤ 100 ∧ State.reset.QueueOk

/-- POWER_ON_RESET gives every block the values of `State.reset`; MAINS_OK and SL_CS# are the outside's, and the
plan memory, battery-backed, keeps every byte outside an own write under way. -/
def Obligations.PowerOnResetTakesPowerOnValues : Prop :=
  ∀ s : State, s.MemOk → ∃ t, exec .powerOnReset s = .next t ∧
    t.phase = { State.reset.phase with mainsOk := s.phase.mainsOk } ∧
    t.path = { State.reset.path with csLow := s.path.csLow } ∧
    t.line = .powerOn ∧ t.clock = 0 ∧ t.pending = s.pending ∧
    SameParts [.phase, .path, .mem, .queue] State.reset t ∧
    ∀ a, (∀ o, s.path.own = some o → a < o.addr ∨ o.addr + o.data.length ≤ a) →
      t.mem.read a = s.mem.read a

/-- WARM_RESET at the fall of NRESET: what R20, R45, R65, R83, R106, R124, R139, R154 and R168 keep and what they
clear. -/
def Obligations.WarmResetKeepsAndClears : Prop :=
  ∀ (τ : Nat) (s : State), s.line = .released → s.MemOk →
    let now := max s.clock τ
    ∃ t, exec (.warmReset τ) s = .next t ∧ t.line = .warm ∧
      t.phase = { s.phase with qual := .stopped, uv := 0 } ∧
      (∀ p, let x := s.port p; let y := t.port p
        y.action = (if x.action = .barred ∨ x.action = .off then x.action else .idle) ∧
        y.switch = false ∧ y.status = .absent ∧ y.cand = none ∧ y.step = none ∧ y.coolOff = none ∧
        y.pulse = none ∧ y.answer = none ∧ y.retry = none ∧ y.absence = none ∧
        y.trips = x.trips ∧ y.attempts = x.attempts ∧ y.feedSecs = x.feedSecs ∧
        y.deficit = x.deficit ∧ y.u = x.u ∧ y.key = x.key ∧ y.taper = 0 ∧
        ∀ run, s.test.run = some run →
          y.lastTest = if run.port = p then
              some { kind := run.kind, result := .aborted .reset,
                     value := (now - run.attached) / Config.sec }
            else x.lastTest) ∧
      (s.test.run = none → ∀ p, (t.port p).lastTest = (s.port p).lastTest) ∧
      (t.gate.waiting = [] ∧ t.gate.last = none ∧ ∀ g, t.gate.hist.get g = []) ∧
      (t.scan.values = s.scan.values ∧ t.scan.ages = s.scan.ages ∧ t.scan.state = .idle ∧
        t.scan.pos = 0 ∧ t.scan.conv = none ∧ t.scan.held = none ∧ t.scan.thermal = .normal ∧
        t.scan.latch = false) ∧
      (t.acct.q = s.acct.q ∧ t.acct.f16 = 0 ∧ t.acct.count = 0) ∧
      t.sched = {} ∧
      (t.test.owner = .none ∧ t.test.claim = .none ∧ t.test.lapse = none ∧ t.test.run = none ∧
        t.test.counters = s.test.counters ∧ t.test.minute = s.test.minute ∧ t.test.req = s.test.req ∧
        t.test.last = s.test.last) ∧
      ((∀ i, t.ev.edges.get i = false) ∧ t.ev.staging = [] ∧ t.ev.unkept = false ∧
        t.ev.alert = false ∧ t.ev.lastKind = s.ev.lastKind) ∧
      (t.store.ready = false ∧ t.store.target = none ∧ t.store.plan = .noPlan ∧ t.store.a = {} ∧
        t.store.b = {}) ∧
      (t.path.inst = none ∧ t.path.mapLock = false ∧ t.path.link = .idle ∧ t.path.txn = none ∧
        t.path.ownq = [] ∧ (∀ p, t.path.dirty.get p = false) ∧ t.path.dirtyInst = false ∧
        t.path.turn = .queue ∧ t.path.lastMark = .port 47 ∧ t.path.own = none ∧
        t.path.preempted = none) ∧
      t.segBounds = s.segBounds ∧ t.pending = s.pending ∧
      ∀ a, (∀ o, s.path.own = some o → a < o.addr ∨ o.addr + o.data.length ≤ a) →
        t.mem.read a = s.mem.read a

/-- The release of either reset: a plan load from the installation block on (R152), time from 0 (R67); at
NRESET_RELEASE the mains state and the timer by the table of R20. The quiet gap counts from the release (log 43).
Nothing else changes. -/
def Obligations.ReleaseStartsPlanLoad : Prop :=
  (∀ s : State, s.line = .warm → ∃ t, exec .nresetRelease s = .next t ∧ t.line = .released ∧
    t.clock = 0 ∧
    (t.phase.mains, t.phase.qual) =
      (match s.phase.phase, s.phase.mainsOk with
        | .mains, true => (.present, .stopped)
        | .restore, true => (.present, .stopped)
        | .mains, false => (.losing, .running 0)
        | .restore, false => (.losing, .running 0)
        | .outage, true => (.returning, .running 0)
        | .reserve, true => (.returning, .running 0)
        | .cutoff, true => (.returning, .running 0)
        | .outage, false => (.lost, .stopped)
        | .reserve, false => (.lost, .stopped)
        | .cutoff, false => (.lost, .stopped)) ∧
    t.phase = { s.phase with mains := t.phase.mains, qual := t.phase.qual } ∧
    t.store = { s.store with load := some { cause := .warm, todo := [.inst], off := 0 } } ∧
    t.path = { s.path with csSince := 0 } ∧ SameParts [.phase, .store, .path] s t) ∧
  (∀ s : State, s.line = .powerOn → ∃ t, exec .powerOnResetRelease s = .next t ∧ t.line = .released ∧
    t.clock = 0 ∧
    t.store = { s.store with load := some { cause := .powerOn, todo := [.inst], off := 0 } } ∧
    t.path = { s.path with csSince := 0 } ∧ SameParts [.store, .path] s t)

/-! ## Phases -/

/-- MAINS_OK_CHANGE: the table of R1, the qualification timer with it. While a reset is asserted no sample is taken
and only the line itself moves (R20; log 14). -/
def Obligations.MainsSampleFollowsTable : Prop :=
  ∀ (τ : Nat) (high : Bool) (s : State), ∃ t, exec (.mainsOkChange τ high) s = .next t ∧
    (s.line ≠ .released → t = { s with phase := { s.phase with mainsOk := high } }) ∧
    (s.line = .released →
      let now := max s.clock τ
      t.clock = now ∧ SameBut [.phase] s t ∧
      t.phase = { s.phase with mainsOk := high, mains := t.phase.mains, qual := t.phase.qual } ∧
      (t.phase.mains, t.phase.qual) =
        (match s.phase.mains, high with
          | .present, true => (.present, s.phase.qual)
          | .present, false => (.losing, .running now)
          | .losing, true => (.present, .stopped)
          | .losing, false => (.losing, s.phase.qual)
          | .lost, true => (.returning, .running now)
          | .lost, false => (.lost, s.phase.qual)
          | .returning, true => (.returning, s.phase.qual)
          | .returning, false => (.lost, .stopped)))

/-- R3: a qualification that falls due while the plan store is LOADING is held with the time counted; a held one
stays held while the qualify time is not above its count, and counts on from it under a longer one. One that is not
yet due stays as it is (log 4). Nothing else changes. -/
def Obligations.QualificationHeldWhileLoading : Prop :=
  ∀ (τ : Nat) (s : State), s.line = .released → s.store.ready = false →
    let now := max s.clock τ
    (s.phase.mains = .losing → ∃ t, exec (.lossQualified τ) s = .next t ∧ SameBut [.phase] s t ∧
      t.phase = { s.phase with qual := t.phase.qual } ∧
      (∀ t0, s.phase.qual = .running t0 →
        t.phase.qual = if t0 + s.lossTime ≤ now then .held (now - t0) else .running t0) ∧
      (∀ n, s.phase.qual = .held n → t.phase.qual =
        if s.lossTime ≤ n then .held n else .running (now - n))) ∧
    (s.phase.mains = .returning → ∃ t, exec (.restoreQualified τ) s = .next t ∧ SameBut [.phase] s t ∧
      t.phase = { s.phase with qual := t.phase.qual } ∧
      (∀ t0, s.phase.qual = .running t0 →
        t.phase.qual = if t0 + s.restoreTime ≤ now then .held (now - t0) else .running t0) ∧
      (∀ n, s.phase.qual = .held n → t.phase.qual =
        if s.restoreTime ≤ n then .held n else .running (now - n)))

/-- R5: a loss qualified in MAINS. Q becomes the charge of the start level (R75), the phase is OUTAGE, or at once
RESERVE or CUTOFF by the level test of R6; outage time and undervoltage count are 0, the rota counters are loaded
(R119), the round timer starts (R89), and stops again at an entry to CUTOFF. PHASE is raised in OUTAGE with cause
MAINS_LOST, and a second one in RESERVE or CUTOFF with cause LEVEL, both with the level of the new Q (R4). The entry
to CUTOFF applies no bank switch where none is pending or a plan load runs (log 25). -/
def Obligations.LossInMainsStartsOutage : Prop :=
  ∀ (τ t0 : Nat) (s : State), s.line = .released → s.store.ready = true → s.phase.phase = .mains →
    s.phase.mains = .losing → s.phase.qual = .running t0 → t0 + s.lossTime ≤ max s.clock τ →
    s.store.target = none ∨ s.store.load ≠ none → s.sched.running = false → s.test.run = none →
    let now := max s.clock τ
    let q := s.acct.cap * s.phase.startLevel / 100
    let level := q * 100 / s.acct.cap
    ∃ t, exec (.lossQualified τ) s = .next t ∧ t.clock = now ∧
      t.phase = { s.phase with
        phase := if level < s.header.cutoff then .cutoff
          else if level < s.header.reserve then .reserve else .outage
        mains := .lost, qual := .stopped, outageTime := 0, uv := 0 } ∧
      t.acct = { s.acct with q := q, level := level } ∧
      t.test = { s.test with counters := t.test.counters, minute := 0 } ∧
      (∀ i, t.test.counters.get i =
        if i.val < s.header.rotaN then (s.store.plan.rota i).interval else s.test.counters.get i) ∧
      t.ev.lastKind = some .phase ∧
      SameBut [.phase, .ports, .gate, .acct, .sched, .test, .ev, .path] s t ∧
      (s.header.reserve ≤ level → s.header.cutoff ≤ level →
        t.ports = s.ports ∧ t.gate = s.gate ∧
        t.sched = { s.sched with timer :=
          if s.scan.latch then s.sched.timer else some (now + s.header.period * Config.sec) } ∧
        t.path = { s.path with ownq := t.path.ownq } ∧
        Raised .phase noSubject level PhaseCause.mainsLost.code s.store.plan.tag s t) ∧
      (level < s.header.reserve ∨ level < s.header.cutoff →
        t.sched.timer = (if level < s.header.cutoff then none
          else if s.scan.latch then s.sched.timer else some (now + s.header.period * Config.sec)) ∧
        QueueAndMarks s t ∧
        ∃ (ev : EventUnit) (q : List OwnEntry),
          let mid := { s with
            clock := now, phase := { s.phase with phase := .outage }, ev := ev
            path := { s.path with ownq := q } }
          Raised .phase noSubject level PhaseCause.mainsLost.code s.store.plan.tag s mid ∧
          Raised .phase noSubject level PhaseCause.level.code s.store.plan.tag mid t)

/-- R13: a loss qualified in RESTORE returns to OUTAGE, RESERVE or CUTOFF by the last level, with Q, the outage time
and the test unit as they are and the undervoltage count 0; the one PHASE event carries the phase entered, the cause
MAINS_LOST and the level (R4). R147: a bank switch that is pending, with no load running, is applied by an entry to
CUTOFF once its other effects are complete. While a load runs it stays pending (log 25). -/
def Obligations.LossInRestoreReturnsByLevel : Prop :=
  ∀ (τ t0 : Nat) (s : State), s.line = .released → s.store.ready = true → s.phase.phase = .restore →
    s.phase.mains = .losing → s.phase.qual = .running t0 → t0 + s.lossTime ≤ max s.clock τ →
    s.sched.running = false → s.test.run = none →
    let now := max s.clock τ
    let level := s.acct.level
    (∀ target, s.store.target = some target → s.store.load = none → level < s.header.cutoff →
      ∃ u t : State, exec (.lossQualified τ) { s with store := { s.store with target := none } } = .next u ∧
        exec (.lossQualified τ) s = .next t ∧ State.SwitchApplied target { u with store := s.store } t) ∧
    (s.store.target = none ∨ s.store.load ≠ none →
      ∃ t, exec (.lossQualified τ) s = .next t ∧ t.clock = now ∧
      t.phase = { s.phase with
        phase := if level < s.header.cutoff then .cutoff
          else if level < s.header.reserve then .reserve else .outage
        mains := .lost, qual := .stopped, uv := 0 } ∧
      t.sched.timer = (if level < s.header.cutoff then none
        else if s.scan.latch then s.sched.timer else some (now + s.header.period * Config.sec)) ∧
      QueueAndMarks s t ∧ Raised .phase noSubject level PhaseCause.mainsLost.code s.store.plan.tag s t ∧
      SameBut [.phase, .ports, .gate, .sched, .ev, .path] s t ∧
      (s.header.reserve ≤ level → s.header.cutoff ≤ level →
        t.ports = s.ports ∧ t.gate = s.gate ∧ t.sched = { s.sched with timer := t.sched.timer } ∧
        t.path = { s.path with ownq := t.path.ownq }))

/-- R11 with the effects of R9: a restore qualified in OUTAGE, RESERVE or CUTOFF ends every feed, wake and test,
empties the queue and the gate, abandons the round and stops its timer; Q, the outage time and the deficits stay,
and no feed switch is left closed. PHASE with cause MAINS_BACK and the level (R4) comes after the TEST_RESULT,
ABORTED PHASE, of a test (log 35). R147: a bank switch that is pending, with no load running, is applied once the
entry's other effects are complete. While a load runs it stays pending (log 25). -/
def Obligations.RestoreEndsAllWork : Prop :=
  ∀ (τ t0 : Nat) (s : State), s.line = .released → s.store.ready = true →
    s.phase.phase.active = true ∨ s.phase.phase = .cutoff →
    s.phase.mains = .returning → s.phase.qual = .running t0 → t0 + s.restoreTime ≤ max s.clock τ →
    s.SwitchesOk → s.AttachOk →
    let now := max s.clock τ
    let entered := (EventKind.phase, noSubject, (s.acct.level : Int), PhaseCause.mainsBack.code, s.store.plan.tag)
    let result (run : TestRun) :=
      (EventKind.testResult, run.port.val, (((now - run.attached) / Config.sec : Nat) : Int), 4,
        run.kind.code + 256 * if run.bySupervisor then 2 else 1)
    (∀ target, s.store.target = some target → s.store.load = none →
      ∃ u t : State, exec (.restoreQualified τ) { s with store := { s.store with target := none } } = .next u ∧
        exec (.restoreQualified τ) s = .next t ∧ State.SwitchApplied target { u with store := s.store } t) ∧
    (s.store.target = none ∨ s.store.load ≠ none →
      ∃ t, exec (.restoreQualified τ) s = .next t ∧ t.clock = now ∧
      t.phase = { s.phase with phase := .restore, mains := .present, qual := .stopped } ∧
      t.sched.queue = [] ∧ t.gate = { s.gate with waiting := [] } ∧
      t.sched.running = false ∧ t.sched.timer = none ∧ t.sched.startPending = false ∧
      t.sched.number = s.sched.number ∧
      (s.sched.running = true → t.sched.record.number = s.sched.number ∧
        ∀ i, t.sched.record.slots.get i =
          { action := (s.sched.slots.get i).action, port := (s.sched.slots.get i).port
            outcome := (s.sched.slots.get i).outcome.getD .abandoned }) ∧
      (s.sched.running = false → t.sched.record = s.sched.record) ∧
      (∀ p, ¬(t.port p).Busy ∧ (t.port p).switch = false ∧
        (t.port p).deficit = (s.port p).deficit ∧ (t.port p).u = (s.port p).u ∧
        (t.port p).trips = (s.port p).trips ∧ (t.port p).attempts = (s.port p).attempts ∧
        (t.port p).feedSecs = (s.port p).feedSecs ∧
        ((s.port p).Busy → (t.port p).action = .idle) ∧ (¬(s.port p).Busy → t.port p = s.port p)) ∧
      t.test.run = none ∧
      (s.test.run = none → t.test = s.test) ∧
      (∀ run, s.test.run = some run → t.test.last =
        some { kind := run.kind, port := run.port, bySupervisor := run.bySupervisor,
               result := .aborted .phase, value := (now - run.attached) / Config.sec, span := none }) ∧
      t.test.minute = s.test.minute ∧ QueueAndMarks s t ∧
      (s.test.run = none → RaisedEach [entered] s t) ∧
      (∀ run, s.test.run = some run → RaisedEach [result run, entered] s t) ∧
      SameBut [.phase, .ports, .gate, .sched, .test, .ev, .path] s t)

/-- R12: the entry to MAINS once the settling conditions hold: every deficit and urgency 0, outage time and
undervoltage count 0, Q kept, PHASE raised with the start level. -/
def Obligations.SettlingReturnsToMains : Prop :=
  ∀ (τ : Nat) (s : State), s.line = .released → s.store.ready = true → s.phase.phase = .restore →
    s.test.run = none → (∀ p, ¬(s.port p).Busy) →
    s.unconfigured = true ∨ s.path.dirtyInst = false ∧ (∀ p, s.path.dirty.get p = false) →
    ∃ t, exec (.settlingComplete τ) s = .next t ∧ t.clock = max s.clock τ ∧
      t.phase = { s.phase with phase := .mains, outageTime := 0, uv := 0 } ∧
      (∀ p, t.port p = { s.port p with deficit := 0, u := 0, key := 0, taper := 0 }) ∧
      (∀ p, t.path.dirty.get p =
        (s.path.dirty.get p || (s.canMark && decide ((s.port p).deficit ≠ 0)))) ∧
      t.level = s.phase.startLevel ∧ QueueAndMarks s t ∧ t.path.dirtyInst = s.path.dirtyInst ∧
      Raised .phase noSubject s.phase.startLevel PhaseCause.settled.code s.store.plan.tag s t ∧
      SameBut [.phase, .ports, .ev, .path] s t

/-- R16: a written start level is stored, above 100 as 100, in every phase, and reads back from the live window; the
running Q is untouched. The row's touch, and its standing beside an open write burst, are the model's choice of log
8 over R111. -/
def Obligations.StartLevelWriteStores : Prop :=
  ∀ (τ : Nat) (v : Byte) (s : State), s.line = .released → s.takesLive = true →
    let now := max s.clock τ
    ∃ t, exec (.startLevelWrite τ v) s = .next t ∧ t.clock = now ∧
      t.phase = { s.phase with startLevel := min 100 v.toNat } ∧
      t.liveWindow[45]? = some (byteOf (min 100 v.toNat)) ∧
      t.test = { s.test with lapse := s.lapseAfter now } ∧ t.path = s.pathTouched ∧
      SameBut [.phase, .test, .path] s t

/-! ## The accounting period end

The last act of a period end in READY, and of several commands below, is that a running round goes on, or a
start that waited for its end is taken (`runRound`); `u` is the part just before it. What it does is said by
`RunningRoundGoesOn`; with no round running and no start pending nothing is left to do. -/

/-- R14, R58, R67, R119 and R20: what a period end advances. In LOADING the outage time and the channel ages alone;
in READY these in the same way, and the rota minute with its counters, which so stand still in LOADING (log 13). A
command that comes before the period has run changes nothing (log 4). R49: a period end in READY sends the scanner
its tick in the same step, after the rest of what it hands on (log 32): `w` is the part before the tick, which acts
as `TriggersAndStopsMoveSweep` says. The parts that a period end leaves alone are said where no entry to CUTOFF
applies a pending bank switch (`PlanStays`, log 25). -/
def Obligations.PeriodEndAdvancesClocks : Prop :=
  ∀ (τ : Nat) (s : State), s.line = .released →
    let now := max s.clock τ
    ∃ t, exec (.accountingPeriodEnd τ) s = .next t ∧ t.clock = now ∧
      (now < s.acct.lastEnd + Config.sec → SameBut [] s t) ∧
      (s.acct.lastEnd + Config.sec ≤ now →
        t.acct.lastEnd = s.acct.lastEnd + Config.sec ∧
        t.phase.outageTime = (if s.phase.phase = .mains then s.phase.outageTime
          else min max32 (s.phase.outageTime + 1)) ∧
        (∀ c, t.scan.ages.get c = min 255 (s.scan.ages.get c + 1)) ∧
        (s.store.ready = false →
          t.phase = { s.phase with outageTime := t.phase.outageTime } ∧
          t.scan = { s.scan with ages := t.scan.ages } ∧
          t.acct = { s.acct with lastEnd := t.acct.lastEnd } ∧ SameBut [.phase, .scan, .acct] s t) ∧
        (s.store.ready = true → ∃ w u : State, t = u.runRound ∧ w.line = .released ∧ w.clock = now ∧
          exec (.scanTrigger τ .tick) w = .next u ∧ (s.PlanStays u →
          w.scan = { s.scan with ages := u.scan.ages } ∧ w.store = s.store ∧
          (u.phase.phase.active = true →
            u.test.minute = (if s.test.minute + 1 < 60 then s.test.minute + 1 else 0) ∧
            ∀ i, u.test.counters.get i = if s.test.minute + 1 < 60 then s.test.counters.get i
              else s.test.counters.get i - 1) ∧
          (u.phase.phase.active = false → u.test.minute = s.test.minute) ∧
          SameBut [.phase, .ports, .gate, .scan, .acct, .sched, .test, .ev, .path] s u)))

/-- R69, R71 and R72 at a period end in READY: every port's deficit falls by the charge its feed delivers or rises
by its terminal's own drain, within 0 to C; 60 tapered periods make it 0; urgency and queue key follow; a port that
is not populated keeps its zeros, and a changed deficit is marked (R43). R72 and R85: each populated port at its
join level sends a notice, which gives an IDLE port of a permitted class outside the running round's open slots its
entry with the new U and key; every other entry stands as before the period end, or is gone by a phase entry. Said
where no entry to CUTOFF applies a pending bank switch (`PlanStays`, log 25). -/
def Obligations.PeriodEndMovesDeficits : Prop :=
  ∀ (τ : Nat) (s : State), s.line = .released → s.store.ready = true →
    s.acct.lastEnd + Config.sec ≤ max s.clock τ →
    ∃ u : State, exec (.accountingPeriodEnd τ) s = .next u.runRound ∧ (s.PlanStays u → ∀ p,
      let x := s.port p
      let y := u.port p
      let pol := s.policy p
      let i := s.current p
      let d := match x.status with
        | .run => pol.run
        | .low => pol.run
        | .sleep => pol.sleep
        | .absent => 0
      let taper := if x.action = .feeding ∧ i ≤ d + pol.taper then x.taper + 1 else 0
      (x.action = .off →
        y.deficit = x.deficit ∧ y.u = x.u ∧ y.key = x.key ∧ y.taper = x.taper) ∧
      (x.action ≠ .off →
        y.deficit = (if 60 ≤ taper then 0
          else if s.phase.phase = .mains then x.deficit
          else if x.action = .feeding then min pol.cap (x.deficit - (i - d) * pol.eff / 16)
          else min pol.cap (x.deficit + d)) ∧
        y.taper = (if 60 ≤ taper then 0 else taper) ∧
        y.u = y.deficit * 1024 / pol.cap ∧
        y.key = y.u + (match pol.cls with
          | 0 => 512
          | 1 => 256
          | _ => 0) ∧
        (y.deficit ≠ x.deficit → s.canMark = true → u.path.dirty.get p = true)) ∧
      y.feedSecs = (if x.action = .feeding then min max32 (x.feedSecs + 1) else x.feedSecs) ∧
      y.trips = x.trips ∧ y.status = x.status ∧
      let noticed := y.action ≠ .off ∧ pol.join ≤ y.u
      let admitted := y.action = .idle ∧ u.permitted p = true ∧ u.scan.latch = false ∧ u.openSlot p = none
      (noticed → admitted → ∀ e : QueueEntry, e.port = p →
        (e ∈ u.sched.queue ↔ e.u = y.u ∧ e.key = y.key)) ∧
      (¬(noticed ∧ admitted) → ∀ e : QueueEntry, e.port = p →
        (e ∈ u.sched.queue → e ∈ s.sched.queue) ∧
        (u.phase.phase = s.phase.phase → e ∈ s.sched.queue → e ∈ u.sched.queue)))

/-- R75, R77, R78, R79 and R80 at a period end in READY that makes no UNDERVOLTAGE entry: Q falls by the battery
current except in MAINS, the load sample moves F16 by a 2^k share, the switch-on count starts again and the hold
signal is recomputed. Said where no entry to CUTOFF applies a pending bank switch (`PlanStays`, log 25). -/
def Obligations.PeriodEndMovesChargeAndLoad : Prop :=
  ∀ (τ : Nat) (s : State), s.line = .released → s.store.ready = true →
    s.acct.lastEnd + Config.sec ≤ max s.clock τ →
    s.phase.phase.active = false ∨ (s.busFloor : Int) ≤ s.value 48 ∨ s.phase.uv + 1 < 5 →
    let q := (max 0 (min (s.acct.cap : Int) (s.acct.q - s.value 49))).toNat
    let sample := (allPorts.map fun p =>
        if (s.port p).action = .feeding ∨ (s.port p).action = .waking then s.current p else 0).sum
      + s.header.inrush * s.acct.count + (if s.test.run = none then 0 else s.header.testWeight)
    let f16 := ((s.acct.f16 : Int) + ((sample : Int) * 16 - s.acct.f16).tdiv (2 ^ s.header.k)).toNat
    let limit := if s.scan.thermal = .hot then s.header.thermal else s.header.budget
    ∃ u : State, exec (.accountingPeriodEnd τ) s = .next u.runRound ∧ (s.PlanStays u →
      u.acct = { s.acct with
        q := if s.phase.phase = .mains then s.acct.q else q
        level := if s.phase.phase = .mains then s.acct.level else q * 100 / s.acct.cap
        f16 := f16, count := 0, hold := decide (limit ≤ f16 / 16)
        lastEnd := s.acct.lastEnd + Config.sec })

/-- R6, R7 and R76: the undervoltage test, then the level test (that order is log 12) of a period end in READY, on
the level after this period's Q; UNDERVOLTAGE lowers Q to the charge of the cut-off level, and L with it. In MAINS,
CUTOFF and RESTORE neither acts. An entry raises PHASE with its cause and the level L it leaves, before the alarm
rules' events. R8, R9, R103: an entry to CUTOFF ends all feeds, wakes and tests; an entry to RESERVE takes the ports
of class 1 and 2 out of the queue, out of the open slots of the running round and out of their wakes, and leaves
their feeds. R147: an entry to CUTOFF applies a pending bank switch where no load runs (log 25); else the store
stays. -/
def Obligations.PeriodEndTestsLevelAndVoltage : Prop :=
  ∀ (τ : Nat) (s : State), s.line = .released → s.store.ready = true →
    s.acct.lastEnd + Config.sec ≤ max s.clock τ →
    let q := (max 0 (min (s.acct.cap : Int) (s.acct.q - s.value 49))).toNat
    let level := q * 100 / s.acct.cap
    let uv := if s.value 48 < (s.busFloor : Int) then s.phase.uv + 1 else 0
    ∃ u : State, exec (.accountingPeriodEnd τ) s = .next u.runRound ∧
      (s.phase.phase.active = false →
        u.phase.phase = s.phase.phase ∧ u.phase.uv = s.phase.uv) ∧
      (s.phase.phase.active = true → u.acct.level = u.acct.q * 100 / s.acct.cap ∧
        (5 ≤ uv → u.phase.phase = .cutoff ∧ u.phase.uv = 0 ∧
          u.acct.q = min q (s.acct.cap * s.header.cutoff / 100)) ∧
        (uv < 5 → level < s.header.cutoff →
          u.phase.phase = .cutoff ∧ u.phase.uv = 0 ∧ u.acct.q = q) ∧
        (uv < 5 → s.header.cutoff ≤ level → s.phase.phase = .outage → level < s.header.reserve →
          u.phase.phase = .reserve ∧ u.phase.uv = 0 ∧ u.acct.q = q) ∧
        (uv < 5 → s.header.cutoff ≤ level → s.phase.phase = .outage → s.header.reserve ≤ level →
          u.phase.phase = .outage ∧ u.phase.uv = uv) ∧
        (uv < 5 → s.header.cutoff ≤ level → s.phase.phase = .reserve →
          u.phase.phase = .reserve ∧ u.phase.uv = uv)) ∧
      (u.phase.phase ≠ s.phase.phase → s.PlanStays u →
        ∃ v w : State, QueueAndMarks s { s with path := w.path } ∧
          Raised .phase noSubject u.acct.level
            (if 5 ≤ uv then PhaseCause.undervoltage.code else PhaseCause.level.code) s.store.plan.tag v
            { u with ev := w.ev, path := w.path } ∧
          (s.test.run = none ∨ u.phase.phase = .reserve → v.path.ownq = s.path.ownq ∧ v.ev = s.ev) ∧
          w.path.ownq <+: u.path.ownq ∧
          (s.header.alarmN = 0 → u.ev = w.ev ∧ u.path.ownq = w.path.ownq)) ∧
      (u.phase.phase = .cutoff → s.phase.phase.active = true →
        u.sched.queue = [] ∧ u.gate.waiting = [] ∧ u.sched.timer = none ∧ u.test.run = none ∧
        ∀ p, (u.port p).action ≠ .feeding ∧ (u.port p).action ≠ .waking) ∧
      (u.phase.phase = .reserve → s.phase.phase = .outage → ∀ p, (s.policy p).cls ≠ 0 →
        u.queued p = false ∧
        (∀ i, s.openSlot p = some i → (u.sched.slots.get i).outcome = some .phase) ∧
        ((s.port p).action = .waking → s.openSlot p = none →
          (u.port p).action = .idle ∧ (u.port p).switch = false ∧
          (u.port p).attempts = (s.port p).attempts ∧ ∀ r ∈ u.gate.waiting, r.port ≠ p) ∧
        ((s.port p).action = .feeding → s.openSlot p = none → (u.port p).action = .feeding)) ∧
      (∀ target, s.store.target = some target → u.phase.phase = .cutoff → s.phase.phase.active = true →
        s.store.load = none → ∃ v w : State, v.store = s.store ∧ v.phase.phase = .cutoff ∧
          v.path.inst = s.path.inst ∧ v.path.txn = s.path.txn ∧ v.populated = s.populated ∧
          State.SwitchApplied target v w ∧ u.store = w.store ∧ u.header = w.header) ∧
      (s.PlanStays u → u.store = s.store) ∧
      u.phase.mains = s.phase.mains ∧ u.phase.qual = s.phase.qual ∧
      u.phase.startLevel = s.phase.startLevel

/-- R126: the four relations on 16-bit patterns, with the examples the rule gives. -/
def Obligations.AlarmRelationsCompareBitPatterns : Prop :=
  (∀ (r : AlarmRule) (v : Int), r.relation ≤ 3 → r.code ≤ 7 → r.const < 65536 →
    -32768 ≤ v → v ≤ 65535 →
    let q := BitVec.ofInt 16 v
    let c := BitVec.ofNat 16 r.const
    (r.holds v = true ↔ match r.relation with
      | 0 => q.toInt < c.toInt
      | 1 => q.toNat < c.toNat
      | 2 => q ≠ c
      | _ => if r.code = 2 ∨ r.code = 4 then c.toInt ≤ q.toInt else c.toNat ≤ q.toNat)) ∧
  (∀ (port tag : Nat) (v : Int),
    (AlarmRule.mk 4 1 port 0 tag).holds v = false ∧
    (AlarmRule.mk 1 0 port 100 tag).holds 40000 = true ∧
    (-80 ≤ v → v ≤ 250 → ((AlarmRule.mk 2 0 port 0 tag).holds v = true ↔ v < 0)) ∧
    (-32768 ≤ v → v ≤ 32767 → ((AlarmRule.mk 4 3 port 2000 tag).holds v = true ↔ 2000 ≤ v)) ∧
    (-32768 ≤ v → v ≤ 32767 → ((AlarmRule.mk 4 0 port 65036 tag).holds v = true ↔ v < -500)))

/-- R127: a rule fires when its relation becomes true with its edge state false, and the edge state follows the
relation; the rules are taken in ascending order. -/
def Obligations.AlarmRuleFiresOnRisingEdge : Prop :=
  (∀ (s : State) (i : Fin 16), i.val < s.header.alarmN →
    let r := s.store.plan.alarm i
    let v := s.quantity r
    let t := s.evalRule i
    t.ev.edges = s.ev.edges.set i (r.holds v) ∧ SameBut [.ev, .path] s t ∧
    t.path = { s.path with ownq := t.path.ownq } ∧
    (r.holds v = true → s.ev.edges.get i = false →
      Raised .alarm i.val v r.code r.tag { s with ev := { s.ev with edges := t.ev.edges } } t) ∧
    (r.holds v = false ∨ s.ev.edges.get i = true →
      t = { s with ev := { s.ev with edges := t.ev.edges } })) ∧
  (∀ s : State, s.evalAlarms = (List.finRange 16).foldl State.evalRule s) ∧
  EventKind.alarm.attention = true

/-- R125 and R127: at a period end in READY every rule of the plan in use is evaluated on the quantities as the
period leaves them, a rule that fires makes ALARM the last event kind, and no other rule's edge state moves. Said
where no entry to CUTOFF applies a pending bank switch (`PlanStays`, log 25). -/
def Obligations.PeriodEndEvaluatesAlarmRules : Prop :=
  ∀ (τ : Nat) (s : State), s.line = .released → s.store.ready = true →
    s.acct.lastEnd + Config.sec ≤ max s.clock τ →
    ∃ u : State, exec (.accountingPeriodEnd τ) s = .next u.runRound ∧ (s.PlanStays u →
      (∀ i, u.ev.edges.get i =
        if i.val < s.header.alarmN then (s.store.plan.alarm i).holds (u.quantity (s.store.plan.alarm i))
        else s.ev.edges.get i) ∧
      ((∃ i, s.ev.edges.get i = false ∧ u.ev.edges.get i = true) → u.ev.lastKind = some .alarm))

/-! ## Ports and the segment gate -/

/-- R23: a reading of a status line sets, keeps or discards the candidate and its debounce timer. -/
def Obligations.StatusReadingSetsCandidate : Prop :=
  ∀ (τ : Nat) (p : Fin 48) (reading : Option TermStatus) (s : State), s.line = .released →
    let now := max s.clock τ
    let x := s.port p
    ∃ t, exec (.terminalStatusReading τ p reading) s = .next t ∧ t.clock = now ∧
      t.port p = { x with cand := (t.port p).cand } ∧
      (reading = none → (t.port p).cand = none) ∧
      (∀ l, reading = some l →
        (l = x.status → (t.port p).cand = none) ∧
        (∀ since, l ≠ x.status → x.cand = some (l, since) → (t.port p).cand = some (l, since)) ∧
        (l ≠ x.status → (∀ since, x.cand ≠ some (l, since)) → (t.port p).cand = some (l, now))) ∧
      OtherPorts p s t ∧ SameBut [.ports] s t

/-- R23 and R24: 200 ms after its start the candidate becomes the status. The LOW resync (R70) and TERMINAL_LOW in
an outage phase, the answer of a wake (R30) and the absence timer of a feed (R25) follow; a port that is OFF only
takes the status. A command before the 200 ms have passed changes nothing (log 4). In LOADING after a warm reset,
where no plan is in use, R70 makes the resync at once and R83 keeps U until READY: that it is made at once, with the
C kept from the last plan, is the model's choice of log 10. -/
def Obligations.DebouncedStatusTakesEffect : Prop :=
  ∀ (τ : Nat) (p : Fin 48) (level : TermStatus) (since : Nat) (s : State), s.line = .released →
    (s.port p).cand = some (level, since) →
    let now := max s.clock τ
    let x := s.port p
    let cap := if s.store.plan = .noPlan then x.cap else (s.policy p).cap
    (now < since + Config.debounceTime →
      ∃ t, exec (.statusDebounceExpiry τ p) s = .next t ∧ SameBut [] s t) ∧
    (since + Config.debounceTime ≤ now → x.action = .off →
      ∃ t, exec (.statusDebounceExpiry τ p) s = .next t ∧
        t.port p = { x with status := level, cand := none } ∧
        OtherPorts p s t ∧ MarksOnly s t ∧ MarkSet p s t ∧ SameBut [.ports, .path] s t) ∧
    (since + Config.debounceTime ≤ now → x.action ≠ .off →
      ∃ u : State, exec (.statusDebounceExpiry τ p) s = .next u.runRound ∧ u.clock = now ∧
        (u.port p).status = level ∧ (u.port p).cand = none ∧ u.phase = s.phase ∧
        (level = .low → s.phase.phase ≠ .mains →
          (u.port p).deficit = max x.deficit (7 * cap / 8) ∧
          (u.port p).u = (u.port p).deficit * 1024 / cap ∧
          (x.action ≠ .testing →
            Raised .terminalLow p.val (u.port p).u 0 s.store.plan.tag s u)) ∧
        (level ≠ .low ∨ s.phase.phase = .mains → (u.port p).deficit = x.deficit ∧
          (x.action ≠ .testing → u.ev = s.ev ∧ MarksOnly s u)) ∧
        (x.action = .idle ∨ x.action = .tripped ∨ x.action = .barred →
          u.port p = { x with status := level, cand := none, deficit := (u.port p).deficit,
                              u := (u.port p).u, key := (u.port p).key } ∧ u.gate = s.gate) ∧
        (x.action = .waking → level = .run →
          (u.port p).action = .idle ∧ (u.port p).switch = false ∧ (u.port p).step = none ∧
          (u.port p).pulse = none ∧ (u.port p).answer = none ∧ (u.port p).retry = none ∧
          (u.port p).attempts = x.attempts ∧
          u.gate = { s.gate with waiting := s.gate.waiting.filter fun r => r.port ≠ p }) ∧
        (x.action = .waking → level ≠ .run →
          (u.port p).action = .waking ∧ (u.port p).step = x.step ∧ u.gate = s.gate) ∧
        (x.action = .feeding → (u.port p).action = .feeding ∧ (u.port p).switch = x.switch ∧
          (u.port p).absence = if level = .absent then some now else none) ∧
        OtherPorts p s u ∧
        (x.action ≠ .testing → MarkSet p s u ∧ SameBut [.ports, .gate, .ev, .path] s u))

/-- R25: 5 s after an ABSENT feed's timer started the feed ends and TERMINAL_LOST carries the last current; without
a running timer of a feed the command changes nothing (log 4). R29 and R115: 500 ms after its start a wake pulse, or
the pulse of a WAKE test, ends with the switch open and the answer window going on. -/
def Obligations.AbsenceAndPulseTimersExpire : Prop :=
  (∀ (τ : Nat) (p : Fin 48) (s : State), s.line = .released →
    let now := max s.clock τ
    let x := s.port p
    ∃ t, exec (.absenceTimerExpiry τ p) s = .next t ∧ t.clock = now ∧
      (∀ since, x.action = .feeding → x.absence = some since → since + Config.absenceTime ≤ now →
        t.port p = { x with action := .idle, switch := false, absence := none, fed := false } ∧
        OtherPorts p s t ∧ QueueAndMarks s t ∧ MarkSet p s t ∧
        Raised .terminalLost p.val (s.current p) 0 s.store.plan.tag s t ∧
        SameBut [.ports, .ev, .path] s t) ∧
      (x.action ≠ .feeding ∨ x.absence = none ∨
          (∃ since, x.absence = some since ∧ now < since + Config.absenceTime) → SameBut [] s t)) ∧
  ∀ (τ since : Nat) (s : State), s.line = .released → since + Config.pulseTime ≤ max s.clock τ →
    (∀ p : Fin 48, (s.port p).action = .waking → (s.port p).pulse = some since →
      ∃ t, exec (.pulseTimerExpiry τ p) s = .next t ∧ t.clock = max s.clock τ ∧
        t.port p = { s.port p with switch := false, step := some .answer, pulse := none } ∧
        OtherPorts p s t ∧ SameBut [.ports] s t) ∧
    (∀ run, s.test.run = some run → run.kind = .wake → run.pulse = some since →
      ∃ t, exec (.testPulseEnd τ) s = .next t ∧ t.clock = max s.clock τ ∧
        t.port run.port = { s.port run.port with switch := false } ∧ OtherPorts run.port s t ∧
        t.test = { s.test with run := some { run with pulse := none } } ∧ SameBut [.ports, .test] s t)

/-- R33 and R34: a trip of a closed switch opens it, counts, raises PORT_TRIP with the count and the state left, and
sends the port to TRIPPED for 60 s, or at the third trip to BARRED with PORT_BARRED, cause TRIPS; a test on it ends
ABORTED by the trip with its elapsed seconds (R118), TEST_RESULT with cause TRIP coming last (log 35). A report for
an open switch is discarded. -/
def Obligations.TripOpensSwitchAndCounts : Prop :=
  ∀ (τ : Nat) (p : Fin 48) (s : State), s.line = .released →
    let now := max s.clock τ
    let x := s.port p
    let n := min 3 (x.trips + 1)
    let tripped := (EventKind.portTrip, p.val, (n : Int), x.action.code, s.store.plan.tag)
    let barred := (EventKind.portBarred, p.val, (n : Int), 2, s.store.plan.tag)
    let result (run : TestRun) :=
      (EventKind.testResult, p.val, (((now - run.attached) / Config.sec : Nat) : Int), 3,
        run.kind.code + 256 * if run.bySupervisor then 2 else 1)
    (x.switch = false → ∃ t, exec (.tripReport τ p) s = .next t ∧ SameBut [] s t) ∧
    (x.switch = true → (∀ run, x.action = .testing → s.test.run = some run → run.port = p) →
      ∃ u : State, exec (.tripReport τ p) s = .next u.runRound ∧ u.clock = now ∧
      (u.port p).switch = false ∧ (u.port p).trips = n ∧ (u.port p).attempts = x.attempts ∧
      (u.port p).step = none ∧ (u.port p).pulse = none ∧ (u.port p).answer = none ∧
      (u.port p).retry = none ∧ (u.port p).absence = none ∧ (u.port p).deficit = x.deficit ∧
      (n < 3 → (u.port p).action = .tripped ∧ (u.port p).coolOff = some now) ∧
      (n = 3 → (u.port p).action = .barred ∧ (u.port p).coolOff = none) ∧
      u.gate = { s.gate with waiting := s.gate.waiting.filter fun r => r.port ≠ p } ∧
      (x.action ≠ .testing →
        RaisedEach (if n < 3 then [tripped] else [tripped, barred]) s u ∧
        OtherPorts p s u ∧ QueueAndMarks s u ∧ MarkSet p s u ∧ u.test = s.test) ∧
      (∀ run, x.action = .testing → s.test.run = some run →
        u.test.run = none ∧ OtherPorts p s u ∧ u.test.last =
          some { kind := run.kind, port := p, bySupervisor := run.bySupervisor,
                 result := .aborted .trip, value := (now - run.attached) / Config.sec, span := none } ∧
        (u.port p).lastTest = some { kind := run.kind, result := .aborted .trip,
                                     value := (now - run.attached) / Config.sec } ∧
        QueueAndMarks s u ∧ MarkSet p s u ∧
        RaisedEach (if n < 3 then [tripped, result run] else [tripped, barred, result run]) s u) ∧
      SameBut [.ports, .gate, .test, .ev, .path] s u)

/-- R35 and R36: a cool-off of 60 s ends in IDLE with the trip count kept; a bar clear of a BARRED port ends in IDLE
with trips and attempts 0. Elsewhere neither moves a port; a cool-off expiry sent early or for a port without a
timer changes nothing (log 4). The row's touch, and its standing beside an open write burst, are the model's choice
of log 8 over R111. -/
def Obligations.CoolOffAndBarClearEndInIdle : Prop :=
  ∀ (τ : Nat) (s : State), s.line = .released →
    let now := max s.clock τ
    (∀ p : Fin 48, ∃ t, exec (.coolOffExpiry τ p) s = .next t ∧ t.clock = now ∧
      (∀ since, (s.port p).action = .tripped → (s.port p).coolOff = some since →
        since + Config.coolOffTime ≤ now →
        t.port p = { s.port p with action := .idle, coolOff := none } ∧ OtherPorts p s t ∧
        MarksOnly s t ∧ MarkSet p s t ∧ SameBut [.ports, .path] s t) ∧
      ((s.port p).action ≠ .tripped ∨ (s.port p).coolOff = none ∨
          (∃ since, (s.port p).coolOff = some since ∧ now < since + Config.coolOffTime) →
        SameBut [] s t)) ∧
    ∀ v : Byte, s.takesLive = true → ∃ t, exec (.barClear τ v) s = .next t ∧ t.clock = now ∧
      t.test = { s.test with lapse := s.lapseAfter now } ∧ SameBut [.ports, .test, .path] s t ∧
      (∀ p : Fin 48, p.val = v.toNat → (s.port p).action = .barred →
        t.port p = { s.port p with action := .idle, trips := 0, attempts := 0 } ∧ OtherPorts p s t ∧
        MarksOnly { s with path := s.pathTouched } t ∧ MarkSet p s t) ∧
      (48 ≤ v.toNat ∨ (∃ p : Fin 48, p.val = v.toNat ∧ (s.port p).action ≠ .barred) →
        t.ports = s.ports ∧ t.path = s.pathTouched)

/-- R31 and R32: the three outcomes of an unanswered pulse, by the attempts made and the phase; and at the end of
the 30 s a retry deferred while the hold is on, else its request at the gate with this moment as its age (the latch
withdraws it, R42). A period end in READY that leaves the phase and finds the hold off requests the retry of a
DEFERRED port, and with the hold on leaves it DEFERRED. R17: a retry is requested in OUTAGE for every class and in
RESERVE for class 0 only. Where it may not be requested then, the wake ends without failure, as R31 says of the answer
timer's expiry: the model's choice of log 48, as is that the hold is asked first. The period end's clause is said
where no entry to CUTOFF applies a pending bank switch (`PlanStays`, log 25). -/
def Obligations.UnansweredWakeRetriesOrBars : Prop :=
  ∀ (τ since : Nat) (p : Fin 48) (s : State), s.line = .released → (s.port p).action = .waking →
    let now := max s.clock τ
    let x := s.port p
    let may := s.phase.phase = .outage ∨ s.phase.phase = .reserve ∧ (s.policy p).cls = 0
    let ended := { x.clearTimers with action := .idle, switch := false }
    (x.answer = some since → since + Config.answerTime ≤ now →
      ∃ t, exec (.answerTimerExpiry τ p) s = .next t ∧ t.clock = now ∧
        (t.port p).switch = false ∧ (t.port p).attempts = x.attempts ∧ (t.port p).trips = x.trips ∧
        (t.port p).pulse = none ∧ (t.port p).answer = none ∧ OtherPorts p s t ∧
        (x.attempts < 1 + (s.policy p).retries → may →
          (t.port p).action = .waking ∧ (t.port p).step = some .retryWait ∧
          (t.port p).retry = some now ∧ SameBut [.ports] s t) ∧
        (x.attempts < 1 + (s.policy p).retries → ¬may → t.port p = ended ∧
          t.gate = { s.gate with waiting := s.gate.waiting.filter fun r => r.port ≠ p } ∧
          MarksOnly s t ∧ MarkSet p s t ∧ SameBut [.ports, .gate, .path] s t) ∧
        (1 + (s.policy p).retries ≤ x.attempts →
          (t.port p).action = .barred ∧ (t.port p).step = none ∧ (t.port p).retry = none ∧
          t.ev.lastKind = some .portBarred ∧ QueueAndMarks s t ∧ MarkSet p s t ∧
          (∃ mid : State, mid.path = { s.path with ownq := mid.path.ownq } ∧
            Raised .wakeFailed p.val x.attempts 0 s.store.plan.tag s
              { t with ev := mid.ev, path := mid.path } ∧
            Raised .portBarred p.val x.trips 1 s.store.plan.tag mid t) ∧
          SameBut [.ports, .ev, .path] s t)) ∧
    (x.retry = some since → since + Config.retryTime ≤ now →
      ∃ t, exec (.retryTimerExpiry τ p) s = .next t ∧ t.clock = now ∧ OtherPorts p s t ∧
        (s.acct.hold = true →
          t.port p = { x with step := some .deferred, retry := none } ∧ SameBut [.ports] s t) ∧
        (s.acct.hold = false → may →
          t.port p = { x with step := some .queued, retry := none } ∧
          t.gate = { s.gate with waiting := if s.gateClosed then s.gate.waiting
            else s.gate.waiting ++ [{ port := p, kind := .retry, placed := now }] } ∧
          SameBut [.ports, .gate] s t) ∧
        (s.acct.hold = false → ¬may → t.port p = ended ∧
          t.gate = { s.gate with waiting := s.gate.waiting.filter fun r => r.port ≠ p } ∧
          MarksOnly s t ∧ MarkSet p s t ∧ SameBut [.ports, .gate, .path] s t)) ∧
    (x.step = some .deferred → s.store.ready = true → s.acct.lastEnd + Config.sec ≤ now →
      ∃ u : State, exec (.accountingPeriodEnd τ) s = .next u.runRound ∧ u.clock = now ∧
        (s.PlanStays u → u.phase.phase = s.phase.phase →
          (u.acct.hold = true → (u.port p).action = .waking ∧ (u.port p).step = some .deferred) ∧
          (u.acct.hold = false → may →
            (u.port p).action = .waking ∧ (u.port p).step = some .queued ∧
            (s.gateClosed = false → { port := p, kind := .retry, placed := now } ∈ u.gate.waiting)) ∧
          (u.acct.hold = false → ¬may →
            (u.port p).action = .idle ∧ (u.port p).step = none ∧ (u.port p).switch = false ∧
            (u.port p).attempts = x.attempts ∧ ∀ r ∈ u.gate.waiting, r.port ≠ p)))

/-- R39 and R40: a request can be granted when its segment's spacing, the bus spacing and its segment's window allow
it; with a history of at most four rising start times the window allows it exactly when there are fewer than four,
or the oldest is at least one window old. R40 and R98: the slot request at the gate that becomes the head of its
segment while the window is full is dropped, its slot resolved WINDOW_FULL, its port left as it is; one whose window
is not full then is not dropped later, nor one that is not the head. -/
def Obligations.GateGrantsUnderThreeLimits : Prop :=
  (∀ (r : Request) (g : Fin 8) (s : State), r.kind = .slot → s.segOf r.port = some g →
    s.gate.waiting.filter (fun q => q.kind = .slot) = [r] →
    let head := ∀ q ∈ s.gate.waiting, s.segOf q.port = some g → r.placed ≤ q.placed
    let full := 4 ≤ (s.gate.hist.get g).countP fun t => s.clock < t + s.header.window * Config.sec
    let t := s.checkHead
    (r.headed = false → head → full →
      t.gate = { s.gate with waiting := s.gate.waiting.filter fun q => q.port ≠ r.port } ∧
      (∀ i, s.openSlot r.port = some i → t.sched = { s.sched with
        slots := s.sched.slots.set i { s.sched.slots.get i with outcome := some .windowFull } }) ∧
      SameBut [.gate, .sched] s t) ∧
    (r.headed = false → head → ¬full →
      t.gate = { s.gate with
        waiting := s.gate.waiting.map fun q => if q = r then { q with headed := true } else q } ∧
      SameBut [.gate] s t) ∧
    (r.headed = true ∨ ¬head → t = s)) ∧
  ∀ (r : Request) (g : Fin 8) (s : State), s.segOf r.port = some g →
    (s.gate.hist.get g).length ≤ 4 → (s.gate.hist.get g).Pairwise (· ≤ ·) →
    (s.grantable r = true ↔
      (∀ last, (s.gate.hist.get g).getLast? = some last →
        last + s.header.spacing * 100 * Config.ms ≤ s.clock) ∧
      (∀ last, s.gate.last = some last → last + 50 * Config.ms ≤ s.clock) ∧
      ((s.gate.hist.get g).length < 4 ∨
        ∃ first, (s.gate.hist.get g).head? = some first ∧
          first + s.header.window * Config.sec ≤ s.clock))

/-- R40, R41, R27 and R29: the gate grants the oldest request that meets the limits. The start time joins the
segment's history of four, the bus is taken, the switch-on is counted and the slot is ISSUED; its feed or its first
wake pulse begins in the same step. -/
def Obligations.GrantStartsSlotWork : Prop :=
  ∀ (τ : Nat) (r : Request) (i : Fin 4) (g : Fin 8) (s : State), s.line = .released →
    let now := max s.clock τ
    r ∈ s.gate.waiting → State.grantable { s with clock := now } r = true →
    (∀ q ∈ s.gate.waiting, q ≠ r → State.grantable { s with clock := now } q = true →
      r.before q = true) →
    r.kind = .slot → s.openSlot r.port = some i → (s.port r.port).action = .idle →
    s.segOf r.port = some g →
    let x := s.port r.port
    let wake := (s.sched.slots.get i).action = .wake
    ∃ u : State, exec (.gateGrant τ) s = .next u.runRound ∧ u.clock = now ∧
      u.gate = { waiting := s.gate.waiting.filter fun q => q.port ≠ r.port
                 hist := s.gate.hist.set g ((s.gate.hist.get g ++ [now]).drop
                   ((s.gate.hist.get g).length - 3))
                 last := some now } ∧
      u.acct = { s.acct with count := s.acct.count + 1 } ∧
      u.sched = { s.sched with
        slots := s.sched.slots.set i { s.sched.slots.get i with outcome := some .issued } } ∧
      (¬wake → u.port r.port = { x with
        action := .feeding, switch := true, fed := false
        absence := if x.status = .absent then some now else none }) ∧
      (wake → x.status ≠ .run → u.port r.port = { x.clearTimers with
        action := .waking, switch := true, step := some .pulse, attempts := 1
        pulse := some now, answer := some now }) ∧
      (wake → x.status = .run → u.port r.port = { x.clearTimers with
        action := .idle, switch := false, attempts := 1 }) ∧
      OtherPorts r.port s u ∧ MarksOnly s u ∧ MarkSet r.port s u ∧
      SameBut [.ports, .gate, .acct, .sched, .path] s u

/-- R41, R29 and R37: the grant of a wake's retry starts its next pulse; that of a test pulse closes the switch of
the port under a WAKE test and starts the timing of its answer. Where the grant finds the status RUN, the wake ends
answered (R29, R30) and the WAKE test ends PASS with value 0 (R115, R117). -/
def Obligations.GrantStartsRetryOrTestPulse : Prop :=
  ∀ (τ : Nat) (r : Request) (g : Fin 8) (s : State), s.line = .released →
    let now := max s.clock τ
    r ∈ s.gate.waiting → State.grantable { s with clock := now } r = true →
    (∀ q ∈ s.gate.waiting, q ≠ r → State.grantable { s with clock := now } q = true →
      r.before q = true) →
    s.segOf r.port = some g →
    let x := s.port r.port
    let gate : Gate :=
      { waiting := s.gate.waiting.filter fun q => q.port ≠ r.port
        hist := s.gate.hist.set g ((s.gate.hist.get g ++ [now]).drop
          ((s.gate.hist.get g).length - 3))
        last := some now }
    let acct := { s.acct with count := s.acct.count + 1 }
    let after (u : State) := u.gate = gate ∧ u.acct = acct ∧ OtherPorts r.port s u ∧ u.clock = now
    (r.kind = .retry → x.action = .waking →
      ∃ u : State, exec (.gateGrant τ) s = .next u.runRound ∧ after u ∧
        u.port r.port = (if x.status = .run then { x.clearTimers with
            action := .idle, switch := false, attempts := x.attempts + 1 }
          else { x.clearTimers with
            action := .waking, switch := true, step := some .pulse, attempts := x.attempts + 1
            pulse := some now, answer := some now }) ∧
        MarksOnly s u ∧ MarkSet r.port s u ∧ SameBut [.ports, .gate, .acct, .path] s u) ∧
    (∀ run, r.kind = .pulse → x.action = .testing → s.test.run = some run → run.port = r.port →
      ∃ u : State, exec (.gateGrant τ) s = .next u.runRound ∧ after u ∧
        (x.status ≠ .run →
          u.port r.port = { x with switch := true } ∧
          u.test = { s.test with run := some { run with pulse := some now, granted := some now } } ∧
          SameBut [.ports, .gate, .acct, .test] s u) ∧
        (x.status = .run → TestEnded run .pass 0 none { s with gate := gate, acct := acct } u))

/-! ## The measurement scanner -/

/-- R46, R47, R54 and R60: a conversion of 2 ms that completes keeps its saturated, for a temperature corrected,
reading with age 0; its result is logged, held or not wanted, and the sweep goes on. That of a temperature sensor
does all this too, before its thermal evaluation, whose events come after the record; what a bank switch that an
entry to CRITICAL applies does is said by `ThermalStateFollowsTable`. A failed one keeps value and age, makes no
record, and the sweep goes on alike. -/
def Obligations.ConversionKeepsReading : Prop :=
  ∀ (τ t0 : Nat) (raw : Int) (s : State), s.line = .released → s.scan.conv = some t0 →
    t0 + 2 * Config.ms ≤ max s.clock τ →
    let now := max s.clock τ
    let c := s.scan.pos
    let clamp (lo hi v : Int) := max lo (min hi v)
    let v := if c.val < 48 then clamp 0 4095 raw else if c.val = 48 then clamp 0 6553 raw
      else if c.val = 49 then clamp (-32768) 32767 raw
      else clamp (-80) 250
        (clamp (-80) 250 raw + s.thermalCfg.offsets.get (Fin.ofNat 4 (c.val - 50)))
    let logs := s.scan.startUp = false ∧ s.header.logging = true ∧ s.region .meas ≠ none
    let m : Meas := { channel := c, value := v, time := now / Config.sec % 4294967296 }
    (∃ u : State, exec (.conversionComplete τ raw) s = .next u.runRound ∧ u.clock = now ∧
      u.value c = v ∧ u.scan.ages.get c = 0 ∧
      (∀ d, d ≠ c → u.value d = s.value d ∧ u.scan.ages.get d = s.scan.ages.get d) ∧
      (c.val < 50 ∨ s.store.target = none ∨ s.store.load ≠ none →
        (¬logs → s.SweepGoesOn now u.scan ∧ s.path.ownq <+: u.path.ownq) ∧
        (logs → s.path.ownq.length < 16 → s.SweepGoesOn now u.scan ∧
          s.path.ownq ++ [{ item := .meas m }] <+: u.path.ownq) ∧
        (logs → 16 ≤ s.path.ownq.length → u.scan.state = .paused ∧ u.scan.held = some m ∧
          u.scan.conv = none ∧ u.scan.pos = c ∧ u.path.ownq = s.path.ownq)) ∧
      (c.val < 50 →
        u.scan.thermal = s.scan.thermal ∧ u.scan.latch = s.scan.latch ∧
        (¬logs ∨ 16 ≤ s.path.ownq.length → u.path.ownq = s.path.ownq) ∧
        (logs → s.path.ownq.length < 16 → u.path.ownq = s.path.ownq ++ [{ item := .meas m }]) ∧
        QueueAndMarks s u ∧ SameBut [.scan, .path] s u)) ∧
    (∃ t, exec (.conversionFailed τ) s = .next t ∧ t.clock = now ∧
      t.scan.values = s.scan.values ∧ t.scan.ages = s.scan.ages ∧
      t.scan.thermal = s.scan.thermal ∧ t.scan.latch = s.scan.latch ∧
      s.SweepGoesOn now t.scan ∧ SameBut [.scan] s t)

/-- R61, R62 and R64: after a temperature conversion the thermal state follows the table on the highest of the four
values; entries to HOT and CRITICAL raise THERMAL with the lowest-numbered hottest sensor as subject, its value and
the code of the state entered (2 or 3) as cause, and an entry to CRITICAL sets the latch and leaves no feed, wake,
test, queue entry or waiting request, its THERMAL coming after the TEST_RESULT of a test it aborts (log 35). R64,
R147: that entry applies a pending bank switch where no load runs (log 25), before its THERMAL. -/
def Obligations.ThermalStateFollowsTable : Prop :=
  ∀ (τ t0 : Nat) (raw : Int) (s : State), s.line = .released → s.scan.conv = some t0 →
    t0 + 2 * Config.ms ≤ max s.clock τ → 50 ≤ s.scan.pos.val →
    let cfg := s.thermalCfg
    ∃ u : State, exec (.conversionComplete τ raw) s = .next u.runRound ∧
      let top := max (max (u.value 50) (u.value 51)) (max (u.value 52) (u.value 53))
      let new := match s.scan.thermal with
        | .critical => .critical
        | .normal => if cfg.critical ≤ top then .critical else if cfg.hot ≤ top then .hot
          else if cfg.warm ≤ top then .warm else .normal
        | .warm => if cfg.critical ≤ top then .critical else if cfg.hot ≤ top then .hot
          else if cfg.warm ≤ top then .warm else if top < cfg.warm - cfg.hyst then .normal else .warm
        | .hot => if cfg.critical ≤ top then .critical else if cfg.hot ≤ top then .hot
          else if top < cfg.hot - cfg.hyst then .warm else .hot
      u.scan.thermal = new ∧
      (new ≠ s.scan.thermal → new = .hot ∨ s.scan.thermal = .hot → u.acct.hold = u.holdNow) ∧
      (new ≠ s.scan.thermal → new = .hot ∨ new = .critical →
        u.ev.lastKind = some .thermal ∧
        ∃ (n : Fin 4) (v : State),
          u.value (Fin.ofNat 54 (50 + n.val)) = top ∧
          (∀ m : Fin 4, m < n → u.value (Fin.ofNat 54 (50 + m.val)) < top) ∧
          Raised .thermal n.val top (if new = .hot then 2 else 3) u.store.plan.tag v u ∧
          (s.test.run = none → s.store.target = none ∨ s.store.load ≠ none ∨ new = .hot →
            v.ev = s.ev ∧ s.path.ownq <+: v.path.ownq) ∧
          (∀ target, new = .critical → s.store.target = some target → s.store.ready = true →
            s.store.load = none → ∃ w : State, w.store = s.store ∧ w.sched.queue = [] ∧
              w.test.run = none ∧ State.SwitchApplied target w v ∧ u.store = v.store)) ∧
      (new ≠ s.scan.thermal → new = .critical →
        u.scan.latch = true ∧ u.sched.queue = [] ∧ u.sched.running = false ∧ u.sched.timer = none ∧
        u.gate.waiting = [] ∧ u.test.run = none ∧
        (∀ run, s.test.run = some run → ∃ last, u.test.last = some last ∧
          last.result = .aborted .thermal ∧ last.port = run.port) ∧
        ∀ p, (u.port p).action ≠ .feeding ∧ (u.port p).action ≠ .waking) ∧
      (new = s.scan.thermal → u.scan.latch = s.scan.latch ∧ u.ev = s.ev ∧ u.ports = s.ports ∧
        u.gate = s.gate ∧ u.sched = s.sched ∧ u.test = s.test) ∧
      (s.store.target = none ∨ s.store.load ≠ none ∨ new = s.scan.thermal ∨ new ≠ .critical → u.store = s.store) ∧
      SameBut [.ports, .gate, .scan, .acct, .sched, .test, .ev, .store, .path] s u

/-- R49 to R52: a trigger of a source that the plan selects, by mode and state; in LOADING, in the start-up sweep
and from a source not selected it has no effect. The supervisor's is a touch of the live window. R53: a stop
discards the conversion in progress or the held result and goes to IDLE, in STEP mode with the position at S; values
and ages stay. It has no effect in IDLE, in LOADING and in the start-up sweep. The touch of the two rows, and their
standing beside an open write burst, are the model's choice of log 8 over R111. -/
def Obligations.TriggersAndStopsMoveSweep : Prop :=
  (∀ (τ : Nat) (source : TrigSource) (s : State), s.line = .released →
    source ≠ .supervisor ∨ s.takesLive = true →
    let now := max s.clock τ
    let h := s.header
    let selected := match source with
      | .tick => h.trigTick
      | .round => h.trigRound
      | .supervisor => h.trigSup
    let starts (c : Fin 54) : Scan :=
      { s.scan with state := .sweeping, pos := c, conv := some now, held := none }
    ∃ t, exec (.scanTrigger τ source) s = .next t ∧ t.clock = now ∧
      t.scan = (if s.store.ready = false ∨ s.scan.startUp = true ∨ selected = false then s.scan
        else match h.mode, s.scan.state with
          | .oneShot, _ => starts h.first
          | .oneShotLocked, .idle => starts h.first
          | .continuous, .idle => starts h.first
          | .step, .idle => starts s.scan.pos
          | .step, .waiting => starts s.scan.pos
          | _, _ => s.scan) ∧
      (source = .supervisor → t.test = { s.test with lapse := s.lapseAfter now } ∧
        t.path = s.pathTouched) ∧
      (source ≠ .supervisor → t.test = s.test ∧ t.path = s.path) ∧
      SameBut [.scan, .test, .path] s t) ∧
  ∀ (τ : Nat) (s : State), s.line = .released → s.takesLive = true →
    let now := max s.clock τ
    ∃ t, exec (.scanStop τ) s = .next t ∧ t.clock = now ∧
      (s.store.ready = false ∨ s.scan.startUp = true ∨ s.scan.state = .idle → t.scan = s.scan) ∧
      (s.store.ready = true → s.scan.startUp = false → s.scan.state ≠ .idle →
        t.scan = { s.scan with state := .idle, conv := none, held := none, pos := t.scan.pos } ∧
        (s.header.mode = .step → t.scan.pos = s.header.first)) ∧
      t.test = { s.test with lapse := s.lapseAfter now } ∧ t.path = s.pathTouched ∧
      SameBut [.scan, .test, .path] s t

/-! ## Rounds -/

/-- R97, R98, R100 and R90: what follows when a slot of the running round has been resolved, the last act of every
command that can resolve one (`runRound`). Slots are issued in ascending order. The first unresolved one is DRY in a
round without feed enable, PORT_LEFT where its port is not IDLE; else its request goes to the gate and waits, or is
WINDOW_FULL where it becomes the head of its segment there with the window full (R40); a test start is handed to the
test unit and ISSUED at the attach. When a slot is resolved the next one is issued: the part goes on as from the
state with that slot resolved. While a slot request that has been a head waits, nothing more is done; a new head is
judged first (`GateGrantsUnderThreeLimits`). With no slot unresolved the round ends: its record keeps number,
actions, ports and outcomes, and a start that waits is then taken as at the timer's expiry
(`RoundTimerStartsRound`). -/
def Obligations.RunningRoundGoesOn : Prop :=
  ∀ s : State, s.line = .released →
    let slot (i : Fin 4) := s.sched.slots.get i
    let resolved (i : Fin 4) (o : SlotOutcome) : State :=
      { s with sched := { s.sched with slots := s.sched.slots.set i { slot i with outcome := some o } } }
    let ended : State := { s with sched := { s.sched with
      running := false
      record := { number := s.sched.number, slots := s.sched.slots.map fun x =>
        { action := x.action, port := x.port, outcome := x.outcome.getD .empty } } } }
    let waits (r : Request) : State := { s with gate := { s.gate with waiting := s.gate.waiting ++ [r] } }
    (s.sched.running = false → s.sched.startPending = false → s.runRound = s) ∧
    (∀ r, s.sched.running = true → s.gate.waiting.filter (fun q => q.kind = .slot) = [r] →
      s.runRound = s.checkHead.runRound ∧
      (∀ i, r.headed = true → s.openSlot r.port = some i → (∀ j, j < i → (slot j).outcome ≠ none) →
        s.runRound = s)) ∧
    (s.sched.running = true → (∀ r ∈ s.gate.waiting, r.kind ≠ .slot) →
      ((∀ i, (slot i).outcome ≠ none) →
        (s.sched.startPending = false → s.runRound = ended) ∧
        (s.sched.startPending = true → exec (.roundTimerExpiry s.clock) { ended with
          sched := { ended.sched with timer := some s.clock, startPending := false } } =
            .next s.runRound)) ∧
      ∀ (i : Fin 4) (p : Fin 48), (slot i).outcome = none → (slot i).port = some p →
        (∀ j, j < i → (slot j).outcome ≠ none) →
        (s.sched.dry = true → s.runRound = (resolved i .dry).runRound) ∧
        (s.sched.dry = false → (slot i).action ≠ .test → (s.port p).action ≠ .idle →
          s.runRound = (resolved i .portLeft).runRound) ∧
        (∀ g, s.sched.dry = false → (slot i).action ≠ .test → (s.port p).action = .idle →
          s.gateClosed = false → s.segOf p = some g → (∀ q ∈ s.gate.waiting, q.port ≠ p) →
          let head := ∀ q ∈ s.gate.waiting, s.segOf q.port = some g → s.clock ≤ q.placed
          let full := 4 ≤ (s.gate.hist.get g).countP fun t => s.clock < t + s.header.window * Config.sec
          (head → full → s.runRound = (resolved i .windowFull).runRound) ∧
          (head → ¬full →
            s.runRound = waits { port := p, kind := .slot, placed := s.clock, headed := true }) ∧
          (¬head → s.runRound = waits { port := p, kind := .slot, placed := s.clock })) ∧
        (∀ (r : Fin 16) (k : TestKind), s.sched.dry = false → (slot i).action = .test →
          (slot i).rota = some r → (s.store.plan.rota r).kind = some k → s.test.run = none →
          (match k with
            | .holdup => (s.port p).status = .run ∧
                ((s.port p).action = .idle ∨ (s.port p).action = .feeding ∧ (s.port p).fed = true)
            | .wake => (s.port p).action = .idle ∧ (s.port p).status = .sleep ∧ s.acct.hold = false
            | .draw => (s.port p).action = .feeding) →
          ∃ u : State, s.runRound = u.runRound ∧ u.clock = s.clock ∧
            u.test = { s.test with
              owner := .rota
              run := some { port := p, kind := k, bySupervisor := false
                            minutes := (s.store.plan.rota r).minutes, rota := some r, attached := s.clock } } ∧
            u.port p = { (s.port p).clearTimers with
              action := .testing, switch := decide (k = .draw) && (s.port p).switch, fed := false } ∧
            u.gate = { s.gate with waiting := s.gate.waiting ++
              (if k = .wake ∧ s.gateClosed = false then [{ port := p, kind := .pulse, placed := s.clock }]
                else []) } ∧
            u.sched = { s.sched with
              queue := s.sched.queue.filter fun e => e.port ≠ p
              slots := s.sched.slots.set i { slot i with outcome := some .issued } } ∧
            OtherPorts p s u ∧ MarksOnly s u ∧ MarkSet p s u ∧
            SameBut [.ports, .gate, .sched, .test, .path] s u))

/-- R90 to R97, R100, R105 and R107: the expiry of the round timer. A running round gets a pending start. With none
running a round starts: the number rises, the timer restarts, feeds that are done or may not run end; R81 and R94:
with F above the shed level the lowest of the other feeds ends too, of equal keys the one of the higher port, and no
feed besides. From there, `v`, the slots are filled (`FillRespectsFeedLimit`), the round goes on as
`RunningRoundGoesOn` says, and the scanner gets its round trigger in the same step (R49; log 32), which acts as
`TriggersAndStopsMoveSweep` says. A test in slot 0 is attached and ISSUED; the request of a feed start or wake there
is at the gate, or its window was full at once and it is WINDOW_FULL. With nothing to place the round ends there
with four EMPTY slots, and a dry round ends with every filled slot DRY, no request placed and no test started. R91
step 1, R147: with a bank switch pending and no load running (log 25), the switch is applied first (with the
scheduler's part of R92), and the round starts as it does from there. -/
def Obligations.RoundTimerStartsRound : Prop :=
  ∀ (τ due : Nat) (s : State), s.line = .released → s.sched.timer = some due → due ≤ max s.clock τ →
    let now := max s.clock τ
    let spent (p : Fin 48) := (s.port p).u ≤ (s.policy p).stop ∨ s.permitted p = false ∨
      s.condition p = false
    let stays (p : Fin 48) := (s.port p).action = .feeding ∧ ¬spent p
    let limit := if s.scan.thermal = .hot then s.header.thermal else s.header.budget
    let shed (p : Fin 48) := limit + limit / 4 < s.acct.f16 / 16 ∧ stays p ∧
      ∀ q, stays q → q ≠ p → (s.port p).key < (s.port q).key ∨
        (s.port p).key = (s.port q).key ∧ q.val < p.val
    (s.sched.running = true → ∃ t, exec (.roundTimerExpiry τ) s = .next t ∧ t.clock = now ∧
      t.sched = { s.sched with timer := none, startPending := true } ∧ SameBut [.sched] s t) ∧
    (∀ target, s.sched.running = false → s.store.target = some target → s.store.ready = true →
      s.store.load = none → ∃ u : State, State.SwitchApplied target { s with clock := now } u ∧
        exec (.roundTimerExpiry τ) s = exec (.roundTimerExpiry τ) u) ∧
    (s.sched.running = false → s.store.target = none ∨ s.store.load ≠ none →
      ∃ t, exec (.roundTimerExpiry τ) s = .next t ∧ t.clock = now ∧
        t.sched.number = (s.sched.number + 1) % 65536 ∧
        t.sched.timer = some (now + s.header.period * Config.sec) ∧
        t.sched.startPending = s.sched.startPending ∧
        (∀ p, (s.port p).action = .feeding → spent p ∨ shed p →
          (t.port p).action ≠ .feeding ∧ (t.port p).switch = false) ∧
        (s.header.rotaN = 0 → ∀ p,
          ((t.port p).action = .feeding ↔ stays p ∧ ¬shed p)) ∧
        (∀ p, s.header.feedEnable = true → s.gateClosed = false → (∀ r ∈ s.gate.waiting, r.kind ≠ .slot) →
          (∀ e ∈ s.sched.queue, (s.port e.port).action = .idle) →
          (t.sched.slots.get 0).port = some p →
          ((t.sched.slots.get 0).action = .test →
            (t.sched.slots.get 0).outcome = some .issued ∧ (t.port p).action = .testing ∧
            t.test.run.map (·.port) = some p) ∧
          ((t.sched.slots.get 0).action ≠ .test →
            (t.sched.slots.get 0).outcome = none ∧ t.sched.running = true ∧
                (∃ r ∈ t.gate.waiting, r.port = p ∧ r.kind = .slot ∧ r.placed = now) ∨
              (t.sched.slots.get 0).outcome = some .windowFull ∧ ∃ g, s.segOf p = some g ∧
                4 ≤ (s.gate.hist.get g).countP fun x => now < x + s.header.window * Config.sec)) ∧
        (s.sched.queue = [] → s.header.rotaN = 0 →
          t.sched.running = false ∧ t.gate = s.gate ∧ t.test = s.test ∧
          t.sched.record = { number := (s.sched.number + 1) % 65536, slots := Tab.fill 4 {} }) ∧
        (s.header.feedEnable = false → (∀ r ∈ s.gate.waiting, r.kind ≠ .slot) →
          t.sched.running = false ∧ t.gate = s.gate ∧ t.test = s.test ∧
          t.sched.record.number = (s.sched.number + 1) % 65536 ∧
          ∀ i, let x := t.sched.record.slots.get i
            x.outcome = if x.action = .none then .empty else .dry) ∧
        (s.sched.startPending = false → (∀ r ∈ s.gate.waiting, r.kind ≠ .slot) → ∃ v : State,
          exec (.scanTrigger τ .round) v.fillSlots.runRound = .next t ∧ v.clock = now ∧
          v.sched = { s.sched with
            number := (s.sched.number + 1) % 65536, running := true, slots := Tab.fill 4 {}
            timer := some (now + s.header.period * Config.sec), dry := !s.header.feedEnable } ∧
          (∀ p, ((s.port p).action = .feeding ∧ (spent p ∨ shed p) → v.port p = { s.port p with
              action := .idle, switch := false, absence := none, fed := false }) ∧
            (¬((s.port p).action = .feeding ∧ (spent p ∨ shed p)) → v.port p = s.port p)) ∧
          MarksOnly s v ∧ SameBut [.ports, .sched, .path] s v) ∧
        SameBut [.ports, .gate, .scan, .sched, .test, .path] s t)

/-- R95, R96, R112 and R120: the fill of four empty slots. Slot 0 takes the start of the first rota test that is due
and ready, exactly where the channel is free and has no owner, the thermal state is NORMAL, the phase is OUTAGE and
no queued class 0 port has a U of 896 or more; its port stands in no other slot. Then the queue is walked in its
order: with the hold off and the feed count (feeds, and feed starts placed before) below the limit, an entry whose
condition is true takes the lowest free slot of its kind, a wake in slots 0 and 1 for SLEEP and ABSENT, a feed start
in slots 0 to 3 for RUN and LOW; every other entry stays queued and stands in no slot. So feed starts never take the
feed count above the limit; a placed port has left the queue, and a slot without content is EMPTY. -/
def Obligations.FillRespectsFeedLimit : Prop :=
  ∀ s : State, s.sched.slots = Tab.fill 4 {} →
    let t := s.fillSlots
    let slot (i : Fin 4) := t.sched.slots.get i
    let ready (p : Fin 48) (k : TestKind) : Prop :=
      let x := s.port p
      match k with
      | .holdup => x.status = .run ∧ (x.action = .idle ∨ x.action = .feeding ∧ x.fed = true)
      | .wake => x.action = .idle ∧ x.status = .sleep ∧ s.acct.hold = false
      | .draw => x.action = .feeding
    let due (j : Fin 16) (p : Fin 48) : Prop :=
      j.val < s.header.rotaN ∧ s.test.counters.get j = 0 ∧ (s.store.plan.rota j).port = p.val ∧
        ∃ k, (s.store.plan.rota j).kind = some k ∧ ready p k
    let free := s.test.run = none ∧ s.test.owner = .none ∧ s.scan.thermal = .normal ∧
      s.phase.phase = .outage ∧ ∀ e ∈ s.sched.queue, (s.policy e.port).cls = 0 → e.u < 896
    (free → ∀ j p, due j p → (∀ i q, i < j → ¬due i q) →
      slot 0 = { action := .test, port := some p, rota := some j } ∧
      ∀ i, i ≠ 0 → (slot i).port ≠ some p) ∧
    ((slot 0).action = .test → free ∧ ∃ j p, due j p) ∧
    ((s.sched.queue.map (·.port)).Nodup → ∀ before e after, s.sched.queue = before ++ e :: after →
      let p := e.port
      let x := s.port p
      let tested := (slot 0).action = .test ∧ (slot 0).port = some p
      let held (i : Fin 4) := before.any fun d => (slot i).port = some d.port
      let taken (i : Fin 4) := (slot i).action = .test ∨ held i = true
      let wakes := x.status = .sleep ∨ x.status = .absent
      let bound := if wakes then 2 else 4
      let feeds := s.feedingCount + (List.finRange 4).countP fun i => (slot i).action = .feed && held i
      let may := s.condition p = true ∧ s.acct.hold = false ∧ feeds < s.header.feedLimit
      (tested → t.queued p = false) ∧
      (¬tested → may → ∀ i, i.val < bound → ¬taken i → (∀ j, j < i → taken j) →
        slot i = { action := if wakes then .wake else .feed, port := some p }) ∧
      (¬tested → ¬may ∨ (∀ i : Fin 4, i.val < bound → taken i) →
        e ∈ t.sched.queue ∧ ∀ i, (slot i).port ≠ some p)) ∧
    (s.feedingCount + t.sched.slots.val.countP (fun x => x.action = .feed) ≤
      max s.feedingCount s.header.feedLimit) ∧
    (∀ i, (slot i).action = .wake → i.val < 2) ∧ (∀ i, (slot i).action = .test → i.val = 0) ∧
    (s.acct.hold = true → ∀ i, (slot i).action ≠ .feed ∧ (slot i).action ≠ .wake) ∧
    (∀ i, (slot i).outcome = if (slot i).action = .none then some .empty else none) ∧
    (∀ i p, (slot i).port = some p → t.queued p = false ∧
      ((slot i).action = .feed ∨ (slot i).action = .wake → s.queued p = true ∧ s.condition p = true)) ∧
    SameBut [.sched, .path] s t

/-! ## The test unit -/

/-- R110: the first claim attempt of a transaction is granted when the channel has no owner and no test runs; the
attempt's own outcome goes out to the supervisor, and the claim byte reached again in one transaction returns the
same value. The command beside an open write burst is the read of another transaction (log 8); the row takes no
snapshot, also where the claim byte is the first live byte of its transaction (log 50). -/
def Obligations.ClaimAttemptTakesFreeChannel : Prop :=
  ∀ (τ : Nat) (s : State), s.line = .released → s.takesLive = true →
    let now := max s.clock τ
    let first := ∀ x, s.path.txn = some x → x.cmd = some .write ∨ x.claim = none
    let free := s.test.owner = .none ∧ s.test.run = none
    ∃ (t : State) (v : Byte), exec (.claimAttempt τ) s = .next t ∧ t.clock = now ∧
      (first → free → v = 0#8 ∧
        t.test = { s.test with claim := .held, owner := .supervisor, lapse := some now }) ∧
      (first → ¬free → v = 1#8 ∧ t.test = { s.test with lapse := s.lapseAfter now }) ∧
      (∀ x w, s.path.txn = some x → x.cmd ≠ some .write → x.claim = some w →
        v = w ∧ t.test = { s.test with lapse := s.lapseAfter now }) ∧
      t.path = { s.pathTouched with
        txn := s.path.txn.map fun x =>
          if x.cmd = some .write then x else { x with live := true, claim := some v }
        slOut := s.path.slOut ++ [v] } ∧
      SameBut [.test, .path] s t

/-- R111: a release, and a lapse 120 s after the last touch, by the claim state and the test in progress. A lapse
sent before the 120 s, or without its timer, changes nothing (log 4). The release row's standing beside an open
write burst is the model's choice of log 8. -/
def Obligations.ReleaseAndLapseEndClaim : Prop :=
  ∀ (τ : Nat) (s : State), s.line = .released →
    let now := max s.clock τ
    let ended : TestUnit := { s.test with
      claim := if s.test.run = none then .none else .releasing
      owner := if s.test.run = none then .none else s.test.owner
      lapse := none }
    (s.takesLive = true → ∃ t, exec (.claimRelease τ) s = .next t ∧ t.clock = now ∧
      (s.test.claim = .held → t.test = ended) ∧ (s.test.claim ≠ .held → t.test = s.test) ∧
      t.path = s.pathTouched ∧ SameBut [.test, .path] s t) ∧
    ∃ t, exec (.claimLapse τ) s = .next t ∧ t.clock = now ∧
      (∀ since, s.test.claim = .held → s.test.lapse = some since → since + 120 * Config.sec ≤ now →
        t.test = ended) ∧
      (s.test.claim ≠ .held ∨ s.test.lapse = none ∨
          (∃ since, s.test.lapse = some since ∧ now < since + 120 * Config.sec) → t.test = s.test) ∧
      SameBut [.test] s t

/-- R121 and R122: the written bytes are stored, the minutes clamped, and the request is refused with the first
cause of the table that applies, with TEST_REFUSED, or starts its test at once: the port is attached and leaves the
queue, a slot request it had at the gate is withdrawn and its slot PORT_LEFT (R99), and a WAKE test places its pulse
request (R113, R115, R38). The row's touch, and its standing beside an open write burst, are the model's choice of
log 8 over R111. -/
def Obligations.TestRequestRefusedByFirstCause : Prop :=
  ∀ (τ : Nat) (port kind minutes : Option Byte) (s : State), s.line = .released → s.takesLive = true →
    port.isSome || kind.isSome || minutes.isSome →
    let now := max s.clock τ
    let number := (port.map (·.toNat)).getD s.test.req.port
    let code := (kind.map (·.toNat)).getD s.test.req.kind
    let mins := max 1 (min 60 ((minutes.map (·.toNat)).getD s.test.req.minutes))
    let off := ∀ p : Fin 48, p.val = number → (s.port p).action = .off
    let ready := ∃ p : Fin 48, p.val = number ∧
      (code = 1 ∧ (s.port p).status = .run ∧
          ((s.port p).action = .idle ∨ (s.port p).action = .feeding ∧ (s.port p).fed = true) ∨
        code = 2 ∧ (s.port p).action = .idle ∧ (s.port p).status = .sleep ∧ s.acct.hold = false ∨
        code = 3 ∧ (s.port p).action = .feeding)
    let phaseOk := s.phase.phase = .outage ∨ s.phase.phase = .reserve
    let claimed := s.test.claim = .held
    let idle := s.test.run = none
    let fit := s.store.ready = true ∧ s.scan.thermal = .normal ∧ ready
    let refuses (cause : RefuseCause) : Prop :=
      ∃ t, exec (.testRequest τ port kind minutes) s = .next t ∧ t.clock = now ∧
        t.test = { s.test with
          lapse := s.lapseAfter now
          req := { port := number, kind := code, minutes := mins, outcome := .refused cause } } ∧
        Raised .testRefused number code cause.code s.store.plan.tag s t ∧
        t.path = { s.pathTouched with ownq := t.path.ownq } ∧ SameBut [.test, .ev, .path] s t
    (¬phaseOk → refuses .phase) ∧
    (phaseOk → ¬claimed → refuses .noClaim) ∧
    (phaseOk → claimed → ¬idle → refuses .busy) ∧
    (phaseOk → claimed → idle → off → refuses .badPort) ∧
    (phaseOk → claimed → idle → ¬off → ¬fit → refuses .notReady) ∧
    (phaseOk → claimed → idle → ¬off → fit →
      ∃ (u : State) (p : Fin 48) (k : TestKind), p.val = number ∧ k.code = code ∧
        exec (.testRequest τ port kind minutes) s = .next u.runRound ∧ u.clock = now ∧
        u.test = { s.test with
          lapse := s.lapseAfter now
          req := { port := number, kind := code, minutes := mins, outcome := .started }
          run := some { port := p, kind := k, bySupervisor := true, minutes := mins, rota := none,
                        attached := now } } ∧
        u.port p = { (s.port p).clearTimers with
          action := .testing, switch := decide (k = .draw) && (s.port p).switch, fed := false } ∧
        u.gate = { s.gate with waiting :=
          (if s.slotWaits p then s.gate.waiting.filter fun r => r.port ≠ p else s.gate.waiting) ++
            (if k = .wake ∧ s.gateClosed = false then [{ port := p, kind := .pulse, placed := now }]
              else []) } ∧
        u.sched = { s.sched with
          queue := s.sched.queue.filter fun e => e.port ≠ p, slots := u.sched.slots } ∧
        (∀ i, s.slotWaits p = true → s.openSlot p = some i →
          (u.sched.slots.get i).outcome = some .portLeft) ∧
        (s.slotWaits p = false → u.sched.slots = s.sched.slots) ∧
        OtherPorts p s u ∧ u.queued p = false ∧ MarkSet p s u ∧
        MarksOnly { s with path := s.pathTouched } u ∧
        SameBut [.ports, .gate, .sched, .test, .path] s u)

/-- R114 to R118: a test ends by its own time, by its samples or by the supervisor's abort, in the one way of R117:
HOLDUP passes with its hold-up time, WAKE fails with 5000, DRAW is judged by the average of its samples against the
draw band, an aborted test carries its elapsed seconds. The abort row's touch, and its standing beside an open write
burst, are the model's choice of log 8 over R111. -/
def Obligations.TestEndsByItsOwnResult : Prop :=
  ∀ (τ : Nat) (run : TestRun) (s : State), s.line = .released → s.test.run = some run →
    let now := max s.clock τ
    (run.kind = .holdup → run.attached + 60 * run.minutes * Config.sec ≤ now →
      ∃ u : State, exec (.holdupTimeExpiry τ) s = .next u.runRound ∧ u.clock = now ∧
        TestEnded run .pass (60 * run.minutes) none s u) ∧
    (∀ granted, run.kind = .wake → run.granted = some granted →
      granted + 5 * Config.sec ≤ now →
      ∃ u : State, exec (.testAnswerTimerExpiry τ) s = .next u.runRound ∧ u.clock = now ∧
        TestEnded run .fail 5000 none s u) ∧
    (∀ samples : List Nat, run.kind = .draw → run.attached + 10 * Config.sec ≤ now →
      samples.length = 10000 →
      let taken := samples.map (min 4095)
      let average := taken.sum / 10000
      let pol := s.policy run.port
      ∃ (u : State) (low high : Nat),
        exec (.drawSamplingEnd τ samples) s = .next u.runRound ∧ u.clock = now ∧
        (low ∈ taken ∧ ∀ x ∈ taken, low ≤ x) ∧ (high ∈ taken ∧ ∀ x ∈ taken, x ≤ high) ∧
        TestEnded run (if pol.drawLo ≤ average ∧ average ≤ pol.drawHi then .pass else .fail) average
          (some (low, high)) s u) ∧
    (∀ v : Byte, s.takesLive = true →
      ∃ u : State, exec (.testAbort τ v) s = .next u.runRound ∧ u.clock = now ∧
      TestEnded run (.aborted .supervisor) ((now - run.attached) / Config.sec) none
        { s with path := s.pathTouched, test := { s.test with lapse := s.lapseAfter now } } u)

/-- R114 and R115: a status change ends a HOLDUP test FAIL with the whole seconds since its attach, and a change to
RUN ends a granted WAKE test PASS with the milliseconds since its grant; other changes leave both running. A change
to LOW in an outage phase first makes its LOW resync and TERMINAL_LOW (R24, R70), which end a HOLDUP test in the
same step; the order of the two events is that of R24. Where no plan is in use the resync takes the C kept from the
last plan (log 10). -/
def Obligations.StatusChangeEndsTest : Prop :=
  ∀ (τ since : Nat) (level : TermStatus) (run : TestRun) (s : State), s.line = .released →
    s.test.run = some run → (s.port run.port).action = .testing →
    (s.port run.port).cand = some (level, since) → since + 200 * Config.ms ≤ max s.clock τ →
    let now := max s.clock τ
    let p := run.port
    let cap := if s.store.plan = .noPlan then (s.port p).cap else (s.policy p).cap
    ∃ u changed : State, exec (.statusDebounceExpiry τ p) s = .next u.runRound ∧ u.clock = now ∧
      (level ≠ .low ∨ s.phase.phase = .mains →
        changed = s.setPort p { s.port p with status := level, cand := none }) ∧
      (level = .low → s.phase.phase ≠ .mains →
        changed.port p = { s.port p with
          status := level, cand := none, deficit := max (s.port p).deficit (7 * cap / 8)
          u := (changed.port p).deficit * 1024 / cap, key := (changed.port p).key } ∧
        Raised .terminalLow p.val (changed.port p).u 0 s.store.plan.tag s changed ∧
        changed.clock = now ∧ OtherPorts p s changed ∧ QueueAndMarks s changed ∧
        SameBut [.ports, .ev, .path] s changed) ∧
      (run.kind = .holdup → level ≠ .run →
        TestEnded run .fail (min ((now - run.attached) / Config.sec) (60 * run.minutes - 1)) none
          changed u) ∧
      (∀ granted, run.kind = .wake → level = .run → run.granted = some granted →
        TestEnded run .pass (min 5000 ((now - granted) / Config.ms)) none changed u) ∧
      (run.kind = .draw ∨ run.kind = .holdup ∧ level = .run ∨
          run.kind = .wake ∧ (level ≠ .run ∨ run.granted = none) →
        u.test = s.test ∧ u.ports = changed.ports ∧ u.ev = changed.ev)

/-! ## Events -/

/-- R136: the value a written read index takes, against W, N and M, with the unread count left at most N; the unkept
attention flag clears and ALERT# follows. In LOADING the value is held. The row's touch, and its standing beside an
open write burst, are the model's choice of log 8 over R111. -/
def Obligations.ReadIndexJudgedAgainstRing : Prop :=
  ∀ (τ : Nat) (lo hi : Option Byte) (s : State), s.line = .released → s.takesLive = true →
    lo.isSome || hi.isSome →
    let now := max s.clock τ
    let v := (lo.map (·.toNat)).getD (s.ev.r % 256) + 256 * (hi.map (·.toNat)).getD (s.ev.r / 256)
    let n := s.ringN
    let m := s.ringM
    let w := s.ev.w
    let back := (((w : Int) - v) % m).toNat
    let ahead := (((v : Int) - w) % m).toNat
    ∃ t, exec (.readIndexWrite τ lo hi) s = .next t ∧ t.clock = now ∧
      t.test = { s.test with lapse := s.lapseAfter now } ∧ SameBut [.test, .ev, .path] s t ∧
      (s.store.ready = false →
        t.ev = { s.ev with heldRd := some v } ∧ t.path = s.pathTouched) ∧
      (s.store.ready = true →
        t.ev = { s.ev with r := t.ev.r, unkept := false, alert := t.alertLevel } ∧
        (n = 0 → t.ev.r = s.ev.r) ∧
        (0 < n → w < m →
          t.ev.r = (if m ≤ v then w else if back ≤ n then v else if ahead ≤ back - n then w
            else (((w : Int) - n) % m).toNat) ∧
          t.unread ≤ n) ∧
        MarksOnly { s with path := s.pathTouched } t ∧ t.path.dirty = s.path.dirty ∧
        t.path.dirtyInst = (s.path.dirtyInst || (s.configured && decide (t.ev.r ≠ s.ev.r))))

/-- R129, R130, R132 and R133: a raised event sets the last event kind and is placed by the first row that applies:
discarded without a ring, counted into a refusal of its region not yet begun, queued, staged, or lost into the LOST
marker at the tail of the staging list. Refusals are of one region where their subjects are equal, so those outside
every region (subject 9) count as of one: the model's choice of log 40. -/
def Obligations.EventPlacedByFirstRow : Prop :=
  (∀ (s : State) (kind : EventKind) (subject : Nat) (value : Int) (cause tag : Nat),
    let t := s.raiseTagged kind subject value cause tag
    Raised kind subject value cause tag s t ∧ t.path = { s.path with ownq := t.path.ownq } ∧
      SameBut [.ev, .path] s t) ∧
  ∀ (ring : Bool) (marker e : Event) (x : Spool),
    let fits (y : Event) := y.kind = .writeRefused ∧ y.subject = e.subject
    let open_ (y : OwnEntry) := y.begun = false ∧ ∃ f, y.item = .event f ∧ fits f
    let counted (y : Event) : Event := { y with count := min 65535 (y.count + 1) }
    let place := x.place ring marker e
    (ring = false → place = { x with unkept := x.unkept || e.kind.attention }) ∧
    (ring = true → e.kind = .writeRefused →
      (∀ before y after f, x.queue = before ++ y :: after → open_ y → (∀ z ∈ before, ¬open_ z) →
        y.item = .event f →
        place = { x with queue := before ++ { y with item := .event (counted f) } :: after }) ∧
      ((∀ y ∈ x.queue, ¬open_ y) → ∀ before f after, x.staging = before ++ f :: after → fits f →
        (∀ z ∈ before, ¬fits z) →
        place = { x with staging := before ++ counted f :: after })) ∧
    (ring = true →
      (e.kind ≠ .writeRefused ∨ (∀ y ∈ x.queue, ¬open_ y) ∧ ∀ f ∈ x.staging, ¬fits f) →
      (x.queue.length < 16 → x.staging = [] →
        place = { x with queue := x.queue ++ [{ item := .event e }] }) ∧
      (16 ≤ x.queue.length ∨ x.staging ≠ [] → x.staging.length < 8 →
        place = { x with staging := x.staging ++ [e] }) ∧
      (∀ before tail, 8 ≤ x.staging.length → x.staging = before ++ [tail] →
        place = { x with staging := before ++ [if tail.kind = .lost
          then { tail with count := min 65535 (tail.count + 1), value := marker.value }
          else { marker with count := min 65535 (tail.count + 1) }] }))

/-! ## Plans -/

/-- R147 to R150: a switch request. It is pending while LOADING, during a reload, and in OUTAGE or RESERVE with the
latch clear; else it is applied at once (`SwitchApplied`): no change for the bank already active, BANK_REFUSED for
an invalid or absent one, and for a valid one BANK_SWITCH and the new plan carried to every block (`PlanCarried`,
with the counters of R119 as in log 13). The target is judged on its image with the bytes an open write burst has
forwarded into its region so far; once it is active, its region refuses the rest of the burst outside MAINS, and the
bytes taken are not handed on again, while in MAINS the burst goes on. The row's touch, and its standing beside an
open write burst, are the model's choice of log 8 over R111. In a reload the switch stays pending (log 25). That a
switch to the bank already active validates nothing, also within a burst into its region, is that of log 64. -/
def Obligations.BankSwitchByPhaseAndValidity : Prop :=
  ∀ (τ : Nat) (v : Byte) (s : State), s.line = .released → s.takesLive = true →
    let now := max s.clock τ
    let touched := { s with
      clock := now, path := s.pathTouched, test := { s.test with lapse := s.lapseAfter now } }
    let later := s.store.ready = false ∨ s.store.load ≠ none ∨
      s.phase.phase.active = true ∧ s.scan.latch = false
    (1 < v.toNat → ∃ t, exec (.bankSwitchWrite τ v) s = .next t ∧ t.clock = now ∧
      t.test = touched.test ∧ t.path = s.pathTouched ∧ SameBut [.test, .path] s t) ∧
    ∀ target : Bank, target.code = v.toNat →
      ∃ t, exec (.bankSwitchWrite τ v) s = .next t ∧ t.clock = now ∧
        (later → t.store = { s.store with target := some target } ∧
          t.test = touched.test ∧ t.path = s.pathTouched ∧ SameBut [.store, .test, .path] s t) ∧
        (¬later → State.SwitchApplied target touched t)

/-! ## The memory path -/

/-- R169 and the tables of Memory Images: what the part writes and serves, field by field with its offset, width and
value, least significant byte first, and the codes the fields hold. A port image is 32 bytes, a measurement record
8, an event record 16, the live window 128, with 0 in every unused byte; the claim byte is served apart (R110), and
a byte with no field of its own to read is 0. A part-owned byte is the image's where no load has formed the part's
value: R160 says so for a forwarded write, and the model's choice of log 58 for the own write. With no last result or no
last test the value reads 0, the model's choice of log 68. -/
def Obligations.ImagesFollowLayouts : Prop :=
  (∀ (s : State) (p : Fin 48), (s.portImage p).length = 32 ∧
    let x := s.port p
    let last (f : TestSummary → Nat) := (x.lastTest.map f).getD 0
    FieldsAt (s.portImage p)
      [(0, 1, x.action.code), (1, 1, statusCode x.status),
        (2, 1, (if s.queued p then 1 else 0) + if s.stale (portChannel p) then 2 else 0), (3, 1, x.trips),
        (4, 4, x.deficit), (8, 4, if x.action = .off then 0 else (s.policy p).cap), (12, 2, x.u),
        (14, 2, s.current p), (16, 1, x.attempts), (17, 1, last (·.kind.code)), (18, 1, last (·.result.code)),
        (19, 1, last (·.result.abortCode)), (20, 2, last (·.value)), (22, 4, x.feedSecs), (26, 2, x.key),
        (28, 4, 0)]) ∧
  (∀ m : Meas, m.bytes.length = 8 ∧ FieldsAt m.bytes
    [(0, 1, m.channel.val), (1, 1, 0), (2, 2, (BitVec.ofInt 16 m.value).toNat), (4, 4, m.time)]) ∧
  (∀ e : Event, e.bytes.length = 16 ∧ FieldsAt e.bytes
    [(0, 1, e.kind.code), (1, 1, e.phase.code), (2, 4, e.time), (6, 1, e.subject), (7, 1, e.cause),
      (8, 4, (BitVec.ofInt 32 e.value).toNat), (12, 2, e.tag), (14, 2, e.count)]) ∧
  (∀ s : State, s.ownedBytes.length = 7 ∧
    (s.store.activeFormed = true → FieldsAt s.ownedBytes [(0, 1, s.store.active.code)]) ∧
    (s.ev.idxFormed = true → FieldsAt s.ownedBytes [(1, 2, s.ev.w), (3, 2, s.ev.r)]) ∧
    (s.scan.measFormed = true → FieldsAt s.ownedBytes [(5, 2, s.scan.measIdx)]) ∧
    (s.store.activeFormed = false → s.ownedBytes[0]? = some (s.imageByte 3)) ∧
    (s.ev.idxFormed = false → ∀ k, k < 4 → s.ownedBytes[1 + k]? = some (s.imageByte (4 + k))) ∧
    (s.scan.measFormed = false → ∀ k, k < 2 → s.ownedBytes[5 + k]? = some (s.imageByte (8 + k)))) ∧
  (∀ s : State, s.liveWindow.length = 128 ∧
    let run (f : TestRun → Nat) := (s.test.run.map f).getD 0
    let last (d : Nat) (f : LastResult → Nat) := (s.test.last.map f).getD d
    let slot (i : Fin 4) : List (Nat × Nat × Nat) :=
      let x := s.sched.record.slots.get i
      [(58 + 3 * i.val, 1, x.action.code), (59 + 3 * i.val, 1, (x.port.map (·.val)).getD 255),
        (60 + 3 * i.val, 1, x.outcome.code)]
    FieldsAt s.liveWindow
      [(0, 1, 0x48), (1, 1, 1), (2, 1, s.phase.phase.code), (3, 1, s.phase.mains.code),
        (4, 1, s.scan.thermal.code), (5, 1, if s.scan.latch then 1 else 0),
        (6, 1, if s.phase.phase = .mains then s.phase.startLevel else s.acct.level), (7, 1, 0),
        (8, 4, s.acct.q), (12, 4, s.acct.f16 / 16), (16, 1, s.sched.queue.length),
        (17, 1, allPorts.countP fun p => (s.port p).action = .feeding),
        (18, 1, allPorts.countP fun p => (s.port p).action = .barred), (20, 1, s.test.req.port),
        (21, 1, s.test.req.kind), (22, 1, s.test.req.minutes), (23, 1, s.test.req.outcome.codes.1),
        (24, 1, s.test.req.outcome.codes.2), (25, 1, 0)] ∧
    FieldsAt s.liveWindow
      [(26, 1, s.test.owner.code), (27, 1, s.test.claim.code),
        (28, 1, (s.test.run.map (·.port.val)).getD 255), (29, 1, run (·.kind.code)),
        (30, 2, run fun x => (s.clock - x.attached) / Config.sec), (32, 1, last 0 (·.kind.code)),
        (33, 1, last 255 (·.port.val)), (34, 1, last 0 fun x => if x.bySupervisor then 2 else 1),
        (35, 1, last 0 (·.result.code)), (36, 1, last 0 (·.result.abortCode)), (37, 2, last 0 (·.value)),
        (39, 2, last 0 fun x => (x.span.map (·.1)).getD 0),
        (41, 2, last 0 fun x => (x.span.map (·.2)).getD 0),
        (43, 1, s.store.active.code + 2 * (s.store.target.map (·.code + 1)).getD 0 +
          8 * s.store.a.validity.code + 32 * s.store.b.validity.code +
          if s.store.plan = .builtIn then 128 else 0)] ∧
    FieldsAt s.liveWindow
      ([(44, 1, if s.path.mapLock then 1 else 0), (45, 1, s.phase.startLevel), (46, 2, s.ev.r),
        (48, 2, s.ev.w), (50, 2, s.scan.measIdx), (52, 1, (s.ev.lastKind.map (·.code)).getD 0),
        (53, 1, s.scan.state.code), (54, 1, s.scan.pos.val), (55, 1, 0),
        (56, 2, s.sched.record.number), (70, 58, 0)] ++ slot 0 ++ slot 1 ++ slot 2 ++ slot 3)) ∧
  [Phase.mains, .outage, .reserve, .cutoff, .restore].map Phase.code = [0, 1, 2, 3, 4] ∧
  [MainsState.present, .losing, .lost, .returning].map MainsState.code = [0, 1, 2, 3] ∧
  [Thermal.normal, .warm, .hot, .critical].map Thermal.code = [0, 1, 2, 3] ∧
  [Action.off, .idle, .waking, .feeding, .testing, .tripped, .barred].map Action.code =
    [0, 1, 2, 3, 4, 5, 6] ∧
  [TermStatus.absent, .sleep, .run, .low].map statusCode = [0, 1, 2, 3] ∧
  [ScanState.idle, .sweeping, .waiting, .paused].map ScanState.code = [0, 1, 2, 3] ∧
  [SlotAction.none, .feed, .wake, .test].map SlotAction.code = [0, 1, 2, 3] ∧
  [SlotOutcome.empty, .issued, .windowFull, .portLeft, .phase, .abandoned, .dry].map SlotOutcome.code =
    [0, 1, 2, 3, 4, 5, 6] ∧
  [Owner.none, .rota, .supervisor].map Owner.code = [0, 1, 2] ∧
  [Claim.none, .held, .releasing].map Claim.code = [0, 1, 2] ∧
  [TestKind.holdup, .wake, .draw].map TestKind.code = [1, 2, 3] ∧
  (∀ c, [TestResult.pass, .fail, .aborted c].map TestResult.code = [1, 2, 3] ∧
    [TestResult.pass, .fail, .aborted c].map TestResult.abortCode = [0, 0, c.code]) ∧
  [AbortCause.trip, .phase, .thermal, .supervisor, .reset].map AbortCause.code = [1, 2, 3, 4, 5] ∧
  (∀ c, [ReqOutcome.none, .started, .refused c].map ReqOutcome.codes = [(0, 0), (1, 0), (2, c.code)]) ∧
  [RefuseCause.phase, .noClaim, .busy, .badPort, .notReady].map RefuseCause.code = [1, 2, 3, 4, 5] ∧
  [Bank.a, .b].map Bank.code = [0, 1] ∧ [Validity.valid, .invalid, .absent].map Validity.code = [0, 1, 2] ∧
  [PhaseCause.mainsLost, .level, .undervoltage, .mainsBack, .settled].map PhaseCause.code =
    [1, 2, 3, 4, 5] ∧
  [WriteCause.mapUnknown, .phase, .locked, .activeBank, .owned, .afterWindow].map WriteCause.code =
    [1, 2, 3, 4, 5, 6] ∧
  [EventKind.partStart, .phase, .bankSwitch, .bankRefused, .writeRefused, .linkStuck, .portTrip, .portBarred,
    .wakeFailed, .terminalLost, .terminalLow, .testResult, .testRefused, .thermal, .alarm,
    .lost].map EventKind.code = [1, 2, 3, 4, 5, 6, 7, 8, 9, 10, 11, 12, 13, 14, 15, 16]

/-- R163: the map lock. A nonzero write sets it and nothing but a reset clears it; the byte reads 1 or 0; the
installation block refuses in MAINS under the lock, outside MAINS whatever the lock, and never while unconfigured.
The row's touch, and its standing beside an open write burst, are the model's choice of log 8 over R111. -/
def Obligations.MapLockProtectsInstallation : Prop :=
  (∀ (τ : Nat) (v : Byte) (s : State), s.line = .released → s.takesLive = true →
    let now := max s.clock τ
    ∃ t, exec (.mapLockWrite τ v) s = .next t ∧ t.clock = now ∧
      t.path = { s.pathTouched with mapLock := t.path.mapLock } ∧
      (v ≠ 0#8 → t.path.mapLock = true) ∧ (v = 0#8 → t.path.mapLock = s.path.mapLock) ∧
      t.test = { s.test with lapse := s.lapseAfter now } ∧ SameBut [.test, .path] s t) ∧
  (∀ s : State, s.liveWindow[44]? = some (if s.path.mapLock then 1#8 else 0#8)) ∧
  (∀ (s : State) (a : Nat), a < 128 →
    (s.configured = true → s.phase.phase = .mains → s.path.mapLock = true →
      s.classify a = .refusing .locked) ∧
    (s.configured = true → s.phase.phase = .mains → s.path.mapLock = false →
      s.classify a = .forwarded) ∧
    (s.configured = true → s.phase.phase ≠ .mains → s.classify a = .refusing .phase) ∧
    (s.unconfigured = true → s.classify a = .forwarded)) ∧
  (∀ (c : Instr) (s t : State), c.isReset = false → s.path.mapLock = true → exec c s = .next t →
    t.path.mapLock = true) ∧
  (∀ s : State, ∃ t, exec .powerOnReset s = .next t ∧ t.path.mapLock = false) ∧
  ∀ (τ : Nat) (s : State), s.line = .released →
    ∃ t, exec (.warmReset τ) s = .next t ∧ t.path.mapLock = false

/-- R155, R166, R167, R111: the movements of the supervisor link that carry no data: the fall of SL_CS#, which cuts
an own access with a part of its bytes written and owes it a restart; a command that is no array command; an
absorbed live byte; a select held low for 50 ms, whose value is the address the transaction has reached, that of the
next byte (log 62), and −1 without a recorded command, so also for an array command with an incomplete address (log
52). LINK_STUCK sent early (log 4), or for a select that has been low since before a reset, whose transaction is not
the part's (log 20), changes nothing. R155, R167, R168: a command that names a live byte of its own changes nothing
while the link is STUCK, in a transaction with another command, and in one ignored since a reset. That such a
command stands for the byte it names is the model's choice of log 8. -/
def Obligations.LinkMovementsWithoutData : Prop :=
  ∀ (τ : Nat) (s : State), s.line = .released →
    let now := max s.clock τ
    (∃ t, exec (.transactionStart τ) s = .next t ∧ t.clock = now ∧
      (s.path.csLow = true → SameBut [] s t) ∧
      (s.path.csLow = false →
        (s.path.own = none → SameBut [.path] s t ∧ t.path = { s.path with
          csLow := true, csSince := now, slOut := [], txn := some { began := now } }) ∧
        (∀ o, s.path.own = some o → SameBut [.path, .mem] s t ∧
          t.path = { s.path with
            csLow := true, csSince := now, slOut := [], txn := some { began := now }
            own := none, link := .idle, preempted := if o.void then none else some o.kind } ∧
          ∃ n ≤ o.data.length, t.mem = s.mem.writeBytes o.addr (o.data.take n)))) ∧
    (∀ command : Byte, ∃ t, exec (.otherCommand τ command) s = .next t ∧ t.clock = now ∧
      (∀ x, s.path.txn = some x → x.stuck = false → x.cmd = none →
        t.path = { s.path with txn := some { x with cmd := some .other } } ∧ SameBut [.path] s t) ∧
      (s.path.txn = none → SameBut [] s t)) ∧
    (∀ c : Instr, c.liveAt = some τ → (s.path.csLow = true ∧ s.path.txn = none) ∨
        (∃ x, s.path.txn = some x ∧ (x.stuck = true ∨ x.cmd = some .other)) →
      ∃ t, exec c s = .next t ∧ t.clock = now ∧ SameBut [] s t) ∧
    (∀ (off : Fin 128) (v : Byte), s.takesLive = true →
      ∃ t, exec (.liveWriteAbsorbed τ off v) s = .next t ∧
      t.clock = now ∧ t.test = { s.test with lapse := s.lapseAfter now } ∧ t.path = s.pathTouched ∧
      SameBut [.test, .path] s t) ∧
    ∃ t, exec (.linkStuck τ) s = .next t ∧ t.clock = now ∧
      (∀ x, s.path.txn = some x → x.stuck = false → s.path.csLow = true →
        x.began + 50 * Config.ms ≤ now →
        t.path = { s.path with
          link := .stuck, txn := some { x with stuck := true, mlLow := false }
          ownq := t.path.ownq } ∧
        Raised .linkStuck noSubject
          (if x.cmd = some .read ∨ x.cmd = some .write then (x.addr : Int) else -1) 0
          s.store.plan.tag s t ∧
        SameBut [.ev, .path] s t) ∧
      (s.path.txn = none ∨ s.path.csLow = false ∨
          (∃ x, s.path.txn = some x ∧ (x.stuck = true ∨ now < x.began + 50 * Config.ms)) →
        SameBut [] s t)

/-- R155, R161 and R110: an array read, or the next piece of one already begun, byte by byte from its address and
from 03FFFFh on again at 000000h. Outside the live window the memory's bytes go out; a live byte comes from the one
snapshot of the transaction, taken at its first live byte; the claim byte is the outcome of the transaction's claim
attempt, made where it is first reached, after that snapshot (log 50). The first live byte touches the window. That
a further command is the next piece of the burst already begun, its own address ignored, is the model's choice of
log 8. -/
def Obligations.ArrayReadServesMemoryAndSnapshot : Prop :=
  ∀ (τ addr count : Nat) (x : Txn) (s : State), s.line = .released → s.path.txn = some x →
    x.stuck = false → x.cmd = none ∨ x.cmd = some .read → addr < 262144 → x.addr < 262144 →
    let now := max s.clock τ
    let first := if x.cmd = none then addr else x.addr
    let at_ (k : Nat) := (first + k) % 262144
    let live := (List.range count).any fun k => inLive (at_ k)
    let claims := (List.range count).any fun k => at_ k = 147
    let window := x.snap.getD (State.liveWindow { s with clock := now })
    let free := s.test.owner = .none ∧ s.test.run = none
    let claim : Byte := x.claim.getD (if free then 0#8 else 1#8)
    ∃ t, exec (.arrayRead τ addr count) s = .next t ∧ t.clock = now ∧
      (State.liveWindow { s with clock := now }).length = 128 ∧
      t.path = { s.path with
        link := if x.cmd = none then .forwarding else s.path.link
        txn := some { x with
          cmd := some .read, mlLow := if x.cmd = none then true else x.mlLow, addr := at_ count
          live := x.live || live
          snap := if live then some window else x.snap
          claim := if claims then some claim else x.claim }
        slOut := s.path.slOut ++ (List.range count).map fun k =>
          if at_ k = 147 then claim
          else if inLive (at_ k) then window.getD (at_ k - 128) 0#8
          else s.mem.read (at_ k) } ∧
      t.test = (if claims = true ∧ x.claim = none ∧ free then
          { s.test with claim := .held, owner := .supervisor, lapse := some now }
        else if live = true ∧ x.live = false ∧ s.test.claim = .held then { s.test with lapse := some now }
        else s.test) ∧
      SameBut [.test, .path] s t

/-- R155, R158 to R161: an array write. The bytes before the first that is not forwarded are placed, with the part's
own value in a part-owned byte, and no other byte of memory changes, also where a later address is of the forwarded
class. If that first byte refuses, WRITE_REFUSED names its address, region and cause; if it is a byte of the live
window, the first byte after the window raises WRITE_REFUSED with cause AFTER_WINDOW, in an unconfigured part too
(log 40). With no data byte the command and its address alone are taken, and a first byte found refusing then is
refused with that subject and cause when it comes (log 53). A burst in two pieces is the burst whole. A live byte,
the first of its transaction or a later one of its burst, has the effect of the command that stands for it, taken as
a byte of this transaction (`row`), which touches the window once; those of the test request and the read index are
stored for the end of the transaction. That a further command is the next piece of the burst already begun, and a
live byte of it acts as its row does, is the model's choice of log 8. The installation block is its own subject also
while the map is unknown (log 59). -/
def Obligations.ArrayWritePlacesForwardedBytes : Prop :=
  (∀ (τ addr : Nat) (bytes : List Byte) (x : Txn) (s : State), s.line = .released → s.MemOk →
    s.path.txn = some x → x.stuck = false → x.cmd = none → x.live = false → x.refused = none →
    addr < 262144 →
    let now := max s.clock τ
    let at_ (k : Nat) := (addr + k) % 262144
    let drive := decide (s.classify addr = .forwarded)
    let passed (k : Nat) (v : Byte) := if 3 ≤ at_ k ∧ at_ k ≤ 9 then s.ownedByte (at_ k) else v
    let opens (n : Nat) := n ≤ 262144 ∧ ∀ k < n, s.classify (at_ k) = .forwarded
    let places (n : Nat) (t : State) := t.path.txn.map (·.placed) = some (x.placed ++
      (bytes.take n).mapIdx fun k v =>
        { addr := at_ k, byte := passed k v, locked := s.placedLocked (at_ k) })
    ∃ t, exec (.arrayWrite τ addr bytes) s = .next t ∧ t.clock = now ∧
      (bytes = [] → SameBut [.path] s t ∧ t.path = { s.path with
        link := if drive then .forwarding else s.path.link
        txn := some { x with
          cmd := some .write, mlLow := drive, addr := addr, decided := s.classRefusal addr } }) ∧
      (∀ n ≤ bytes.length, opens n → (n < bytes.length → s.classify (at_ n) ≠ .forwarded) →
        (∀ k < n, ∀ v, bytes[k]? = some v → t.mem.read (at_ k) = passed k v) ∧
        ∀ a, (∀ k < n, at_ k ≠ a) → t.mem.read a = s.mem.read a) ∧
      (opens bytes.length → bytes ≠ [] →
        t.path = { s.path with link := .forwarding, txn := t.path.txn } ∧ places bytes.length t ∧
        t.path.txn.map (·.refused) = some none ∧ SameBut [.path, .mem] s t) ∧
      (∀ n cause, n < bytes.length → opens n → s.classify (at_ n) = .refusing cause →
        Raised .writeRefused (s.refusalSubject (at_ n)) (at_ n) cause.code s.store.plan.tag s t ∧
        t.path.txn.map (·.refused) = some (some (at_ n)) ∧ places n t ∧
        SameBut [.test, .ev, .path, .mem] s t ∧
        ((∀ k < bytes.length, inLive (at_ k) = false) → t.test = s.test)) ∧
      (∀ n m, n < m → m < bytes.length → opens n →
        (∀ k, n ≤ k → k < m → inLive (at_ k) = true) → inLive (at_ m) = false →
        t.path.txn.map (·.refused) = some (some (at_ m)) ∧ t.ev.lastKind = some .writeRefused ∧
        ∃ mid, exec (.arrayWrite τ addr (bytes.take m)) s = .next mid ∧
          Raised .writeRefused (s.refusalSubject (at_ m)) (at_ m) 6 mid.store.plan.tag mid t)) ∧
  (∀ (τ addr : Nat) (one two : List Byte) (x : Txn) (s : State), s.line = .released →
    s.path.txn = some x → x.stuck = false → addr < 262144 →
    ∃ mid, exec (.arrayWrite τ addr one) s = .next mid ∧
      exec (.arrayWrite τ addr (one ++ two)) s = exec (.arrayWrite τ addr two) mid) ∧
  (∀ (τ addr : Nat) (v : Byte) (x : Txn) (d : Nat × WriteCause) (s : State), s.line = .released →
    s.path.txn = some x → x.stuck = false → x.cmd = some .write → x.refused = none →
    x.decided = some d → inLive x.addr = false →
    ∃ t, exec (.arrayWrite τ addr [v]) s = .next t ∧ t.mem = s.mem ∧
      Raised .writeRefused d.1 x.addr d.2.code s.store.plan.tag s t ∧
      t.path.txn.map (fun y => (y.refused, y.placed)) = some (some x.addr, x.placed) ∧
      SameBut [.ev, .path] s t) ∧
  ∀ (τ addr : Nat) (off : Fin 128) (v : Byte) (x : Txn) (s : State), s.line = .released →
    s.path.txn = some x → x.stuck = false → x.refused = none →
    (x.cmd = none ∧ addr = 128 + off.val ∨ x.cmd = some .write ∧ x.addr = 128 + off.val) →
    let row := { s with path := { s.path with txn := some { x with cmd := none } } }
    let taken (y : Txn) : Txn := { y with
      cmd := some .write, mlLow := false, addr := 129 + off.val
      decided := if x.cmd = none then none else x.decided }
    ∃ t, exec (.arrayWrite τ addr [v]) s = .next t ∧ t.mem = s.mem ∧
      (∀ c u, liveRowOf τ off v = some c → exec c row = .next u →
        t = { u with path := { u.path with txn := u.path.txn.map taken } }) ∧
      (liveRowOf τ off v = none → SameBut [.test, .path] s t ∧
        ∃ u, exec (.liveWriteAbsorbed τ off v) row = .next u ∧
          (off.val = 20 ∨ off.val = 21 ∨ off.val = 22 →
            t.path = { u.path with txn := u.path.txn.map fun y => { taken y with reqWritten := true } } ∧
            t.test = { u.test with req := { s.test.req with
              port := if off.val = 20 then v.toNat else s.test.req.port
              kind := if off.val = 21 then v.toNat else s.test.req.kind
              minutes := if off.val = 22 then v.toNat else s.test.req.minutes } }) ∧
          (off.val = 46 ∨ off.val = 47 → t.test = u.test ∧
            t.path = { u.path with txn := u.path.txn.map fun y => { taken y with
              rdLo := if off.val = 46 then some v else x.rdLo
              rdHi := if off.val = 47 then some v else x.rdHi } }))

/-- R164, R165 and R166: the own access that starts, with its place and its content taken now: the preempted one
first, whatever its kind, then a plan-load read, also that of a READY part's reload, then by the turn the head of
the queue or the next mark. Marks are taken in the cyclic order installation, port 0 to port 47, after the last one
served (R164). Without the quiet gap none starts, nor where nothing is owed. Before the choice what has lost its
region is dropped (R165), at the start of the access and not before it: the model's choice of log 29. A preempted
write, the port marks without a PORT_IMAGE region and a head entry without its ring go, one after the other, the
freed place passed on to the staging head, and the access is that of the state without them. -/
def Obligations.OwnAccessChosenInOrder : Prop :=
  (∀ (τ : Nat) (s : State), s.line = .released →
    let now := max s.clock τ
    let placed (x : OwnEntry) : Prop := match x.item with
      | .meas _ => 0 < s.measN
      | .event _ => 0 < s.ringN
    let owed (k : OwnKind) : Prop := match k with
      | .load => s.store.load ≠ none
      | .meas => 0 < s.measN
      | .event => 0 < s.ringN
      | .inst => s.configured = true
      | .image _ => s.imageRegion ≠ none
    let whole := (∀ x, s.path.ownq.head? = some x → placed x) ∧
      (s.imageRegion = none → ∀ p, s.path.dirty.get p = false) ∧ ∀ k, s.path.preempted = some k → owed k
    let starts (o : Own) (q : List OwnEntry) (t : State) : Prop :=
      t.path = { s.path with own := some o, link := .own, preempted := none, ownq := q } ∧ SameBut [.path] s t
    let meas (m : Meas) : Own :=
      { kind := .meas, addr := s.base .meas + 8 * s.scan.measIdx, data := m.bytes }
    let event (e : Event) : Own :=
      { kind := .event, addr := s.base .events + 16 * (s.ev.w % s.ringN), data := e.bytes }
    let image (p : Fin 48) : Own :=
      { kind := .image p, addr := s.base .portImage + 32 * p.val, data := s.portImage p }
    let inst : Own := { kind := .inst, addr := 3, data := s.ownedBytes }
    let queueFirst := s.path.turn = .queue ∨ s.nextMark = none
    let markFirst := s.path.ownq = [] ∨ s.path.turn = .marks
    ∃ t, exec (.ownAccessStart τ) s = .next t ∧ t.clock = now ∧
      (s.path.link ≠ .stuck → s.path.csLow = true ∨ now < s.path.csSince + 2 ∨ s.path.link ≠ .idle →
        SameBut [] s t) ∧
      (s.path.own = none →
        s.path.link = .stuck ∨
          s.path.link = .idle ∧ s.path.csLow = false ∧ s.path.csSince + 2 ≤ now →
        (s.store.ready = true →
          (∀ k, s.path.preempted = some k → ¬owed k →
            exec (.ownAccessStart τ) { s with path := { s.path with preempted := none } } = .next t) ∧
          (s.imageRegion = none →
            exec (.ownAccessStart τ) { s with path := { s.path with dirty := Tab.fill 48 false } } =
              .next t) ∧
          ∀ x rest, s.path.ownq = x :: rest → ¬placed x → s.path.ownq.length ≤ 16 →
            (s.ev.staging = [] → s.scan.held = none →
              exec (.ownAccessStart τ) { s with path := { s.path with ownq := rest } } = .next t) ∧
            (∀ e more, s.ev.staging = e :: more → s.ev.staging.length ≤ 8 →
              exec (.ownAccessStart τ) { s with
                path := { s.path with ownq := rest ++ [{ item := .event e }] }
                ev := { s.ev with staging := more } } = .next t)) ∧
        (s.store.ready = false ∨ whole →
          (∀ l, s.path.preempted = none ∨ s.path.preempted = some .load → s.store.load = some l →
            starts { kind := .load, addr := s.loadAddr l, data := [] } s.path.ownq t) ∧
          (s.path.preempted = none → s.store.load = none →
            s.store.ready = false ∨ s.configured = false ∨ s.path.ownq = [] ∧ s.nextMark = none →
            SameBut [] s t)) ∧
        (s.store.ready = true → s.configured = true → whole →
          (∀ p : Fin 48, s.path.preempted = some (.image p) → starts (image p) s.path.ownq t) ∧
          (∀ (m : Meas) (begun : Bool) (rest : List OwnEntry), s.path.preempted = some .meas →
            s.path.ownq = { item := .meas m, begun := begun } :: rest →
            starts (meas m) ({ item := .meas m, begun := true } :: rest) t) ∧
          (∀ (e : Event) (begun : Bool) (rest : List OwnEntry), s.path.preempted = some .event →
            s.path.ownq = { item := .event e, begun := begun } :: rest →
            starts (event e) ({ item := .event e, begun := true } :: rest) t) ∧
          (s.path.preempted = some .inst → starts inst s.path.ownq t) ∧
          (s.path.preempted = none → s.store.load = none →
            (∀ (m : Meas) (begun : Bool) (rest : List OwnEntry), queueFirst →
              s.path.ownq = { item := .meas m, begun := begun } :: rest →
              starts (meas m) ({ item := .meas m, begun := true } :: rest) t) ∧
            (∀ (e : Event) (begun : Bool) (rest : List OwnEntry), queueFirst →
              s.path.ownq = { item := .event e, begun := begun } :: rest →
              starts (event e) ({ item := .event e, begun := true } :: rest) t) ∧
            (∀ p : Fin 48, markFirst → s.nextMark = some (.port p) → starts (image p) s.path.ownq t) ∧
            (markFirst → s.nextMark = some .inst → starts inst s.path.ownq t))))) ∧
  ∀ s : State,
    let place (m : MarkId) : Nat := match m with
      | .inst => 0
      | .port p => p.val + 1
    let set (m : MarkId) : Prop := match m with
      | .inst => s.path.dirtyInst = true
      | .port p => s.path.dirty.get p = true
    let after (m : MarkId) := (place m + 48 - place s.path.lastMark) % 49
    (s.nextMark = none ↔ ∀ m, ¬set m) ∧
    ∀ m, (s.nextMark = some m ↔ set m ∧ ∀ k, set k → after m ≤ after k)

/-- R55, R59, R131, R135, R165 and R167: a completed own write places its bytes and no other. A record leaves the
queue, its index moves once, and the staging head takes the place, else the held result, with which the scanner
leaves PAUSED; a mark clears unless it was set again after the content was taken; the part-owned bytes enter the
installation image. While the select is stuck the link goes back to STUCK. -/
def Obligations.OwnWriteCompletes : Prop :=
  ∀ (τ : Nat) (o : Own) (s : State), s.line = .released → s.MemOk → s.path.own = some o →
    s.path.link = .own → o.void = false →
    let now := max s.clock τ
    let link : LinkState := if s.path.txn.any (·.stuck) then .stuck else .idle
    let written (t : State) : Prop := t.clock = now ∧ t.mem = s.mem.writeBytes o.addr o.data ∧
      (∀ a, a < o.addr ∨ o.addr + o.data.length ≤ a → t.mem.read a = s.mem.read a) ∧
      t.path.own = none ∧ t.path.link = link
    let moved (t : State) : Prop :=
      (∀ m, s.ev.staging = [] → s.scan.held = some m → s.scan.startUp = false →
        s.path.ownq.length ≤ 16 → s.path.ownq ≠ [] →
        t.path.ownq = s.path.ownq.drop 1 ++ [{ item := .meas m }] ∧ t.ev.staging = [] ∧
        s.SweepGoesOn now t.scan) ∧
      (s.ev.staging = [] → s.scan.held = none → t.path.ownq = s.path.ownq.drop 1 ∧ t.ev.staging = []) ∧
      (∀ e rest, s.ev.staging = e :: rest → s.path.ownq.length ≤ 16 → s.path.ownq ≠ [] →
        t.path.ownq = s.path.ownq.drop 1 ++ [{ item := .event e }] ∧ t.ev.staging = rest ∧
        t.scan.held = s.scan.held)
    (o.kind = .meas → 0 < s.measN →
      ∃ t, exec (.measRecordWriteComplete τ) s = .next t ∧ written t ∧ moved t ∧
        t.scan.measIdx = (s.scan.measIdx + 1) % s.measN ∧
        t.path.dirtyInst = (s.configured || s.path.dirtyInst) ∧ t.path.turn = .marks ∧
        t.path.dirty = s.path.dirty ∧ SameBut [.scan, .ev, .path, .mem] s t) ∧
    (o.kind = .event → 0 < s.ringN →
      ∃ t, exec (.eventRecordWriteComplete τ) s = .next t ∧ written t ∧ moved t ∧
        t.ev.w = (s.ev.w + 1) % s.ringM ∧
        t.ev.r = (if s.unread = s.ringN then (s.ev.r + 1) % s.ringM else s.ev.r) ∧
        (∀ e begun rest, s.path.ownq = { item := .event e, begun := begun } :: rest →
          t.ev.newest = if e.kind.attention then some s.ev.w else s.ev.newest) ∧
        t.ev.alert = t.alertLevel ∧ t.ev.lastKind = s.ev.lastKind ∧
        t.path.dirtyInst = (s.configured || s.path.dirtyInst) ∧ t.path.turn = .marks ∧
        t.path.dirty = s.path.dirty ∧ SameBut [.scan, .ev, .path, .mem] s t) ∧
    (∀ p : Fin 48, o.kind = .image p →
      ∃ t, exec (.portImageWriteComplete τ) s = .next t ∧ written t ∧
        t.path = { s.path with
          own := none, link := link, turn := .queue, lastMark := .port p
          dirty := s.path.dirty.set p (s.path.dirty.get p && o.redirty) } ∧
        SameBut [.path, .mem] s t) ∧
    (o.kind = .inst →
      ∃ t, exec (.installationWriteComplete τ) s = .next t ∧ written t ∧
        t.path = { s.path with
          own := none, link := link, turn := .queue, lastMark := .inst
          dirtyInst := s.path.dirtyInst && o.redirty
          inst := s.path.inst.map fun m => m.writeBytes 3 o.data } ∧
        SameBut [.path, .mem] s t)

/-- R152, R153, R156 and R157: a plan-load read enters its bytes into the part being read. The first 64 bytes of the
installation block go to a buffer, the map still unknown (log 15); with the other 64 the map becomes known, the
active bank follows the block, and the load goes on with the banks that are there. The last read of a bank with
another still to come goes on with that one. The read that completes the last part ends the load (`LoadEnded`): the
last bank's last read, or the installation block's where the part is unconfigured or holds no bank; a reload, with
no reset, ends in the same way but for what R157 leaves out. A switch held to the end of the load is taken there
(R147, R153): applied, or in OUTAGE or RESERVE with the latch clear still pending. The order of the end is log 39,
the events of a reload log 38, the counters log 13, the wait in a reload log 25; that the bytes of a STUCK write
still open are not judged with the banks is the model's choice of log 65. -/
def Obligations.PlanLoadReadFillsAndEnds : Prop :=
  ∀ (τ : Nat) (o : Own) (l : Load) (s : State), s.line = .released → s.path.own = some o →
    o.kind = .load → o.data = [] → o.void = false → s.path.link = .own → s.store.load = some l →
    (∀ x, s.path.txn = some x → x.stuck = false) →
    let now := max s.clock τ
    let read := { s.path with own := none, link := .idle }
    let ends (t : State) : Prop := s.test.run = none → s.store.ready = !l.cause.isReset →
      (s.store.target = none →
        ∃ u, t = (if l.cause.isReset then u else u.runRound) ∧ u.clock = now ∧ LoadEnded l.cause s u) ∧
      (∀ target, s.store.target = some target → s.phase.qual = .stopped →
        ∃ u w : State, t = (if l.cause.isReset then w else w.runRound) ∧ w.clock = now ∧
          LoadEnded l.cause s u ∧
          let v := { u with store := { u.store with target := some target } }
          (u.scan.thermal = s.scan.thermal →
            (s.phase.phase.active = true ∧ s.scan.latch = false → w = v) ∧
            (s.phase.phase.active = false ∨ s.scan.latch = true → State.SwitchApplied target v w)))
    ∃ t, exec (.planLoadReadComplete τ) s = .next t ∧ t.clock = now ∧ t.mem = s.mem ∧
      (∀ rest, l.todo = .inst :: rest → l.off = 0 →
        t.path = { read with instBuf := s.path.instBuf.writeBytes 0 (s.mem.readBytes o.addr 64) } ∧
        t.store = { s.store with load := some { l with off := 64 } } ∧ SameBut [.store, .path] s t) ∧
      (∀ rest, l.todo = .inst :: rest → l.off = 64 →
        let image := s.path.instBuf.writeBytes 64 (s.mem.readBytes o.addr 64)
        let banks := [Bank.a, Bank.b].filter fun c => (t.bankRegion c).isSome
        t.path.inst = some image ∧ t.path.instBuf = [] ∧ t.configured = instValid image.num ∧
        (t.configured = false → banks = []) ∧
        (l.cause.isReset = true → s.path.inst = none → s.store.ready = false → banks ≠ [] →
          t.store = { s.store with
            active := if s.store.activeFormed then s.store.active else t.namedBank
            load := some { l with todo := banks.map .bank, off := 0 } } ∧
          t.path = { read with inst := some image, instBuf := [] } ∧
          t.phase = { s.phase with qual := t.phase.qual } ∧ SameBut [.phase, .store, .path] s t) ∧
        (s.path.inst = some image → banks ≠ [] →
          t.store = { s.store with load := some { l with todo := banks.map .bank, off := 0 } } ∧
          t.path = { read with instBuf := [] } ∧ SameBut [.store, .path] s t) ∧
        (banks = [] → l.cause.isReset = true ∧ s.path.inst = none ∨ s.path.inst = some image → ends t)) ∧
      (∀ (which : Bank) (rest : List LoadPart), l.todo = .bank which :: rest → l.off + 64 < 992 →
        (t.bank which).image =
          (s.bank which).image.writeBytes l.off (s.mem.readBytes o.addr 64) ∧
        t.store.load = some { l with off := l.off + 64 } ∧ t.store.plan = s.store.plan ∧
        t.path = read ∧ SameBut [.store, .path] s t) ∧
      (∀ (which : Bank) (next : LoadPart) (rest : List LoadPart),
        l.todo = .bank which :: next :: rest → l.off = 960 →
        (t.bank which).image =
          (s.bank which).image.writeBytes 960 (s.mem.readBytes o.addr 32) ∧
        (∀ c, c ≠ which → t.bank c = s.bank c) ∧
        t.store.load = some { l with todo := next :: rest, off := 0 } ∧
        t.store.plan = s.store.plan ∧ t.store.active = s.store.active ∧ t.path = read ∧
        SameBut [.store, .path] s t) ∧
      (∀ which : Bank, l.todo = [.bank which] → l.off = 960 →
        (s.store.target = none → s.test.run = none → (t.bank which).image =
          (if s.bankRegion which = none then [] else
            (s.bank which).image.writeBytes 960 (s.mem.readBytes o.addr 32))) ∧ ends t)

/-- R155, R162, R151: the rise of SL_CS# ends the transaction; without a select there is none to end (log 4). A test
request or a read index whose bytes the transaction wrote is taken first (R121, R136, R161), as
`TestRequestRefusedByFirstCause` and `ReadIndexJudgedAgainstRing` say of the bytes stored, with no touch of the
window at this moment; the request before the index, and both before the bytes are handed on, is the model's choice
of log 24, and that a byte of R not written is taken from R as it stands now that of log 21; said where no bank
switch is pending. Bytes outside the installation block and the plan regions, and once the phase has left MAINS
those open only there, are handed to nobody. Standby bank: its image takes the bytes, it is revalidated, the plan in
use stays. Active bank in MAINS: the plan in use is edited, replaced by the built-in plan (R145) or taken up again,
with its event, and the change is carried (`PlanCarried`; counters, log 13), also where all bytes placed are unused
ones of the bank (log 67); out of MAINS its bytes are not handed on, also those that a switch has taken (R162; log
54). Installation block, where no load runs and no bank switch is
pending: the image takes the bytes, and where it changes, the region map (R156), segments and population (R21, R22),
Cap (R74), thermal settings (R60) and ring indexes (R59, R137) follow; it takes part-owned bytes as they were placed,
also from a STUCK transaction after a newer own write (log 66); a part made configured loads its plans again,
a configured one does where a plan region has moved (R157), else both banks are revalidated and the plan in use goes
by the active bank; a part made unconfigured holds no own work and owes no preempted access (R157), and without a
load keeps its active bank (log 23). -/
def Obligations.TransactionEndHandsBytesOn : Prop :=
  ∀ (τ : Nat) (s : State), s.line = .released →
    let now := max s.clock τ
    let link : LinkState := if s.path.own = none then .idle else .own
    let closed := { s.path with csLow := false, csSince := now, link := link, txn := none }
    let shut := { s with path := closed }
    (s.path.csLow = false → ∃ t, exec (.transactionEnd τ) s = .next t ∧ t.clock = now ∧
      SameBut [] s t) ∧
    (s.path.csLow = true → s.path.txn = none → ∃ t, exec (.transactionEnd τ) s = .next t ∧
      t.clock = now ∧ t.path = { s.path with csLow := false, csSince := now } ∧ SameBut [.path] s t) ∧
    (∀ (x : Txn) (port : Byte), s.path.csLow = true → s.path.txn = some x → s.store.target = none →
      port.toNat = s.test.req.port → ∃ u w : State,
        let kept (v : State) : State := { v with test := { v.test with lapse := s.test.lapse } }
        (x.reqWritten = true → exec (.testRequest τ (some port) none none) shut = .next u) ∧
        (x.reqWritten = false → u = { shut with clock := now }) ∧
        (x.rdLo.isSome || x.rdHi.isSome → exec (.readIndexWrite τ x.rdLo x.rdHi) (kept u) = .next w) ∧
        (x.rdLo = none → x.rdHi = none → w = u) ∧
        exec (.transactionEnd τ) s = exec (.transactionEnd τ) { kept w with path := { w.path with
          csLow := true, link := s.path.link
          txn := some { x with reqWritten := false, rdLo := none, rdHi := none } } }) ∧
    ∀ x, s.path.csLow = true → s.path.txn = some x → x.reqWritten = false → x.rdLo = none →
      x.rdHi = none →
      (x.cmd ≠ some .write ∨ (∀ y ∈ x.placed, y.locked = true ∧ s.phase.phase ≠ .mains ∨ 128 ≤ y.addr ∧
          ∀ (k : Bank) (r : Region), s.bankRegion k = some r → ¬(r.lo ≤ y.addr ∧ y.addr < r.hi)) →
        ∃ u : State, exec (.transactionEnd τ) s = .next u.runRound ∧ u.clock = now ∧
          u.path = closed ∧ SameBut [.path] s u) ∧
      (∀ (k : Bank) (r : Region), x.cmd = some .write → s.store.ready = true → s.store.load = none →
        s.bankRegion k = some r → x.placed ≠ [] →
        (∀ y ∈ x.placed, (y.locked = false ∨ s.phase.phase = .mains) ∧ 128 ≤ y.addr ∧
          r.lo ≤ y.addr ∧ y.addr < r.hi ∧
          ∀ (c : Bank) (q : Region), c ≠ k → s.bankRegion c = some q →
            ¬(q.lo ≤ y.addr ∧ y.addr < q.hi)) →
        let info := State.validated
          (s.setBank k { s.bank k with image := imageTake (s.bank k).image r.lo x.placed }) k
        let carried (plan : PlanUse) (kind : EventKind) (v : Int) (cause : Nat) (u : State) : Prop :=
          u.store.plan = plan ∧ PlanCarried shut u ∧
          Raised kind k.code v cause plan.tag { shut with ev := { s.ev with edges := u.ev.edges } } u ∧
          QueueAndMarks shut u ∧
          SameBut [.ports, .scan, .acct, .sched, .test, .ev, .store, .path] s u
        ∃ u : State, exec (.transactionEnd τ) s = .next u.runRound ∧ u.clock = now ∧
          u.store.active = s.store.active ∧ (∀ c, c ≠ k → u.bank c = s.bank c) ∧
          (k = s.store.active → s.phase.phase ≠ .mains → u.path = closed ∧ SameBut [.path] s u) ∧
          (k ≠ s.store.active ∨ s.phase.phase = .mains → u.bank k = info) ∧
          (k ≠ s.store.active →
            u.path = closed ∧ u.store.plan = s.store.plan ∧ SameBut [.store, .path] s u) ∧
          (k = s.store.active → s.phase.phase = .mains → (∀ y ∈ x.placed, y.addr < r.lo + 992) →
            (info.validity = .valid → s.store.plan ≠ .builtIn →
              carried (.bank k info.image) .bankSwitch k.code 2 u) ∧
            (info.validity = .valid → s.store.plan = .builtIn →
              carried (.bank k info.image) .bankSwitch 2 3 u) ∧
            (info.validity ≠ .valid → s.store.plan ≠ .builtIn →
              carried .builtIn .bankRefused (info.item.getD 0) 3 u) ∧
            (info.validity ≠ .valid → s.store.plan = .builtIn →
              u.path = closed ∧ u.store.plan = .builtIn ∧ SameBut [.store, .path] s u))) ∧
      (∀ m, x.cmd = some .write → s.store.ready = true → s.store.load = none → s.store.target = none →
        s.path.inst = some m →
        (∀ y ∈ x.placed, (y.locked = false ∨ s.phase.phase = .mains) ∧ y.addr < 128) →
        let image := instTake m x.placed
        ∃ u : State, exec (.transactionEnd τ) s = .next u.runRound ∧ u.clock = now ∧ u.mem = s.mem ∧
          u.path.inst = some image ∧ u.path.csLow = false ∧ u.path.txn = none ∧
          (image = m → u.path = closed ∧ SameBut [.path] s u) ∧
          (image ≠ m →
            let moved := u.region .planA ≠ s.region .planA ∨ u.region .planB ≠ s.region .planB
            let reload := u.configured = true ∧ (s.configured = false ∨ moved)
            let cause : LoadCause := if s.configured then .remapped else .configured
            u.segBounds = u.instBounds ∧ (∀ p, (u.port p).action = .off ↔ u.populated p = false) ∧
            u.acct.cap = u.instCapNow ∧ u.scan.cfg = u.instThermalNow ∧
            (u.region .meas = none → u.scan.held = none) ∧
            u.scan.measIdx = (if 0 < u.measN ∧ u.measN ≠ s.measN ∧ u.measN ≤ s.scan.measIdx then 0
              else s.scan.measIdx) ∧
            (u.ringN = s.ringN → u.ev.w = s.ev.w ∧ u.ev.r = s.ev.r ∧ u.ev.newest = s.ev.newest) ∧
            (u.ringN ≠ s.ringN → 0 < u.ringN → u.ev.w = 0 ∧ u.ev.r = 0 ∧ u.ev.newest = none) ∧
            (u.ringN ≠ s.ringN → u.ringN = 0 → u.ev.staging = [] ∧
              ∀ z ∈ u.path.ownq, z.isEvent = false) ∧
            (reload → u.store = { s.store with
              load := some { cause := cause, todo := [.inst], off := 0 } }) ∧
            (¬reload → u.store.load = none ∧ u.store.ready = true ∧ u.store.active = s.store.active ∧
              (∀ c, u.bank c = u.validated c ∧
                (u.bank c).image = if u.bankRegion c = none then [] else (s.bank c).image) ∧
              u.store.plan = if (u.bank u.store.active).validity ≠ .valid then .builtIn
                else if s.store.plan = .builtIn then .bank u.store.active (u.bank u.store.active).image
                else s.store.plan) ∧
            (s.configured = true → u.configured = false → u.path.ownq = [] ∧ u.path.preempted = none ∧
              u.path.dirtyInst = false ∧ ∀ p, u.path.dirty.get p = false)))
end

