-- ==== Sys2Proof/Laws/State.lean ====
section
/-! SUPPORT. What each small update of the state does to each field a later proof reads. -/

namespace Sys2Proof.Machine

variable (s : State) (p q : Fin 48) (x : Port) (t : Nat)

/-! ## A port's record replaced -/

@[simp] theorem port_setPort_same : (s.setPort p x).port p = x := by
  simp [State.port, State.setPort]

@[simp] theorem port_setPort_ne (h : q ≠ p) : (s.setPort p x).port q = s.port q := by
  simp [State.port, State.setPort, h]

theorem port_setPort : (s.setPort p x).port q = if q = p then x else s.port q := by
  by_cases h : q = p
  · subst h; simp
  · simp [h]

@[simp] theorem setPort_line : (s.setPort p x).line = s.line := rfl
@[simp] theorem setPort_clock : (s.setPort p x).clock = s.clock := rfl
@[simp] theorem setPort_phase : (s.setPort p x).phase = s.phase := rfl
@[simp] theorem setPort_segBounds : (s.setPort p x).segBounds = s.segBounds := rfl
@[simp] theorem setPort_gate : (s.setPort p x).gate = s.gate := rfl
@[simp] theorem setPort_scan : (s.setPort p x).scan = s.scan := rfl
@[simp] theorem setPort_acct : (s.setPort p x).acct = s.acct := rfl
@[simp] theorem setPort_sched : (s.setPort p x).sched = s.sched := rfl
@[simp] theorem setPort_test : (s.setPort p x).test = s.test := rfl
@[simp] theorem setPort_ev : (s.setPort p x).ev = s.ev := rfl
@[simp] theorem setPort_store : (s.setPort p x).store = s.store := rfl
@[simp] theorem setPort_path : (s.setPort p x).path = s.path := rfl
@[simp] theorem setPort_mem : (s.setPort p x).mem = s.mem := rfl
@[simp] theorem setPort_pending : (s.setPort p x).pending = s.pending := rfl

/-! ## Time moved on -/

@[simp] theorem advance_port : (s.advance t).port p = s.port p := rfl
@[simp] theorem advance_line : (s.advance t).line = s.line := rfl
@[simp] theorem advance_clock : (s.advance t).clock = max s.clock t := rfl
@[simp] theorem advance_phase : (s.advance t).phase = s.phase := rfl
@[simp] theorem advance_ports : (s.advance t).ports = s.ports := rfl
@[simp] theorem advance_segBounds : (s.advance t).segBounds = s.segBounds := rfl
@[simp] theorem advance_gate : (s.advance t).gate = s.gate := rfl
@[simp] theorem advance_scan : (s.advance t).scan = s.scan := rfl
@[simp] theorem advance_acct : (s.advance t).acct = s.acct := rfl
@[simp] theorem advance_sched : (s.advance t).sched = s.sched := rfl
@[simp] theorem advance_test : (s.advance t).test = s.test := rfl
@[simp] theorem advance_ev : (s.advance t).ev = s.ev := rfl
@[simp] theorem advance_store : (s.advance t).store = s.store := rfl
@[simp] theorem advance_path : (s.advance t).path = s.path := rfl
@[simp] theorem advance_mem : (s.advance t).mem = s.mem := rfl
@[simp] theorem advance_fresh : (s.advance t).fresh = s.fresh := rfl
@[simp] theorem advance_pending : (s.advance t).pending = s.pending := rfl

/-! ## A dirty mark set (R43) -/

@[simp] theorem markPort_port : (s.markPort q).port p = s.port p := rfl
@[simp] theorem markPort_ports : (s.markPort q).ports = s.ports := rfl
@[simp] theorem markPort_line : (s.markPort q).line = s.line := rfl
@[simp] theorem markPort_clock : (s.markPort q).clock = s.clock := rfl
@[simp] theorem markPort_phase : (s.markPort q).phase = s.phase := rfl
@[simp] theorem markPort_segBounds : (s.markPort q).segBounds = s.segBounds := rfl
@[simp] theorem markPort_gate : (s.markPort q).gate = s.gate := rfl
@[simp] theorem markPort_scan : (s.markPort q).scan = s.scan := rfl
@[simp] theorem markPort_acct : (s.markPort q).acct = s.acct := rfl
@[simp] theorem markPort_sched : (s.markPort q).sched = s.sched := rfl
@[simp] theorem markPort_test : (s.markPort q).test = s.test := rfl
@[simp] theorem markPort_ev : (s.markPort q).ev = s.ev := rfl
@[simp] theorem markPort_store : (s.markPort q).store = s.store := rfl
@[simp] theorem markPort_mem : (s.markPort q).mem = s.mem := rfl
@[simp] theorem markPort_pending : (s.markPort q).pending = s.pending := rfl


/-! ## The feed enable read at a round start (R91), the thermal settings taken (R60) -/

@[simp] theorem readFeedEnable_port : s.readFeedEnable.port p = s.port p := rfl
@[simp] theorem readFeedEnable_phase : s.readFeedEnable.phase = s.phase := rfl
@[simp] theorem readFeedEnable_gate : s.readFeedEnable.gate = s.gate := rfl
@[simp] theorem readFeedEnable_scan : s.readFeedEnable.scan = s.scan := rfl
@[simp] theorem readFeedEnable_acct : s.readFeedEnable.acct = s.acct := rfl
@[simp] theorem readFeedEnable_test : s.readFeedEnable.test = s.test := rfl
@[simp] theorem readFeedEnable_ev : s.readFeedEnable.ev = s.ev := rfl
@[simp] theorem readFeedEnable_store : s.readFeedEnable.store = s.store := rfl
@[simp] theorem readFeedEnable_path : s.readFeedEnable.path = s.path := rfl
@[simp] theorem readFeedEnable_mem : s.readFeedEnable.mem = s.mem := rfl
@[simp] theorem readFeedEnable_pending : s.readFeedEnable.pending = s.pending := rfl
@[simp] theorem readFeedEnable_queue : s.readFeedEnable.sched.queue = s.sched.queue := rfl
@[simp] theorem readFeedEnable_slots : s.readFeedEnable.sched.slots = s.sched.slots := rfl
@[simp] theorem readFeedEnable_dry : s.readFeedEnable.sched.dry = !s.header.feedEnable := rfl
@[simp] theorem takeThermal_port : s.takeThermal.port p = s.port p := rfl
@[simp] theorem takeThermal_phase : s.takeThermal.phase = s.phase := rfl
@[simp] theorem takeThermal_gate : s.takeThermal.gate = s.gate := rfl
@[simp] theorem takeThermal_acct : s.takeThermal.acct = s.acct := rfl
@[simp] theorem takeThermal_sched : s.takeThermal.sched = s.sched := rfl
@[simp] theorem takeThermal_test : s.takeThermal.test = s.test := rfl
@[simp] theorem takeThermal_ev : s.takeThermal.ev = s.ev := rfl
@[simp] theorem takeThermal_store : s.takeThermal.store = s.store := rfl
@[simp] theorem takeThermal_path : s.takeThermal.path = s.path := rfl
@[simp] theorem takeThermal_mem : s.takeThermal.mem = s.mem := rfl
@[simp] theorem takeThermal_pending : s.takeThermal.pending = s.pending := rfl
@[simp] theorem takeThermal_thermalCfg : s.takeThermal.thermalCfg = s.instThermalNow := rfl
@[simp] theorem takeThermal_values : s.takeThermal.scan.values = s.scan.values := rfl
@[simp] theorem takeThermal_thermal : s.takeThermal.scan.thermal = s.scan.thermal := rfl
@[simp] theorem takeThermal_latch : s.takeThermal.scan.latch = s.scan.latch := rfl

/-! ## An event raised (R129) -/

variable (kind : EventKind) (subject : Nat) (value : Int) (cause tag : Nat)

@[simp] theorem raiseTagged_port : (s.raiseTagged kind subject value cause tag).port p = s.port p := rfl
@[simp] theorem raiseTagged_ports : (s.raiseTagged kind subject value cause tag).ports = s.ports := rfl
@[simp] theorem raiseTagged_phase : (s.raiseTagged kind subject value cause tag).phase = s.phase := rfl
@[simp] theorem raiseTagged_gate : (s.raiseTagged kind subject value cause tag).gate = s.gate := rfl
@[simp] theorem raiseTagged_scan : (s.raiseTagged kind subject value cause tag).scan = s.scan := rfl
@[simp] theorem raiseTagged_acct : (s.raiseTagged kind subject value cause tag).acct = s.acct := rfl
@[simp] theorem raiseTagged_sched : (s.raiseTagged kind subject value cause tag).sched = s.sched := rfl
@[simp] theorem raiseTagged_test : (s.raiseTagged kind subject value cause tag).test = s.test := rfl
@[simp] theorem raiseTagged_store : (s.raiseTagged kind subject value cause tag).store = s.store := rfl
@[simp] theorem raiseTagged_mem : (s.raiseTagged kind subject value cause tag).mem = s.mem := rfl
@[simp] theorem raiseTagged_pending :
    (s.raiseTagged kind subject value cause tag).pending = s.pending := rfl
@[simp] theorem raiseTagged_lastKind :
    (s.raiseTagged kind subject value cause tag).ev.lastKind = some kind := rfl
@[simp] theorem raise_port : (s.raise kind subject value cause).port p = s.port p := rfl
@[simp] theorem raise_ports : (s.raise kind subject value cause).ports = s.ports := rfl
@[simp] theorem raise_phase : (s.raise kind subject value cause).phase = s.phase := rfl
@[simp] theorem raise_gate : (s.raise kind subject value cause).gate = s.gate := rfl
@[simp] theorem raise_scan : (s.raise kind subject value cause).scan = s.scan := rfl
@[simp] theorem raise_acct : (s.raise kind subject value cause).acct = s.acct := rfl
@[simp] theorem raise_sched : (s.raise kind subject value cause).sched = s.sched := rfl
@[simp] theorem raise_test : (s.raise kind subject value cause).test = s.test := rfl
@[simp] theorem raise_store : (s.raise kind subject value cause).store = s.store := rfl
@[simp] theorem raise_mem : (s.raise kind subject value cause).mem = s.mem := rfl
@[simp] theorem raise_pending : (s.raise kind subject value cause).pending = s.pending := rfl
@[simp] theorem raise_lastKind : (s.raise kind subject value cause).ev.lastKind = some kind := rfl

end Sys2Proof.Machine
end

