-- ==== Sys2Proof/Laws/Frame.lean ====
section
/-! SUPPORT. Three relations between the state before and after an operation, from the strongest to the
weakest: `Inner` (an operation inside a round start or a plan change), `Calm` (a running round going
on), `Outer` (anything but the memory path's own byte moves and the resets). -/

namespace Sys2Proof.Machine

/-! ## Views: the fields a relation keeps -/

/-- Lines, time, memory, free values and the waiting commands. -/
def State.outerView (s : State) :=
  (s.line, s.clock, s.mem, s.fresh, s.pending, s.path.csLow, s.path.csSince, s.path.slOut,
    s.phase.mainsOk)

/-- What no operation of a round or of a plan change touches. -/
def State.calmView (s : State) :=
  (s.phase, { s.acct with hold := false }, s.gate.hist, s.gate.last, s.segBounds,
    (s.scan.values, s.scan.ages, s.scan.thermal, s.scan.latch, s.scan.measIdx),
    (s.test.last, s.test.claim, s.test.lapse, s.test.req, s.test.minute),
    (s.ev.w, s.ev.r, s.ev.newest, s.ev.heldRd), (s.path.inst, s.path.link, s.path.mapLock),
    (s.store.ready, s.store.load))

/-- The round timer's own fields. -/
def State.roundView (s : State) := (s.sched.number, s.sched.timer, s.sched.startPending)

/-- What a round never touches in a port's record. -/
def Port.view (x : Port) := (x.status, x.cand, x.trips, x.feedSecs, x.lastTest)

/-! ## Relations -/

/-- A port's record under an operation of a round. -/
structure Port.Calm (x y : Port) : Prop where
  view : y.view = x.view
  out : x.OutOfService → y.action = x.action ∧ y.switch = x.switch
  ok : x.SwitchOk → y.SwitchOk

theorem Port.Calm.refl (x : Port) : Port.Calm x x := ⟨rfl, fun _ => ⟨rfl, rfl⟩, id⟩

theorem Port.Calm.trans {x y z : Port} (h : Port.Calm x y) (k : Port.Calm y z) : Port.Calm x z where
  view := k.view.trans h.view
  out hx := by
    have h1 := h.out hx
    have hy : y.OutOfService := by simpa [Port.OutOfService, h1.1] using hx
    exact ⟨(k.out hy).1.trans h1.1, (k.out hy).2.trans h1.2⟩
  ok hx := k.ok (h.ok hx)

/-- What every operation outside the memory path's byte moves and the resets keeps. -/
structure Outer (s t : State) : Prop where
  view : t.outerView = s.outerView
  spool : s.SpoolOk → t.SpoolOk
  latch : s.scan.latch = true → t.scan.latch = true
  lock : s.path.mapLock = true → t.path.mapLock = true
  level : s.phase.startLevel ≤ 100 → t.phase.startLevel ≤ 100
  ok : ∀ p, (s.port p).SwitchOk → (t.port p).SwitchOk

/-- What a round keeps. -/
structure Calm (s t : State) : Prop where
  view : t.outerView = s.outerView
  calm : t.calmView = s.calmView
  spool : s.SpoolOk → t.SpoolOk
  ports : ∀ p, Port.Calm (s.port p) (t.port p)

/-- What an operation inside a round start keeps. -/
structure Inner (s t : State) : Prop extends Calm s t where
  round : t.roundView = s.roundView

theorem Outer.refl (s : State) : Outer s s := ⟨rfl, id, id, id, id, fun _ => id⟩

theorem Outer.trans {s t u : State} (h : Outer s t) (k : Outer t u) : Outer s u :=
  ⟨k.view.trans h.view, k.spool ∘ h.spool, k.latch ∘ h.latch, k.lock ∘ h.lock, k.level ∘ h.level,
    fun p => k.ok p ∘ h.ok p⟩

theorem Calm.refl (s : State) : Calm s s := ⟨rfl, rfl, id, fun _ => .refl _⟩

theorem Calm.trans {s t u : State} (h : Calm s t) (k : Calm t u) : Calm s u :=
  ⟨k.view.trans h.view, k.calm.trans h.calm, k.spool ∘ h.spool, fun p => (h.ports p).trans (k.ports p)⟩

theorem Inner.refl (s : State) : Inner s s := ⟨.refl s, rfl⟩

theorem Inner.trans {s t u : State} (h : Inner s t) (k : Inner t u) : Inner s u :=
  ⟨h.toCalm.trans k.toCalm, k.round.trans h.round⟩

theorem Calm.outer {s t : State} (h : Calm s t) : Outer s t where
  view := h.view
  spool := h.spool
  latch hs := by
    have : t.scan.latch = s.scan.latch := congrArg (fun v => v.2.2.2.2.2.1.2.2.2.1) h.calm
    rw [this]; exact hs
  lock hs := by
    have : t.path.mapLock = s.path.mapLock := congrArg (fun v => v.2.2.2.2.2.2.2.2.1.2.2) h.calm
    rw [this]; exact hs
  level hs := by
    have : t.phase = s.phase := congrArg (fun v => v.1) h.calm
    rw [this]; exact hs
  ok p := (h.ports p).ok

theorem Inner.outer {s t : State} (h : Inner s t) : Outer s t := h.toCalm.outer

/-- Every relation here is kept along a fold. -/
theorem fold_keeps {α : Type} {R : State → State → Prop} (refl : ∀ s, R s s)
    (trans : ∀ {s t u}, R s t → R t u → R s u) (f : State → α → State) (l : List α)
    (h : ∀ s a, R s (f s a)) : ∀ s, R s (l.foldl f s) := by
  induction l with
  | nil => exact refl
  | cons a rest ih => intro s; exact trans (h s a) (ih (f s a))

theorem Inner.fold {α : Type} {f : State → α → State} (l : List α) (h : ∀ s a, Inner s (f s a))
    (s : State) : Inner s (l.foldl f s) := fold_keeps Inner.refl Inner.trans f l h s

theorem Outer.fold {α : Type} {f : State → α → State} (l : List α) (h : ∀ s a, Outer s (f s a))
    (s : State) : Outer s (l.foldl f s) := fold_keeps Outer.refl Outer.trans f l h s

/-! ## Ways to show a relation -/

theorem ports_calm_of_eq {s t : State} (h : t.ports = s.ports) (p : Fin 48) :
    Port.Calm (s.port p) (t.port p) := by
  have : t.port p = s.port p := by simp [State.port, h]
  rw [this]; exact .refl _

theorem SpoolOk.of_eq {s t : State} (h1 : t.path.ownq = s.path.ownq) (h2 : t.ev.staging = s.ev.staging)
    (h : s.SpoolOk) : t.SpoolOk := by
  simpa [State.SpoolOk, h1, h2] using h

/-- An update that touches neither the ports nor the queues nor a kept field. -/
theorem Inner.of_same {s t : State} (h1 : t.outerView = s.outerView) (h2 : t.calmView = s.calmView)
    (h3 : t.roundView = s.roundView) (h4 : t.ports = s.ports) (h5 : t.path.ownq = s.path.ownq)
    (h6 : t.ev.staging = s.ev.staging) : Inner s t :=
  ⟨⟨h1, h2, SpoolOk.of_eq h5 h6, ports_calm_of_eq h4⟩, h3⟩

theorem Calm.of_same {s t : State} (h1 : t.outerView = s.outerView) (h2 : t.calmView = s.calmView)
    (h4 : t.ports = s.ports) (h5 : t.path.ownq = s.path.ownq)
    (h6 : t.ev.staging = s.ev.staging) : Calm s t :=
  ⟨h1, h2, SpoolOk.of_eq h5 h6, ports_calm_of_eq h4⟩

theorem Outer.of_same {s t : State} (h1 : t.outerView = s.outerView) (h2 : t.scan.latch = s.scan.latch)
    (h3 : t.path.mapLock = s.path.mapLock) (h7 : t.phase.startLevel = s.phase.startLevel)
    (h4 : t.ports = s.ports) (h5 : t.path.ownq = s.path.ownq)
    (h6 : t.ev.staging = s.ev.staging) : Outer s t :=
  ⟨h1, SpoolOk.of_eq h5 h6, by rw [h2]; exact id, by rw [h3]; exact id, by rw [h7]; exact id,
    fun p => (ports_calm_of_eq h4 p).ok⟩

theorem setPort_inner {s : State} {p : Fin 48} {x : Port} (h : Port.Calm (s.port p) x) :
    Inner s (s.setPort p x) := by
  refine ⟨⟨rfl, rfl, SpoolOk.of_eq rfl rfl, fun q => ?_⟩, rfl⟩
  by_cases hq : q = p
  · subst hq; simpa using h
  · simpa [hq] using Port.Calm.refl _

theorem setPort_outer {s : State} {p : Fin 48} {x : Port} (h : (s.port p).SwitchOk → x.SwitchOk) :
    Outer s (s.setPort p x) := by
  refine ⟨rfl, SpoolOk.of_eq rfl rfl, id, id, id, fun q => ?_⟩
  by_cases hq : q = p
  · subst hq; simpa using h
  · simp [hq]

/-- An open switch is allowed in every action state. -/
theorem SwitchOk.of_open {x : Port} (h : x.switch = false) : x.SwitchOk := by simp [Port.SwitchOk, h]

/-! ## Events and marks -/

theorem coalesceQueue_length (g : Nat) : ∀ (l m : List OwnEntry), coalesceQueue g l = some m →
    m.length = l.length := by
  intro l
  induction l with
  | nil => intro m h; simp [coalesceQueue] at h
  | cons x rest ih =>
    intro m h
    unfold coalesceQueue at h
    split at h
    · split at h
      · cases h; rfl
      · cases hr : coalesceQueue g rest with
        | none => simp [hr] at h
        | some r => simp [hr] at h; subst h; simp [ih r hr]
    · cases hr : coalesceQueue g rest with
      | none => simp [hr] at h
      | some r => simp [hr] at h; subst h; simp [ih r hr]

theorem coalesceStaging_length (g : Nat) : ∀ (l m : List Event), coalesceStaging g l = some m →
    m.length = l.length := by
  intro l
  induction l with
  | nil => intro m h; simp [coalesceStaging] at h
  | cons x rest ih =>
    intro m h
    unfold coalesceStaging at h
    split at h
    · cases h; rfl
    · cases hr : coalesceStaging g rest with
      | none => simp [hr] at h
      | some r => simp [hr] at h; subst h; simp [ih r hr]

theorem countLost_length (marker : Event) : ∀ l : List Event, (countLost marker l).length = l.length
  | [] => rfl
  | [tail] => by unfold countLost; split <;> rfl
  | e :: f :: rest => by simp [countLost, countLost_length marker (f :: rest)]

/-- A placed event leaves the queue at 16 entries or fewer and the staging list at 8 or fewer (R130). -/
theorem place_bounds (ringOpen : Bool) (marker e : Event) (x : Spool)
    (h1 : x.queue.length ≤ Config.queuePlaces) (h2 : x.staging.length ≤ Config.stagingPlaces) :
    (x.place ringOpen marker e).queue.length ≤ Config.queuePlaces ∧
      (x.place ringOpen marker e).staging.length ≤ Config.stagingPlaces := by
  unfold Spool.place
  split
  · exact ⟨h1, h2⟩
  · split
    · rename_i q hq
      split at hq
      · exact ⟨by rw [coalesceQueue_length _ _ _ hq]; exact h1, h2⟩
      · cases hq
    · split
      · rename_i st hst
        split at hst
        · exact ⟨h1, by rw [coalesceStaging_length _ _ _ hst]; exact h2⟩
        · cases hst
      · split
        · rename_i h; exact ⟨by simp; omega, h2⟩
        · split
          · exact ⟨h1, by simp; omega⟩
          · exact ⟨h1, by simpa [countLost_length] using h2⟩

theorem raiseTagged_inner (s : State) (kind : EventKind) (subject : Nat) (value : Int) (cause tag : Nat) :
    Inner s (s.raiseTagged kind subject value cause tag) :=
  ⟨⟨rfl, rfl, fun h => place_bounds _ _ _ _ h.1 h.2, fun _ => .refl _⟩, rfl⟩

theorem raise_inner (s : State) (kind : EventKind) (subject : Nat) (value : Int) (cause : Nat) :
    Inner s (s.raise kind subject value cause) := raiseTagged_inner ..

theorem reAlert_inner (s : State) : Inner s s.reAlert := .of_same rfl rfl rfl rfl rfl rfl

theorem markPort_inner (s : State) (p : Fin 48) : Inner s (s.markPort p) := .of_same rfl rfl rfl rfl rfl rfl

theorem markPortIf_inner (s : State) (c : Bool) (p : Fin 48) : Inner s (s.markPortIf c p) := by
  cases c
  · exact .refl s
  · exact markPort_inner s p

theorem markInst_inner (s : State) : Inner s s.markInst := .of_same rfl rfl rfl rfl rfl rfl

/-! ## Ports and the gate -/

theorem dequeue_inner (s : State) (p : Fin 48) : Inner s (s.dequeue p) := by
  unfold State.dequeue
  refine Inner.trans ?_ (markPortIf_inner _ _ _)
  exact .of_same rfl rfl rfl rfl rfl rfl

theorem emptyQueue_inner (s : State) : Inner s s.emptyQueue := Inner.fold _ dequeue_inner s

theorem unrequest_inner (s : State) (p : Fin 48) : Inner s (s.unrequest p) := .of_same rfl rfl rfl rfl rfl rfl

theorem resolve_inner (s : State) (i : Fin 4) (o : SlotOutcome) : Inner s (s.resolve i o) :=
  .of_same rfl rfl rfl rfl rfl rfl

theorem resolvePort_inner (s : State) (p : Fin 48) (o : SlotOutcome) : Inner s (s.resolvePort p o) := by
  unfold State.resolvePort
  split
  · exact resolve_inner _ _ _
  · exact .refl s

theorem leaveGate_inner (s : State) (p : Fin 48) : Inner s (s.leaveGate p) := by
  unfold State.leaveGate
  split
  · exact (unrequest_inner s p).trans (resolvePort_inner _ _ _)
  · exact unrequest_inner s p

theorem request_inner (s : State) (p : Fin 48) (kind : ReqKind) : Inner s (s.request p kind) :=
  .of_same rfl rfl rfl rfl rfl rfl

/-- A port that is in service may change its action with its switch open. -/
theorem Port.Calm.of_open {x y : Port} (hv : y.view = x.view) (hin : ¬x.OutOfService)
    (ho : y.switch = false) : Port.Calm x y :=
  ⟨hv, fun h => absurd h hin, fun _ => SwitchOk.of_open ho⟩

theorem endFeed_inner (s : State) (p : Fin 48) : Inner s (s.endFeed p) := by
  unfold State.endFeed
  dsimp only
  split
  · rename_i h
    have hin : ¬(s.port p).OutOfService := by simp [Port.OutOfService, h]
    refine Inner.trans ?_ (markPort_inner _ _)
    exact setPort_inner (.of_open rfl hin rfl)
  · exact .refl s

theorem endWake_inner (s : State) (p : Fin 48) : Inner s (s.endWake p) := by
  unfold State.endWake
  dsimp only
  split
  · rename_i h
    have hin : ¬(s.port p).OutOfService := by simp [Port.OutOfService, h]
    refine Inner.trans (Inner.trans ?_ (unrequest_inner _ _)) (markPort_inner _ _)
    exact setPort_inner (.of_open rfl hin rfl)
  · exact .refl s

theorem askRetry_inner (s : State) (p : Fin 48) : Inner s (s.askRetry p) := by
  unfold State.askRetry
  split
  · refine Inner.trans ?_ (request_inner _ _ _)
    exact setPort_inner ⟨rfl, fun _ => ⟨rfl, rfl⟩, id⟩
  · exact endWake_inner s p

theorem endFeeds_inner (s : State) : Inner s s.endFeeds := Inner.fold _ endFeed_inner s

theorem endWakes_inner (s : State) : Inner s s.endWakes := Inner.fold _ endWake_inner s

theorem startFeed_outer (s : State) (p : Fin 48) : Outer s (s.startFeed p) :=
  (setPort_outer fun _ _ => Or.inr (Or.inl rfl)).trans (markPort_inner _ _).outer

theorem startPulse_outer (s : State) (p : Fin 48) : Outer s (s.startPulse p) := by
  unfold State.startPulse
  dsimp only
  have h : Outer s ((s.setPort p { (s.port p).clearTimers with
      action := .waking, step := some .pulse, switch := true
      attempts := if (s.port p).action = .waking then (s.port p).attempts + 1 else 1
      pulse := some s.clock, answer := some s.clock }).markPort p) :=
    (setPort_outer fun _ _ => Or.inl rfl).trans (markPort_inner _ _).outer
  split
  · exact h.trans (endWake_inner _ _).outer
  · exact h

theorem bar_outer (s : State) (p : Fin 48) (cause : Nat) : Outer s (s.bar p cause) :=
  ((setPort_outer fun _ => SwitchOk.of_open rfl).trans (markPort_inner _ _).outer).trans
    (raise_inner ..).outer

theorem loadLimit_inner (s : State) (p : Fin 48) : Inner s (s.loadLimit p) :=
  setPort_inner ⟨rfl, fun _ => ⟨rfl, rfl⟩, id⟩

theorem loadLimits_inner (s : State) : Inner s s.loadLimits :=
  Inner.fold _ (fun s p => by split; exacts [.refl s, loadLimit_inner s p]) s

theorem goOff_outer (s : State) (p : Fin 48) : Outer s (s.goOff p) := by
  unfold State.goOff
  dsimp only
  have h := ((setPort_outer (s := s) (p := p) (x := { (s.port p).clearTimers.noCharge with
      action := .off, switch := false, fed := false, trips := 0, attempts := 0, cap := 0 })
      fun _ => SwitchOk.of_open rfl).trans (leaveGate_inner _ p).outer).trans (dequeue_inner _ p).outer
  split
  · exact h.trans (.of_same rfl rfl rfl rfl rfl rfl rfl)
  · exact h

theorem repopulate_outer (marking : Bool) (s : State) (p : Fin 48) :
    Outer s (s.repopulate marking p) := by
  unfold State.repopulate
  split
  · rename_i hoff
    split
    · refine Outer.trans (Outer.trans (setPort_outer ?_) (loadLimit_inner _ _).outer)
        (markPortIf_inner _ _ _).outer
      intro h hs
      have := h hs
      rw [hoff] at this
      simp at this
    · exact .refl s
  · split
    · exact .refl s
    · exact (goOff_outer s p).trans (markPortIf_inner _ _ _).outer

theorem rebuild_outer (s : State) (marking : Bool) : Outer s (s.rebuild marking) := by
  unfold State.rebuild
  have h : Outer s { s with segBounds := s.instBounds } := .of_same rfl rfl rfl rfl rfl rfl rfl
  exact h.trans (Outer.fold _ (repopulate_outer marking) _)

end Sys2Proof.Machine
end

