-- ==== Sys2Proof/Laws/FramePlans.lean ====
section
/-! SUPPORT. The relations of Laws/Frame.lean for the operations of the scanner, the accounting unit, the
plan store and the test unit. -/

namespace Sys2Proof.Machine

/-! ## Scanner -/

/-- What no trigger, stop or sweep step touches in the scanner. -/
def Scan.view (x : Scan) := (x.values, x.ages, x.thermal, x.latch, x.measIdx)

theorem Scan.afterChannel_view (x : Scan) (h : Header) (now : Nat) :
    (x.afterChannel h now).view = x.view := by
  unfold Scan.afterChannel; split <;> (try split) <;> rfl

theorem Scan.afterStartUp_view (x : Scan) (h : Header) (now : Nat) :
    (x.afterStartUp h now).view = x.view := by
  unfold Scan.afterStartUp; split <;> rfl

theorem Scan.trigger_view (x : Scan) (h : Header) (now : Nat) : (x.trigger h now).view = x.view := by
  unfold Scan.trigger; split <;> (try split) <;> rfl

/-- The scanner's record replaced by one that differs in its sweep alone. -/
theorem setScan_inner (s : State) {x : Scan} (h : x.view = s.scan.view) : Inner s { s with scan := x } := by
  have h1 : (x.values, x.ages, x.thermal, x.latch, x.measIdx)
      = (s.scan.values, s.scan.ages, s.scan.thermal, s.scan.latch, s.scan.measIdx) := h
  refine .of_same rfl ?_ rfl rfl rfl rfl
  simp only [State.calmView, h1]

theorem trigger_inner (s : State) (source : TrigSource) : Inner s (s.trigger source) := by
  unfold State.trigger
  refine setScan_inner s ?_
  split
  · exact Scan.trigger_view _ _ _
  · rfl

theorem stopScan_inner (s : State) : Inner s s.stopScan := by
  unfold State.stopScan
  refine setScan_inner s ?_
  split <;> rfl

theorem dropHeld_inner (s : State) : Inner s s.dropHeld := by
  unfold State.dropHeld
  refine setScan_inner s ?_
  split
  · exact Scan.afterChannel_view _ _ _
  · rfl

theorem scanPlan_inner (s : State) (old : PlanUse) : Inner s (s.scanPlan old) := by
  unfold State.scanPlan
  dsimp only
  refine setScan_inner s ?_
  split
  · rfl
  · split <;> rfl

theorem beginStartUp_inner (s : State) : Inner s s.beginStartUp := setScan_inner s rfl

/-- An entry joins a queue that has a place. -/
theorem joinQueue_spool {s : State} {e : OwnEntry} (h : s.path.ownq.length < Config.queuePlaces)
    (hs : s.SpoolOk) :
    ({ s with path := { s.path with ownq := s.path.ownq ++ [e] } } : State).SpoolOk :=
  ⟨by simp; omega, hs.2⟩

theorem joinQueue_inner {s : State} (e : OwnEntry) (h : s.path.ownq.length < Config.queuePlaces) :
    Inner s { s with path := { s.path with ownq := s.path.ownq ++ [e] } } :=
  ⟨⟨rfl, rfl, joinQueue_spool h, fun _ => .refl _⟩, rfl⟩

theorem dealResult_inner (s : State) (v : Int) : Inner s (s.dealResult v) := by
  unfold State.dealResult
  split
  · exact setScan_inner s (Scan.afterStartUp_view _ _ _)
  · split
    · dsimp only
      split
      · rename_i h
        exact (joinQueue_inner _ h).trans (setScan_inner _ (Scan.afterChannel_view s.scan _ _))
      · exact setScan_inner s rfl
    · exact setScan_inner s (Scan.afterChannel_view _ _ _)

theorem fillPlace_inner (s : State) : Inner s s.fillPlace := by
  unfold State.fillPlace
  split
  · rename_i h
    split
    · rename_i e rest he
      refine ⟨⟨rfl, rfl, fun hs => ⟨by simp; omega, ?_⟩, fun _ => .refl _⟩, rfl⟩
      have := hs.2
      rw [he] at this
      simp only [List.length_cons] at this
      dsimp only
      omega
    · split
      · exact (joinQueue_inner _ h).trans (setScan_inner _ (Scan.afterChannel_view s.scan _ _))
      · exact .refl s
  · exact .refl s

theorem takeReading_outer (s : State) (v : Int) : Outer s (s.takeReading v) := by
  unfold State.takeReading
  dsimp only
  have h : Outer s { s with scan := { s.scan with
      values := s.scan.values.set s.scan.pos v, ages := s.scan.ages.set s.scan.pos 0 } } :=
    .of_same rfl rfl rfl rfl rfl rfl rfl
  split
  · exact h.trans (markPortIf_inner _ _ _).outer
  · exact h

theorem ageChannels_outer (s : State) : Outer s s.ageChannels := by
  unfold State.ageChannels
  dsimp only
  refine Outer.trans ?_ (Outer.fold _ (fun x p => (markPortIf_inner x _ p).outer) _)
  exact .of_same rfl rfl rfl rfl rfl rfl rfl

/-! ## Accounting -/

/-- Charge fields alone. -/
theorem Port.Calm.charge {x y : Port} (hv : y.view = x.view) (ha : y.action = x.action)
    (hs : y.switch = x.switch) : Port.Calm x y :=
  ⟨hv, fun _ => ⟨ha, hs⟩, fun h => by simpa [Port.SwitchOk, ha, hs] using h⟩

theorem account_calm (pol : Policy) (m : Bool) (c : Nat) (x : Port) : Port.Calm x (pol.account m c x) := by
  unfold Policy.account Port.reckon
  split
  · exact .refl x
  · split <;> exact .charge rfl rfl rfl

theorem replan_calm (pol : Policy) (x : Port) : Port.Calm x (x.replan pol) := by
  unfold Port.replan Port.reckon
  split
  · exact .refl x
  · exact .charge rfl rfl rfl

/-- Every record replaced by one that a round may have made. -/
theorem setPorts_inner (s : State) {f : Fin 48 → Port} (h : ∀ p, Port.Calm (s.port p) (f p)) :
    Inner s { s with ports := Tab.ofFn f } :=
  ⟨⟨rfl, rfl, SpoolOk.of_eq rfl rfl, fun p => by simpa [State.port] using h p⟩, rfl⟩

theorem accountPorts_inner (s : State) : Inner s s.accountPorts := by
  unfold State.accountPorts
  dsimp only
  refine Inner.trans ?_ (Inner.fold _ (fun x p => markPortIf_inner x _ p) _)
  exact setPorts_inner s fun p => account_calm _ _ _ _

theorem replanPorts_inner (s : State) : Inner s s.replanPorts := by
  unfold State.replanPorts
  dsimp only
  refine Inner.trans ?_ (Inner.fold _ (fun x p => markPortIf_inner x _ p) _)
  exact setPorts_inner s fun p => replan_calm _ _

theorem accountQ_outer (s : State) : Outer s s.accountQ := .of_same rfl rfl rfl rfl rfl rfl rfl

theorem accountLoad_outer (s : State) : Outer s s.accountLoad := .of_same rfl rfl rfl rfl rfl rfl rfl

theorem reHold_inner (s : State) : Inner s s.reHold := .of_same rfl rfl rfl rfl rfl rfl

theorem feedSeconds_outer (s : State) : Outer s s.feedSeconds := by
  refine ⟨rfl, SpoolOk.of_eq rfl rfl, id, id, id, fun p h => ?_⟩
  have e : s.feedSeconds.port p = (s.port p).fedSecond := by simp [State.feedSeconds, State.port]
  rw [e]
  unfold Port.fedSecond
  split <;> exact h

theorem lowResync_inner (s : State) (p : Fin 48) : Inner s (s.lowResync p) := by
  unfold State.lowResync
  dsimp only
  refine Inner.trans ?_ (markPortIf_inner _ _ _)
  exact setPort_inner (.charge rfl rfl rfl)

theorem startQ_outer (s : State) : Outer s s.startQ := .of_same rfl rfl rfl rfl rfl rfl rfl

theorem lowerQ_outer (s : State) : Outer s s.lowerQ := .of_same rfl rfl rfl rfl rfl rfl rfl

theorem takeCap_outer (s : State) : Outer s s.takeCap := .of_same rfl rfl rfl rfl rfl rfl rfl

/-! ## Plan store -/

theorem setBank_inner (s : State) (which : Bank) (x : BankInfo) : Inner s (s.setBank which x) :=
  .of_same rfl rfl rfl rfl rfl rfl

theorem validateBank_inner (s : State) (which : Bank) : Inner s (s.validateBank which) := setBank_inner ..

theorem purge_inner (s : State) : Inner s s.purge := Inner.fold _ dequeue_inner s

theorem reorder_inner (s : State) : Inner s s.reorder := .of_same rfl rfl rfl rfl rfl rfl

theorem endLowestFeed_inner (s : State) : Inner s s.endLowestFeed := by
  unfold State.endLowestFeed
  split
  · exact endFeed_inner _ _
  · exact .refl s

theorem trimFeeds_inner (n : Nat) : ∀ s, Inner s (State.trimFeeds n s) := by
  induction n with
  | zero => exact Inner.refl
  | succ n ih =>
    intro s
    unfold State.trimFeeds
    split
    · exact (endLowestFeed_inner s).trans (ih _)
    · exact .refl s

theorem adjustRota_inner (s : State) : Inner s s.adjustRota := .of_same rfl rfl rfl rfl rfl rfl

theorem clearEdges_inner (s : State) : Inner s s.clearEdges := .of_same rfl rfl rfl rfl rfl rfl

/-- A change of the plan in use, carried to the blocks (R149), is an operation inside a round start. -/
theorem carry_inner (s : State) (old : PlanUse) : Inner s (s.carry old) := by
  unfold State.carry
  dsimp only
  refine Inner.trans ?_ (reHold_inner _)
  refine Inner.trans ?_ (clearEdges_inner _)
  refine Inner.trans ?_ (adjustRota_inner _)
  refine Inner.trans ?_ (scanPlan_inner _ _)
  refine Inner.trans ?_ (loadLimits_inner _)
  refine Inner.trans ?_ (trimFeeds_inner _ _)
  exact ((replanPorts_inner s).trans (purge_inner _)).trans (reorder_inner _)

theorem usePlan_inner (s : State) (plan : PlanUse) : Inner s (s.usePlan plan) :=
  .of_same rfl rfl rfl rfl rfl rfl

theorem raiseBuiltIn_inner (s : State) : Inner s s.raiseBuiltIn := raise_inner ..

theorem decidePlan_inner (s : State) (edited : Bool) : Inner s (s.decidePlan edited) := by
  unfold State.decidePlan
  dsimp only
  have switch : ∀ plan v c old, Inner s (((s.usePlan plan).raise .bankSwitch s.store.active.code v c).carry old) :=
    fun plan v c old => ((usePlan_inner s plan).trans (raise_inner ..)).trans (carry_inner _ _)
  have sub : ∀ old, Inner s (((s.usePlan .builtIn).raiseBuiltIn).carry old) :=
    fun old => ((usePlan_inner s .builtIn).trans (raiseBuiltIn_inner _)).trans (carry_inner _ _)
  split
  · split
    · exact switch _ _ _ _
    · split
      · exact switch _ _ _ _
      · exact .refl s
  · split
    · exact .refl s
    · exact sub _

theorem revalidate_inner (s : State) (which : Bank) (edited : Bool) :
    Inner s (s.revalidate which edited) := by
  unfold State.revalidate
  dsimp only
  split
  · exact (validateBank_inner s which).trans (decidePlan_inner _ _)
  · exact validateBank_inner s which

theorem takeForwarded_inner (s : State) (which : Bank) : Inner s (s.takeForwarded which) := by
  unfold State.takeForwarded
  split
  · exact setBank_inner ..
  · exact .refl s

theorem dropForwarded_inner (s : State) (which : Bank) : Inner s (s.dropForwarded which) := by
  unfold State.dropForwarded
  split
  · split
    · exact .refl s
    · exact .of_same rfl rfl rfl rfl rfl rfl
  · exact .refl s

theorem applySwitch_inner (s : State) (target : Bank) : Inner s (s.applySwitch target) := by
  unfold State.applySwitch
  dsimp only
  have h0 : Inner s { s with store := { s.store with target := none } } := .of_same rfl rfl rfl rfl rfl rfl
  split
  · exact h0
  · have h1 := (h0.trans (takeForwarded_inner _ target)).trans (validateBank_inner _ target)
    split
    · refine Inner.trans ?_ (carry_inner _ _)
      refine Inner.trans ?_ (raise_inner ..)
      refine Inner.trans ?_ (markInst_inner _)
      refine Inner.trans ?_ (dropForwarded_inner _ _)
      refine Inner.trans ?_ (usePlan_inner _ _)
      exact h1.trans (.of_same rfl rfl rfl rfl rfl rfl)
    · exact h1.trans (raise_inner ..)
    · exact h1.trans (raise_inner ..)

theorem applyTarget_inner (s : State) : Inner s s.applyTarget := by
  unfold State.applyTarget
  split
  · split
    · exact applySwitch_inner _ _
    · exact .refl s
  · exact .refl s

theorem takeSwitch_inner (s : State) (target : Bank) : Inner s (s.takeSwitch target) := by
  unfold State.takeSwitch
  split
  · exact .of_same rfl rfl rfl rfl rfl rfl
  · exact applySwitch_inner _ _

/-! ## Test unit -/

/-- Only a port in service is ready for a test (R112). -/
theorem readyFor_inService {s : State} {p : Fin 48} {kind : TestKind} (h : s.readyFor p kind = true) :
    ¬(s.port p).OutOfService := by
  cases kind <;> simp only [State.readyFor, Bool.and_eq_true, Bool.or_eq_true, decide_eq_true_eq] at h
  · rcases h.2 with h | h
    · simp [Port.OutOfService, h]
    · simp [Port.OutOfService, h.1]
  · simp [Port.OutOfService, h.1.1]
  · simp [Port.OutOfService, h]

theorem attach_inner {s : State} {p : Fin 48} {kind : TestKind} (h : ¬(s.port p).OutOfService) :
    Inner s (s.attach p kind) := by
  unfold State.attach
  dsimp only
  have h1 : Inner s (((s.setPort p { (s.port p).clearTimers with
      action := .testing, switch := decide (kind = .draw) && (s.port p).switch, fed := false }).markPort p).dequeue p) := by
    refine Inner.trans (Inner.trans ?_ (markPort_inner _ _)) (dequeue_inner _ _)
    exact setPort_inner ⟨rfl, fun ho => absurd ho h, fun _ _ => Or.inr (Or.inr rfl)⟩
  split
  · exact (h1.trans (unrequest_inner _ _)).trans (resolvePort_inner _ _ _)
  · exact h1

theorem startTest_inner {s : State} {p : Fin 48} {kind : TestKind} (sup : Bool) (minutes : Nat)
    (rota : Option (Fin 16)) (h : ¬(s.port p).OutOfService) :
    Inner s (s.startTest p kind sup minutes rota) := by
  unfold State.startTest
  dsimp only
  split
  · refine Inner.trans ?_ (request_inner _ _ _)
    exact (attach_inner h).trans (.of_same rfl rfl rfl rfl rfl rfl)
  · exact (attach_inner h).trans (.of_same rfl rfl rfl rfl rfl rfl)

theorem detach_outer (s : State) (p : Fin 48) : Outer s (s.detach p) :=
  (setPort_outer fun _ => SwitchOk.of_open rfl).trans (markPort_inner _ _).outer

theorem summarise_outer (s : State) (run : TestRun) (result : TestResult) (value : Nat) :
    Outer s (s.summarise run result value) := by
  unfold State.summarise
  refine Outer.trans ?_ (markPort_inner _ _).outer
  exact setPort_outer fun h => h

theorem endTest_outer (s : State) (run : TestRun) (result : TestResult) (value : Nat)
    (span : Option (Nat × Nat)) (tripped : Bool) : Outer s (s.endTest run result value span tripped) := by
  unfold State.endTest
  dsimp only
  refine Outer.trans ?_ (raiseTagged_inner ..).outer
  have h1 : Outer s (if tripped = true then s else s.detach run.port) := by
    split
    · exact .refl s
    · exact detach_outer _ _
  have h2 := (h1.trans (unrequest_inner _ run.port).outer).trans (summarise_outer _ run result value)
  exact h2.trans (.of_same rfl rfl rfl rfl rfl rfl rfl)

theorem abortTest_outer (s : State) (cause : AbortCause) (tripped : Bool) :
    Outer s (s.abortTest cause tripped) := by
  unfold State.abortTest
  split
  · exact endTest_outer ..
  · exact .refl s

theorem testStatus_outer (s : State) (p : Fin 48) (status : TermStatus) :
    Outer s (s.testStatus p status) := by
  unfold State.testStatus
  split
  · split
    · split
      · split
        · exact .refl s
        · exact endTest_outer ..
      · split
        · split
          · exact endTest_outer ..
          · exact .refl s
        · exact .refl s
      · exact .refl s
    · exact .refl s
  · exact .refl s

end Sys2Proof.Machine
end

