-- ==== Sys2Proof/Laws/FrameRounds.lean ====
section
/-! SUPPORT. The relations of Laws/Frame.lean for the scheduler's rounds and the segment gate's grants. -/

namespace Sys2Proof.Machine

/-! ## Eligibility and issuing -/

theorem notice_inner (s : State) (p : Fin 48) : Inner s (s.notice p) := by
  unfold State.notice
  dsimp only
  split
  · refine Inner.trans ?_ (markPortIf_inner _ _ _)
    exact .of_same rfl rfl rfl rfl rfl rfl
  · exact .refl s

theorem notices_inner (s : State) : Inner s s.notices :=
  fold_keeps Inner.refl Inner.trans _ _
    (fun x p => by split; exacts [notice_inner x p, .refl x]) s

theorem checkHead_inner (s : State) : Inner s s.checkHead := by
  unfold State.checkHead
  split
  · exact .refl s
  · split
    · exact .refl s
    · split
      · exact .refl s
      · split
        · exact (unrequest_inner _ _).trans (resolvePort_inner _ _ _)
        · exact .of_same rfl rfl rfl rfl rfl rfl

theorem issueSlot_inner (s : State) (i : Fin 4) (p : Fin 48) : Inner s (s.issueSlot i p) := by
  unfold State.issueSlot
  dsimp only
  split
  · exact resolve_inner _ _ _
  · split
    · split
      · split
        · rename_i h
          rw [Bool.and_eq_true] at h
          exact (startTest_inner _ _ _ (readyFor_inService h.2)).trans (resolve_inner _ _ _)
        · exact resolve_inner _ _ _
      · exact resolve_inner _ _ _
    · split
      · exact resolve_inner _ _ _
      · split
        · exact resolve_inner _ _ _
        · exact (request_inner _ _ _).trans (checkHead_inner _)

theorem issueSlots_inner (n : Nat) : ∀ s, Inner s (State.issueSlots n s) := by
  induction n with
  | zero => exact Inner.refl
  | succ n ih =>
    intro s
    unfold State.issueSlots
    split
    · exact .refl s
    · split
      · exact (resolve_inner _ _ _).trans (ih _)
      · split
        · exact .refl s
        · exact (issueSlot_inner _ _ _).trans (ih _)

theorem endRound_inner (s : State) : Inner s s.endRound := .of_same rfl rfl rfl rfl rfl rfl

theorem finishRound_inner (s : State) : Inner s s.finishRound := by
  unfold State.finishRound
  split
  · exact endRound_inner s
  · exact .refl s

theorem abandonRound_calm (s : State) : Calm s s.abandonRound := by
  unfold State.abandonRound
  dsimp only
  split <;> exact .of_same rfl rfl rfl rfl rfl

/-! ## The round start -/

theorem endDone_inner (s : State) : Inner s s.endDone := Inner.fold _ endFeed_inner s

theorem shedOne_inner (s : State) : Inner s s.shedOne := by
  unfold State.shedOne
  split
  · exact endLowestFeed_inner s
  · exact .refl s

theorem fill_inner (s : State) (i : Fin 4) (action : SlotAction) (p : Fin 48) (rota : Option (Fin 16)) :
    Inner s (s.fill i action p rota) := by
  unfold State.fill
  refine Inner.trans ?_ (dequeue_inner _ _)
  exact .of_same rfl rfl rfl rfl rfl rfl

theorem fillTest_inner (s : State) : Inner s s.fillTest := by
  unfold State.fillTest
  split
  · split
    · split
      · exact fill_inner ..
      · exact .refl s
    · exact .refl s
  · exact .refl s

theorem walk_inner (l : List QueueEntry) : ∀ (n : Nat) (s : State), Inner s (State.walk l n s) := by
  induction l with
  | nil => intro n s; exact .refl s
  | cons e rest ih =>
    intro n s
    unfold State.walk
    dsimp only
    split
    · exact ih _ _
    · split
      · split
        · exact (fill_inner ..).trans (ih _ _)
        · exact ih _ _
      · split
        · exact (fill_inner ..).trans (ih _ _)
        · exact ih _ _

theorem emptySlots_inner (s : State) : Inner s s.emptySlots := .of_same rfl rfl rfl rfl rfl rfl

theorem fillSlots_inner (s : State) : Inner s s.fillSlots := by
  unfold State.fillSlots
  dsimp only
  exact ((fillTest_inner s).trans (walk_inner _ _ _)).trans (emptySlots_inner _)

theorem readFeedEnable_inner (s : State) : Inner s s.readFeedEnable := .of_same rfl rfl rfl rfl rfl rfl

theorem startTimer_calm (s : State) : Calm s s.startTimer := .of_same rfl rfl rfl rfl rfl

/-- A round start (R91) leaves alone all that `Calm` names. -/
theorem roundStart_calm (s : State) : Calm s s.roundStart := by
  unfold State.roundStart
  dsimp only
  refine Calm.trans ?_ (trigger_inner _ _).toCalm
  refine Calm.trans ?_ (finishRound_inner _).toCalm
  refine Calm.trans ?_ (issueSlots_inner _ _).toCalm
  refine Calm.trans ?_ (fillSlots_inner _).toCalm
  refine Calm.trans ?_ (readFeedEnable_inner _).toCalm
  refine Calm.trans ?_ (shedOne_inner _).toCalm
  refine Calm.trans ?_ (endDone_inner _).toCalm
  refine Calm.trans ?_ (startTimer_calm _)
  refine Calm.trans ?_ (applyTarget_inner _).toCalm
  exact .of_same rfl rfl rfl rfl rfl

/-- A running round going on (R97, R100) is an operation inside a round. -/
theorem issueOn_inner (s : State) : Inner s s.issueOn := by
  unfold State.issueOn
  split
  · exact ((checkHead_inner s).trans (issueSlots_inner _ _)).trans (finishRound_inner _)
  · exact .refl s

/-- A running round going on with the start that waits for its end (R90) leaves alone all that `Calm`
names. -/
theorem runRound_calm (s : State) : Calm s s.runRound := by
  unfold State.runRound
  dsimp only
  split
  · refine Calm.trans ?_ (roundStart_calm _)
    exact (issueOn_inner s).toCalm.trans (.of_same rfl rfl rfl rfl rfl)
  · exact (issueOn_inner s).toCalm

/-! ## Grants -/

theorem noteGrant_outer (s : State) (r : Request) : Outer s (s.noteGrant r) := by
  unfold State.noteGrant
  dsimp only
  exact (unrequest_inner s r.port).outer.trans (.of_same rfl rfl rfl rfl rfl rfl rfl)

theorem startTestPulse_outer (s : State) (p : Fin 48) : Outer s (s.startTestPulse p) := by
  unfold State.startTestPulse
  split
  · rename_i run hr
    split
    · rename_i h
      dsimp only
      have h1 : Outer s (State.setPort { s with test := { s.test with
          run := some { run with pulse := some s.clock, granted := some s.clock } } } p
          { s.port p with switch := true }) := by
        refine Outer.trans (t := { s with test := { s.test with
          run := some { run with pulse := some s.clock, granted := some s.clock } } })
          (.of_same rfl rfl rfl rfl rfl rfl rfl) (setPort_outer fun _ _ => Or.inr (Or.inr h.2))
      split
      · exact h1.trans (endTest_outer ..)
      · exact h1
    · exact .refl s
  · exact .refl s

theorem startSlot_outer (s : State) (action : SlotAction) (p : Fin 48) :
    Outer s (s.startSlot action p) := by
  unfold State.startSlot
  split
  · split
    · exact startPulse_outer _ _
    · exact startFeed_outer _ _
  · exact .refl s

theorem tellGrant_outer (s : State) (r : Request) : Outer s (s.tellGrant r) := by
  unfold State.tellGrant
  split
  · split
    · exact (resolve_inner _ _ _).outer.trans (startSlot_outer _ _ _)
    · exact .refl s
  · split
    · exact startPulse_outer _ _
    · exact .refl s
  · exact startTestPulse_outer _ _

theorem grant_outer (s : State) (r : Request) : Outer s (s.grant r) :=
  ((noteGrant_outer s r).trans (tellGrant_outer _ r)).trans (runRound_calm _).outer

end Sys2Proof.Machine
end

