-- ==== Sys2Proof/Laws/FramePhases.lean ====
section
/-! SUPPORT. The relation `Outer` of Laws/Frame.lean for phase entries, qualification, the thermal states
and the acts of live bytes. -/

namespace Sys2Proof.Machine

/-! ## Entries -/

theorem raisePhase_inner (s : State) (cause : PhaseCause) : Inner s (s.raisePhase cause) := raise_inner ..

theorem setPhase_outer (s : State) (phase : Phase) : Outer s (s.setPhase phase) :=
  .of_same rfl rfl rfl rfl rfl rfl rfl

theorem clearGate_inner (s : State) : Inner s s.clearGate := .of_same rfl rfl rfl rfl rfl rfl

/-- Stopping all work (R9, R64) leaves alone all that `Calm` names. -/
theorem stopAll_calm (s : State) : Calm s s.stopAll := by
  unfold State.stopAll
  refine Calm.trans ?_ (endWakes_inner _).toCalm
  refine Calm.trans ?_ (endFeeds_inner _).toCalm
  refine Calm.trans ?_ (clearGate_inner _).toCalm
  exact (emptyQueue_inner s).toCalm.trans (abandonRound_calm _)

theorem narrowSlots_inner (s : State) : Inner s s.narrowSlots := by
  unfold State.narrowSlots
  refine Inner.fold _ (fun x p => ?_) s
  split
  · refine Inner.trans ?_ (resolvePort_inner _ _ _)
    split
    · exact unrequest_inner _ _
    · exact .refl x
  · exact .refl x

theorem enterReserve_outer (s : State) (cause : PhaseCause) : Outer s (s.enterReserve cause) := by
  unfold State.enterReserve
  dsimp only
  refine Outer.trans ?_ (issueOn_inner _).outer
  refine Outer.trans ?_ (raisePhase_inner _ _).outer
  refine Outer.trans ?_ (Inner.fold _ endWake_inner _).outer
  refine Outer.trans ?_ (narrowSlots_inner _).outer
  refine Outer.trans ?_ (Inner.fold _ dequeue_inner _).outer
  exact setPhase_outer _ _

theorem enterCutoff_outer (s : State) (cause : PhaseCause) : Outer s (s.enterCutoff cause) := by
  unfold State.enterCutoff
  dsimp only
  refine Outer.trans ?_ (applyTarget_inner _).outer
  refine Outer.trans ?_ (raisePhase_inner _ _).outer
  refine Outer.trans ?_ (abortTest_outer _ _ _)
  refine Outer.trans ?_ (stopAll_calm _).outer
  split
  · exact (setPhase_outer _ _).trans (lowerQ_outer _)
  · exact setPhase_outer _ _

theorem enterRestore_outer (s : State) : Outer s s.enterRestore := by
  unfold State.enterRestore
  refine Outer.trans ?_ (applyTarget_inner _).outer
  refine Outer.trans ?_ (raisePhase_inner _ _).outer
  refine Outer.trans ?_ (abortTest_outer _ _ _)
  exact (setPhase_outer _ _).trans (stopAll_calm _).outer

theorem entryTimer_calm (s : State) : Calm s s.entryTimer := by
  unfold State.entryTimer
  split
  · exact .refl s
  · exact startTimer_calm s

theorem levelTest_outer (s : State) : Outer s s.levelTest := by
  unfold State.levelTest
  dsimp only
  split
  · split
    · exact enterCutoff_outer _ _
    · split
      · exact enterReserve_outer _ _
      · exact .refl s
  · split
    · split
      · exact enterCutoff_outer _ _
      · exact .refl s
    · exact .refl s

theorem loadRota_outer (s : State) : Outer s s.loadRota := .of_same rfl rfl rfl rfl rfl rfl rfl

theorem outageStart_outer (s : State) : Outer s s.outageStart := by
  unfold State.outageStart
  dsimp only
  refine Outer.trans ?_ (levelTest_outer _)
  refine Outer.trans ?_ (raisePhase_inner _ _).outer
  refine Outer.trans ?_ (entryTimer_calm _).outer
  refine Outer.trans ?_ (loadRota_outer _)
  refine Outer.trans ?_ (startQ_outer _)
  exact (setPhase_outer s .outage).trans (.of_same rfl rfl rfl rfl rfl rfl rfl)

theorem returnFromRestore_outer (s : State) : Outer s s.returnFromRestore := by
  unfold State.returnFromRestore
  dsimp only
  split
  · exact enterCutoff_outer _ _
  · split
    · exact (entryTimer_calm s).outer.trans (enterReserve_outer _ _)
    · exact ((setPhase_outer s _).trans (entryTimer_calm _).outer).trans (raisePhase_inner _ _).outer

/-! ## Qualification -/

theorem takeLoss_outer (s : State) : Outer s s.takeLoss := by
  unfold State.takeLoss
  dsimp only
  have h : Outer s { s with phase := { s.phase with mains := .lost, qual := .stopped } } :=
    .of_same rfl rfl rfl rfl rfl rfl rfl
  split
  · exact h.trans (outageStart_outer _)
  · exact h.trans (returnFromRestore_outer _)
  · exact h

theorem takeRestore_outer (s : State) : Outer s s.takeRestore := by
  unfold State.takeRestore
  dsimp only
  have h : Outer s { s with phase := { s.phase with mains := .present, qual := .stopped } } :=
    .of_same rfl rfl rfl rfl rfl rfl rfl
  split
  · exact h.trans (enterRestore_outer _)
  · exact h

theorem qualify_outer (s : State) (count : Nat) : Outer s (s.qualify count) := by
  unfold State.qualify
  split
  · exact .of_same rfl rfl rfl rfl rfl rfl rfl
  · split
    · exact takeLoss_outer s
    · split
      · exact takeRestore_outer s
      · exact .refl s

theorem requalify_outer (s : State) : Outer s s.requalify := by
  unfold State.requalify
  split
  · exact .refl s
  · split
    · exact qualify_outer s _
    · exact .refl s
  · split
    · exact .of_same rfl rfl rfl rfl rfl rfl rfl
    · split
      · exact qualify_outer s _
      · exact .refl s

/-! ## Thermal states -/

theorem raiseThermal_inner (s : State) : Inner s s.raiseThermal := raise_inner ..

theorem enterCritical_outer (s : State) : Outer s s.enterCritical := by
  unfold State.enterCritical
  dsimp only
  refine Outer.trans ?_ (raiseThermal_inner _).outer
  refine Outer.trans ?_ (applyTarget_inner _).outer
  refine Outer.trans ?_ (abortTest_outer _ _ _)
  refine Outer.trans ?_ (stopAll_calm _).outer
  exact ⟨rfl, SpoolOk.of_eq rfl rfl, fun _ => rfl, id, id, fun _ => id⟩

theorem evalThermal_outer (s : State) : Outer s s.evalThermal := by
  unfold State.evalThermal
  dsimp only
  split
  · exact .refl s
  · have h1 : Outer s { s with scan := { s.scan with
        thermal := nextThermal s.thermalCfg s.highestTemp s.scan.thermal } } :=
      .of_same rfl rfl rfl rfl rfl rfl rfl
    have h2 : Outer s (if s.scan.thermal = .hot ∨
          nextThermal s.thermalCfg s.highestTemp s.scan.thermal = .hot then
        State.reHold { s with scan := { s.scan with
          thermal := nextThermal s.thermalCfg s.highestTemp s.scan.thermal } }
        else { s with scan := { s.scan with
          thermal := nextThermal s.thermalCfg s.highestTemp s.scan.thermal } }) := by
      split
      · exact h1.trans (reHold_inner _).outer
      · exact h1
    split
    · exact h2.trans (enterCritical_outer _)
    · split
      · exact h2.trans (raiseThermal_inner _).outer
      · exact h2

/-! ## Acts of live bytes -/

theorem restartLapse_outer (s : State) : Outer s s.restartLapse := .of_same rfl rfl rfl rfl rfl rfl rfl

theorem touch_outer (s : State) : Outer s s.touch := by
  unfold State.touch
  split
  · split
    · exact .refl s
    · rename_i x _ _
      exact Outer.trans (t := { s with path := { s.path with txn := some { x with live := true } } })
        (.of_same rfl rfl rfl rfl rfl rfl rfl) (restartLapse_outer _)
  · exact restartLapse_outer s

theorem touchRow_outer (s : State) : Outer s s.touchRow := by
  unfold State.touchRow
  split
  · exact restartLapse_outer s
  · exact touch_outer s

theorem liveRow_outer {act : State → State} (h : ∀ s, Outer s (act s)) (s : State) : Outer s (s.liveRow act) := by
  unfold State.liveRow
  split
  · exact (touchRow_outer s).trans (h _)
  · exact .refl s

theorem writeStartLevel_outer (s : State) (v : Byte) : Outer s (s.writeStartLevel v) :=
  ⟨rfl, SpoolOk.of_eq rfl rfl, id, id, fun _ => Nat.min_le_left _ _, fun _ => id⟩

theorem clearBar_outer (s : State) (v : Byte) : Outer s (s.clearBar v) := by
  unfold State.clearBar
  split
  · split
    · rename_i p _ h
      refine Outer.trans (setPort_outer ?_) (markPort_inner _ _).outer
      intro hok hs
      have := hok hs
      rw [h] at this
      simp at this
    · exact .refl s
  · exact .refl s

theorem release_outer (s : State) : Outer s s.release := by
  unfold State.release
  split
  · exact .of_same rfl rfl rfl rfl rfl rfl rfl
  · exact .refl s

theorem abortWrite_outer (s : State) : Outer s s.abortWrite :=
  (abortTest_outer s _ _).trans (runRound_calm _).outer

theorem switchWrite_outer (s : State) (v : Byte) : Outer s (s.switchWrite v) := by
  unfold State.switchWrite
  split
  · exact (takeSwitch_inner _ _).outer
  · split
    · exact (takeSwitch_inner _ _).outer
    · exact .refl s

theorem lockWrite_outer (s : State) (v : Byte) : Outer s (s.lockWrite v) :=
  ⟨rfl, SpoolOk.of_eq rfl rfl, id, fun h => by simp [State.lockWrite, h], id, fun _ => id⟩

theorem scanWrite_outer (s : State) (v : Byte) : Outer s (s.scanWrite v) := by
  unfold State.scanWrite
  split
  · exact (trigger_inner _ _).outer
  · split
    · exact (stopScan_inner _).outer
    · exact .refl s

theorem attemptClaim_outer (s : State) : Outer s s.attemptClaim.2 := by
  unfold State.attemptClaim
  split
  · exact .of_same rfl rfl rfl rfl rfl rfl rfl
  · exact .refl s

theorem storeRequest_outer (s : State) (a b c : Option Byte) : Outer s (s.storeRequest a b c) :=
  .of_same rfl rfl rfl rfl rfl rfl rfl

theorem setReqOutcome_outer (s : State) (o : ReqOutcome) : Outer s (s.setReqOutcome o) :=
  .of_same rfl rfl rfl rfl rfl rfl rfl

/-- A request that is not refused names a port that is ready for its kind (R122). -/
theorem judgeRequest_ready {s : State} {p : Fin 48} {kind : TestKind}
    (h : s.judgeRequest = .inr (p, kind)) : s.readyFor p kind = true := by
  unfold State.judgeRequest at h
  split at h
  · cases h
  · split at h
    · cases h
    · split at h
      · cases h
      · split at h
        · cases h
        · split at h
          · cases h
          · split at h
            · cases h
            · split at h
              · cases h
              · split at h
                · rename_i hr
                  simp only [Sum.inr.injEq, Prod.mk.injEq] at h
                  obtain ⟨rfl, rfl⟩ := h
                  exact hr
                · cases h

theorem takeRequest_outer (s : State) : Outer s s.takeRequest := by
  unfold State.takeRequest
  dsimp only
  have h1 : Outer s { s with test := { s.test with req := { s.test.req with
      minutes := clampN 1 60 s.test.req.minutes } } } := .of_same rfl rfl rfl rfl rfl rfl rfl
  split
  · rename_i p kind hj
    refine Outer.trans ?_ (runRound_calm _).outer
    refine Outer.trans (h1.trans (setReqOutcome_outer _ .started)) ?_
    have hin := readyFor_inService (judgeRequest_ready hj)
    refine (startTest_inner _ _ _ ?_).outer
    exact hin
  · exact (h1.trans (setReqOutcome_outer _ _)).trans (raise_inner ..).outer

theorem applyIndex_outer (s : State) (v : Nat) : Outer s (s.applyIndex v) := by
  unfold State.applyIndex
  dsimp only
  refine Outer.trans ?_ (reAlert_inner _).outer
  generalize (if 0 < s.ringN then s.clampIndex v else s.ev.r) = r
  have h : Outer s { s with ev := { s.ev with r := r, unkept := false } } :=
    .of_same rfl rfl rfl rfl rfl rfl rfl
  split
  · exact h
  · exact h.trans (markInst_inner _).outer

theorem takeIndex_outer (s : State) (lo hi : Option Byte) : Outer s (s.takeIndex lo hi) := by
  unfold State.takeIndex
  split
  · exact .refl s
  · split
    · exact applyIndex_outer _ _
    · exact .of_same rfl rfl rfl rfl rfl rfl rfl

theorem modTxn_outer (s : State) (f : Txn → Txn) : Outer s (s.modTxn f) := .of_same rfl rfl rfl rfl rfl rfl rfl

/-- A written live byte delivered to its owner changes nothing that `Outer` keeps. -/
theorem deliver_outer (s : State) (off : Nat) (v : Byte) : Outer s (s.deliver off v) := by
  unfold State.deliver
  split
  · split
    · exact release_outer s
    · exact .refl s
  · exact (storeRequest_outer _ _ _ _).trans (modTxn_outer _ _)
  · exact (storeRequest_outer _ _ _ _).trans (modTxn_outer _ _)
  · exact (storeRequest_outer _ _ _ _).trans (modTxn_outer _ _)
  · exact abortWrite_outer s
  · exact switchWrite_outer _ _
  · exact lockWrite_outer _ _
  · exact writeStartLevel_outer _ _
  · exact modTxn_outer _ _
  · exact modTxn_outer _ _
  · exact scanWrite_outer _ _
  · exact clearBar_outer _ _
  · exact .refl s

end Sys2Proof.Machine
end

