-- ==== Sys2Proof/Laws/FrameLoad.lean ====
section
/-! SUPPORT. The relation `Outer` of Laws/Frame.lean for changes of the region map, the plan load and the
snoop of a write. -/

namespace Sys2Proof.Machine

/-! ## Loss of work, rings -/

theorem discardEvents_outer (s : State) : Outer s s.discardEvents :=
  ⟨rfl, fun h => ⟨Nat.le_trans (List.length_filter_le _ _) h.1, Nat.zero_le _⟩, id, id, id, fun _ => id⟩

theorem clearOwnWork_outer (s : State) : Outer s s.clearOwnWork :=
  ⟨rfl, fun _ => ⟨Nat.zero_le _, Nat.zero_le _⟩, id, id, id, fun _ => id⟩

theorem ringChange_outer (s old : State) : Outer s (s.ringChange old) := by
  unfold State.ringChange
  dsimp only
  split
  · exact (reAlert_inner s).outer
  · split
    · exact ((discardEvents_outer s).trans (fillPlace_inner _).outer).trans (reAlert_inner _).outer
    · refine Outer.trans ?_ (reAlert_inner _).outer
      refine Outer.trans ?_ (markInst_inner _).outer
      exact .of_same rfl rfl rfl rfl rfl rfl rfl

theorem measChange_outer (s old : State) : Outer s (s.measChange old) := by
  unfold State.measChange
  dsimp only
  split
  · exact .refl s
  · exact .of_same rfl rfl rfl rfl rfl rfl rfl

theorem capChange_outer (s : State) : Outer s s.capChange := by
  unfold State.capChange
  split
  · exact .refl s
  · exact takeCap_outer s

theorem takeThermal_outer (s : State) : Outer s s.takeThermal := .of_same rfl rfl rfl rfl rfl rfl rfl

theorem thermalChange_outer (s : State) : Outer s s.thermalChange := by
  unfold State.thermalChange
  split
  · exact .refl s
  · exact (takeThermal_outer s).trans (evalThermal_outer _)

/-- What follows every change of the installation image at once changes nothing that `Outer` keeps. -/
theorem takeMap_outer (s old : State) : Outer s (s.takeMap old) := by
  unfold State.takeMap
  refine Outer.trans ?_ (ringChange_outer _ _)
  refine Outer.trans ?_ (measChange_outer _ _)
  exact (requalify_outer s).trans (dropHeld_inner _).outer

/-- The blocks taking the installation fields (R162) change nothing that `Outer` keeps. -/
theorem takeInstallation_outer (s old : State) : Outer s (s.takeInstallation old) := by
  unfold State.takeInstallation
  dsimp only
  refine Outer.trans ?_ (ringChange_outer _ _)
  refine Outer.trans ?_ (measChange_outer _ _)
  refine Outer.trans ?_ (dropHeld_inner _).outer
  refine Outer.trans ?_ (thermalChange_outer _)
  refine Outer.trans ?_ (capChange_outer _)
  exact (requalify_outer s).trans (rebuild_outer _ _)

theorem setInst_outer (s : State) (image : Mem) : Outer s (s.setInst image) := by
  unfold State.setInst
  dsimp only
  have h : Outer s { s with path := { s.path with inst := some image } } :=
    .of_same rfl rfl rfl rfl rfl rfl rfl
  split
  · exact h.trans (clearOwnWork_outer _)
  · exact h

/-! ## The end of a load -/

theorem formRing_outer (s : State) : Outer s s.formRing := by
  unfold State.formRing
  dsimp only
  generalize (if s.ringM ≤ s.instNum16 4 then 0 else s.instNum16 4) = w
  generalize (if s.ringM ≤ s.instNum16 4 then 0 else _) = r
  have h : Outer s { s with ev := { s.ev with w := w, r := r, idxFormed := true } } :=
    .of_same rfl rfl rfl rfl rfl rfl rfl
  split
  · exact h.trans (.of_same rfl rfl rfl rfl rfl rfl rfl)
  · exact (h.trans (markInst_inner _).outer).trans (.of_same rfl rfl rfl rfl rfl rfl rfl)

theorem applyHeld_outer (s : State) : Outer s s.applyHeld := by
  unfold State.applyHeld
  split
  · exact Outer.trans (t := { s with ev := { s.ev with heldRd := none } })
      (.of_same rfl rfl rfl rfl rfl rfl rfl) (applyIndex_outer _ _)
  · exact .refl s

theorem discardKept_outer (s : State) : Outer s s.discardKept := by
  unfold State.discardKept
  dsimp only
  exact (discardEvents_outer s).trans (.of_same rfl rfl rfl rfl rfl rfl rfl)

theorem formEvents_outer (s : State) : Outer s s.formEvents := by
  unfold State.formEvents
  refine Outer.trans ?_ (applyHeld_outer _)
  split
  · exact formRing_outer s
  · exact discardKept_outer s

theorem formMeas_outer (s : State) : Outer s s.formMeas := by
  unfold State.formMeas
  dsimp only
  split
  · exact .of_same rfl rfl rfl rfl rfl rfl rfl
  · exact .refl s

theorem formActive_outer (s : State) : Outer s s.formActive := by
  unfold State.formActive
  dsimp only
  have h : Outer s { s with store := { s.store with active := s.namedBank, activeFormed := true } } :=
    .of_same rfl rfl rfl rfl rfl rfl rfl
  split
  · exact h
  · exact h.trans (markInst_inner _).outer

theorem followActive_outer (s : State) : Outer s s.followActive := by
  unfold State.followActive
  split
  · exact .refl s
  · exact .of_same rfl rfl rfl rfl rfl rfl rfl

theorem formFields_outer (s : State) (cause : LoadCause) : Outer s (s.formFields cause) := by
  unfold State.formFields
  split
  · exact .refl s
  · exact ((formActive_outer s).trans (formMeas_outer _)).trans (formEvents_outer _)

theorem raiseStart_inner (s : State) (cause : LoadCause) : Inner s (s.raiseStart cause) := by
  unfold State.raiseStart
  split
  · exact raise_inner ..
  · exact raise_inner ..
  · exact .refl s
  · exact .refl s

theorem raiseDecided_inner (s : State) (old : PlanUse) : Inner s (s.raiseDecided old) := by
  unfold State.raiseDecided
  split
  · exact raiseBuiltIn_inner s
  · split
    · exact raise_inner ..
    · exact .refl s

theorem decideLoaded_inner (s : State) : Inner s s.decideLoaded := by
  unfold State.decideLoaded
  dsimp only
  refine Inner.trans ?_ (usePlan_inner _ _)
  exact (validateBank_inner s .a).trans (validateBank_inner _ .b)

theorem startScan_outer (s : State) (cause : LoadCause) : Outer s (s.startScan cause) := by
  unfold State.startScan
  split
  · exact ((beginStartUp_inner s).outer.trans (takeThermal_outer _)).trans (evalThermal_outer _)
  · exact thermalChange_outer s

theorem roundAfter_calm (s : State) (cause : LoadCause) : Calm s (s.roundAfter cause) := by
  unfold State.roundAfter
  split
  · exact .refl s
  · exact runRound_calm s

theorem readyTimer_calm (s : State) (cause : LoadCause) : Calm s (s.readyTimer cause) := by
  unfold State.readyTimer
  split
  · exact entryTimer_calm s
  · exact .refl s

theorem takeTarget_inner (s : State) : Inner s s.takeTarget := by
  unfold State.takeTarget
  split
  · exact takeSwitch_inner _ _
  · exact .refl s

/-- The end of a plan load (R153) changes nothing that `Outer` keeps. -/
theorem finishLoad_outer (s : State) (cause : LoadCause) : Outer s (s.finishLoad cause) := by
  unfold State.finishLoad
  dsimp only
  refine Outer.trans ?_ (roundAfter_calm _ _).outer
  refine Outer.trans ?_ (requalify_outer _)
  refine Outer.trans ?_ (readyTimer_calm _ _).outer
  refine Outer.trans ?_ (takeTarget_inner _).outer
  refine Outer.trans ?_ (startScan_outer _ _)
  refine Outer.trans ?_ (carry_inner _ _).outer
  refine Outer.trans ?_ (reAlert_inner _).outer
  refine Outer.trans ?_ (raiseDecided_inner _ _).outer
  refine Outer.trans ?_ (raiseStart_inner _ _).outer
  refine Outer.trans ?_ (takeCap_outer _)
  refine Outer.trans ?_ (rebuild_outer _ _)
  refine Outer.trans ((formFields_outer s cause).trans (decideLoaded_inner _).outer) ?_
  exact .of_same rfl rfl rfl rfl rfl rfl rfl

/-! ## Reads of a load -/

theorem setTodo_outer (s : State) (l : Load) (todo : List LoadPart) : Outer s (s.setTodo l todo) := by
  unfold State.setTodo
  split
  · exact finishLoad_outer _ _
  · exact .of_same rfl rfl rfl rfl rfl rfl rfl

theorem instRead_outer (s : State) (l : Load) (image : Mem) : Outer s (s.instRead l image) := by
  unfold State.instRead
  dsimp only
  refine Outer.trans ?_ (setTodo_outer _ _ _)
  have h0 : Outer s { s with path := { s.path with instBuf := [] } } := .of_same rfl rfl rfl rfl rfl rfl rfl
  split
  · exact h0
  · refine h0.trans ((setInst_outer _ image).trans ?_)
    split
    · exact takeMap_outer _ _
    · exact (followActive_outer _).trans (requalify_outer _)

theorem takeLoadRead_outer (s : State) (addr : Nat) : Outer s (s.takeLoadRead addr) := by
  unfold State.takeLoadRead
  split
  · exact .refl s
  · dsimp only
    split
    · exact .refl s
    · split
      · exact .of_same rfl rfl rfl rfl rfl rfl rfl
      · exact instRead_outer _ _ _
    · split
      · exact .of_same rfl rfl rfl rfl rfl rfl rfl
      · exact (setBank_inner _ _ _).outer.trans (setTodo_outer _ _ _)

/-! ## Snooping -/

theorem dropLoadRead_outer (s : State) : Outer s s.dropLoadRead := .of_same rfl rfl rfl rfl rfl rfl rfl

theorem replanLoad_outer (s old : State) : Outer s (s.replanLoad old) := by
  unfold State.replanLoad
  split
  · exact .refl s
  · split
    · exact .refl s
    · dsimp only
      split
      · exact .refl s
      · split
        · exact (dropLoadRead_outer s).trans (setTodo_outer _ _ _)
        · exact .of_same rfl rfl rfl rfl rfl rfl rfl

theorem startReload_outer (s : State) (cause : LoadCause) : Outer s (s.startReload cause) := by
  unfold State.startReload
  dsimp only
  exact (dropLoadRead_outer s).trans (.of_same rfl rfl rfl rfl rfl rfl rfl)

theorem revalidateBoth_inner (s : State) : Inner s s.revalidateBoth :=
  (revalidate_inner s .a false).trans (revalidate_inner _ .b false)

theorem loadUnconfigured_outer (s : State) (l : Load) : Outer s (s.loadUnconfigured l) := by
  unfold State.loadUnconfigured
  split
  · exact .refl s
  · exact (dropLoadRead_outer s).trans (setTodo_outer _ _ _)

theorem storeTakesMap_outer (s old : State) : Outer s (s.storeTakesMap old) := by
  unfold State.storeTakesMap
  split
  · exact startReload_outer _ _
  · split
    · split
      · exact loadUnconfigured_outer _ _
      · exact (revalidateBoth_inner s).outer
    · split
      · exact startReload_outer _ _
      · split
        · exact .refl s
        · exact (revalidateBoth_inner s).outer

theorem snoopInst_outer (s : State) (bytes : List Placed) : Outer s (s.snoopInst bytes) := by
  unfold State.snoopInst
  split
  · exact .refl s
  · dsimp only
    rename_i image _
    have h0 : Outer s (if s.store.load.isSome = true then
        { s with path := { s.path with instBuf := instTake s.path.instBuf bytes } } else s) := by
      split
      · exact .of_same rfl rfl rfl rfl rfl rfl rfl
      · exact .refl s
    revert h0
    generalize (if s.store.load.isSome = true then _ else s) = s0
    intro h0
    split
    · exact h0
    · refine h0.trans ((setInst_outer _ (instTake image bytes)).trans ?_)
      split
      · exact (takeInstallation_outer _ _).trans (storeTakesMap_outer _ _)
      · exact ((followActive_outer _).trans (requalify_outer _)).trans (replanLoad_outer _ _)

theorem snoopBank_inner (s : State) (which : Bank) (bytes : List Placed) :
    Inner s (s.snoopBank which bytes) := by
  unfold State.snoopBank
  split
  · exact .refl s
  · dsimp only
    split
    · exact .refl s
    · split
      · exact (setBank_inner _ _ _).trans (revalidate_inner _ _ _)
      · exact setBank_inner _ _ _

/-- Handing on the bytes of an ended write (R151, R162) changes nothing that `Outer` keeps. -/
theorem snoop_outer (s : State) (x : Txn) : Outer s (s.snoop x) := by
  unfold State.snoop
  dsimp only
  exact ((snoopInst_outer _ _).trans (snoopBank_inner _ _ _).outer).trans (snoopBank_inner _ _ _).outer

theorem endActs_outer (s : State) (t : Txn) : Outer s (s.endActs t) := by
  unfold State.endActs
  dsimp only
  have h1 : Outer s (if t.reqWritten = true then s.takeRequest else s) := by
    split
    · exact takeRequest_outer s
    · exact .refl s
  have h2 := h1.trans (takeIndex_outer _ t.rdLo t.rdHi)
  have h3 : ∀ u : State, Outer u { u with path := { u.path with txn := none } } :=
    fun u => .of_same rfl rfl rfl rfl rfl rfl rfl
  split
  · exact (h2.trans (h3 _)).trans (snoop_outer _ _)
  · exact h2.trans (h3 _)

end Sys2Proof.Machine
end

