-- ==== Sys2Proof/Laws/Memory.lean ====
section
/-! SUPPORT. Reads after writes, and the canonical form kept by every memory operation. -/

namespace Sys2Proof.Machine

/-! ## The canonical form -/

theorem Mem.wfFrom_mono {m : Mem} {a b : Nat} (h : a ≤ b) (hm : Mem.wfFrom b m = true) :
    Mem.wfFrom a m = true := by
  cases m with
  | nil => rfl
  | cons c rest =>
    simp only [Mem.wfFrom, Bool.and_eq_true, decide_eq_true_eq] at *
    exact ⟨⟨by omega, hm.1.2⟩, hm.2⟩

theorem Mem.wfFrom_write {low : Nat} (m : Mem) (a : Nat) (x : Byte) (h : Mem.wfFrom low m = true)
    (ha : low ≤ a) : Mem.wfFrom low (m.write a x) = true := by
  induction m generalizing low with
  | nil => by_cases hx : x = 0#8 <;> simp [Mem.write, Mem.wfFrom, hx, ha]
  | cons c rest ih =>
    simp only [Mem.wfFrom, Bool.and_eq_true, decide_eq_true_eq] at h
    obtain ⟨⟨h1, h2⟩, h3⟩ := h
    unfold Mem.write
    split
    · split
      · simp [Mem.wfFrom, h1, h2, h3]
      · rename_i h4 h5
        simp [Mem.wfFrom, h2, h3, ha, h5]; omega
    · split
      · split
        · exact Mem.wfFrom_mono (by omega) h3
        · rename_i h4 h5 h6
          subst h5
          simp [Mem.wfFrom, h3, ha, h6]
      · simp only [Mem.wfFrom, Bool.and_eq_true, decide_eq_true_eq]
        exact ⟨⟨h1, h2⟩, ih h3 (by omega)⟩

theorem Mem.wf_write {m : Mem} (h : m.wf = true) (a : Nat) (x : Byte) : (m.write a x).wf = true :=
  Mem.wfFrom_write m a x h (Nat.zero_le a)

theorem Mem.wf_writeBytes {m : Mem} (h : m.wf = true) (a : Nat) (l : List Byte) :
    (m.writeBytes a l).wf = true := by
  induction l generalizing m a with
  | nil => exact h
  | cons x rest ih => exact ih (Mem.wf_write h a x) (a + 1)

/-! ## Reads after writes -/

theorem Mem.read_low {m : Mem} {low a : Nat} (h : Mem.wfFrom low m = true) (ha : a < low) :
    m.read a = 0#8 := by
  induction m generalizing low with
  | nil => rfl
  | cons c rest ih =>
    simp only [Mem.wfFrom, Bool.and_eq_true, decide_eq_true_eq] at h
    unfold Mem.read
    rw [if_neg (by omega)]
    exact ih h.2 (by omega)

theorem Mem.read_writeFrom {low : Nat} {m : Mem} (h : Mem.wfFrom low m = true) (a b : Nat) (x : Byte) :
    (m.write a x).read b = if b = a then x else m.read b := by
  induction m generalizing low with
  | nil =>
    by_cases hx : x = 0#8 <;> by_cases hb : b = a <;> simp [Mem.write, Mem.read, hx, hb]
    intro e; exact absurd e.symm hb
  | cons c rest ih =>
    simp only [Mem.wfFrom, Bool.and_eq_true, decide_eq_true_eq] at h
    obtain ⟨⟨-, h2⟩, h3⟩ := h
    have low_rest : ∀ d, d < c.1 + 1 → Mem.read rest d = 0#8 := fun d hd => Mem.read_low h3 hd
    unfold Mem.write
    split
    · rename_i hlt
      by_cases hx : x = 0#8
      · by_cases hb : b = a
        · subst hb; simp [hx, Mem.read, low_rest b (by omega)]; omega
        · simp [hx, hb]
      · by_cases hb : b = a
        · subst hb; simp [hx, Mem.read]
        · have hb' : ¬a = b := fun e => hb e.symm
          simp [hx, hb, hb', Mem.read]
    · split
      · rename_i h4 h5
        subst h5
        by_cases hx : x = 0#8
        · by_cases hb : b = c.1
          · subst hb; simp [hx, low_rest c.1 (by omega)]
          · have hb' : ¬c.1 = b := fun e => hb e.symm
            simp [hx, hb, hb', Mem.read]
        · by_cases hb : b = c.1
          · subst hb; simp [hx, Mem.read]
          · have hb' : ¬c.1 = b := fun e => hb e.symm
            simp [hx, hb, hb', Mem.read]
      · rename_i h4 h5
        by_cases hc : c.1 = b
        · subst hc; simp [Mem.read]
          intro e; exact absurd e.symm h5
        · simp [Mem.read, hc, ih h3]

theorem Mem.read_write {m : Mem} (h : m.wf = true) (a b : Nat) (x : Byte) :
    (m.write a x).read b = if b = a then x else m.read b :=
  Mem.read_writeFrom h a b x

theorem Mem.read_writeBytes_outside {m : Mem} (h : m.wf = true) (a : Nat) (l : List Byte) {b : Nat}
    (hb : b < a ∨ a + l.length ≤ b) : (m.writeBytes a l).read b = m.read b := by
  induction l generalizing m a with
  | nil => rfl
  | cons x rest ih =>
    simp only [List.length_cons] at hb
    rw [Mem.writeBytes, ih (Mem.wf_write h a x) (a + 1) (by omega), Mem.read_write h, if_neg (by omega)]

theorem Mem.read_writeBytes_inside {m : Mem} (h : m.wf = true) (a : Nat) (l : List Byte) {i : Nat}
    (hi : i < l.length) : (m.writeBytes a l).read (a + i) = l[i] := by
  induction l generalizing m a i with
  | nil => simp at hi
  | cons x rest ih =>
    cases i with
    | zero =>
      rw [Mem.writeBytes, Mem.read_writeBytes_outside (Mem.wf_write h a x) _ _ (by omega),
        Mem.read_write h]
      simp
    | succ i =>
      have := ih (Mem.wf_write h a x) (a + 1) (i := i) (by simpa using hi)
      rw [Mem.writeBytes, show a + (i + 1) = a + 1 + i by omega, this]
      simp

theorem Mem.readBytes_length (m : Mem) (a n : Nat) : (m.readBytes a n).length = n := by
  induction n generalizing a with
  | zero => rfl
  | succ n ih => simp [Mem.readBytes, ih]

end Sys2Proof.Machine
end

