-- ==== Sys2Proof/Laws/FramePath.lean ====
section
/-! SUPPORT. What the path unit's own operations keep: the relation `Kept`, weaker than `Outer`, lets the
memory and the links move. -/

namespace Sys2Proof.Machine

/-- What every operation but a reset keeps. -/
structure Kept (s t : State) : Prop where
  line : t.line = s.line
  pending : t.pending = s.pending
  mem : s.MemOk → t.MemOk
  spool : s.SpoolOk → t.SpoolOk
  latch : s.scan.latch = true → t.scan.latch = true
  lock : s.path.mapLock = true → t.path.mapLock = true
  level : s.phase.startLevel ≤ 100 → t.phase.startLevel ≤ 100
  ok : ∀ p, (s.port p).SwitchOk → (t.port p).SwitchOk

theorem Kept.refl (s : State) : Kept s s := ⟨rfl, rfl, id, id, id, id, id, fun _ => id⟩

theorem Kept.trans {s t u : State} (h : Kept s t) (k : Kept t u) : Kept s u :=
  ⟨k.line.trans h.line, k.pending.trans h.pending, k.mem ∘ h.mem, k.spool ∘ h.spool, k.latch ∘ h.latch,
    k.lock ∘ h.lock, k.level ∘ h.level, fun p => k.ok p ∘ h.ok p⟩

theorem Outer.line {s t : State} (h : Outer s t) : t.line = s.line := congrArg (fun v => v.1) h.view

theorem Outer.mem_eq {s t : State} (h : Outer s t) : t.mem = s.mem := congrArg (fun v => v.2.2.1) h.view

theorem Outer.pending {s t : State} (h : Outer s t) : t.pending = s.pending :=
  congrArg (fun v => v.2.2.2.2.1) h.view

theorem Outer.kept {s t : State} (h : Outer s t) : Kept s t :=
  ⟨h.line, h.pending, fun hm => by rw [State.MemOk, h.mem_eq]; exact hm, h.spool, h.latch, h.lock, h.level, h.ok⟩

/-- An update of the path unit's links, of the clock or of the free values. -/
theorem Kept.of_same {s t : State} (h1 : t.line = s.line) (h2 : t.pending = s.pending)
    (h3 : t.mem = s.mem) (h4 : t.path.ownq = s.path.ownq) (h5 : t.ev.staging = s.ev.staging)
    (h6 : t.scan.latch = s.scan.latch) (h7 : t.path.mapLock = s.path.mapLock)
    (h8 : t.phase.startLevel = s.phase.startLevel) (h9 : t.ports = s.ports) : Kept s t :=
  ⟨h1, h2, fun h => by rw [State.MemOk, h3]; exact h, SpoolOk.of_eq h4 h5, by rw [h6]; exact id,
    by rw [h7]; exact id, by rw [h8]; exact id, fun p => (ports_calm_of_eq h9 p).ok⟩

theorem Kept.of_mem {s t : State} (h1 : t.line = s.line) (h2 : t.pending = s.pending)
    (h3 : s.MemOk → t.MemOk) (h4 : t.path.ownq = s.path.ownq) (h5 : t.ev.staging = s.ev.staging)
    (h6 : t.scan.latch = s.scan.latch) (h7 : t.path.mapLock = s.path.mapLock)
    (h8 : t.phase.startLevel = s.phase.startLevel) (h9 : t.ports = s.ports) : Kept s t :=
  ⟨h1, h2, h3, SpoolOk.of_eq h4 h5, by rw [h6]; exact id, by rw [h7]; exact id, by rw [h8]; exact id,
    fun p => (ports_calm_of_eq h9 p).ok⟩

theorem advance_kept (t : Nat) (s : State) : Kept s (s.advance t) := .of_same rfl rfl rfl rfl rfl rfl rfl rfl rfl

/-- A timed command keeps what its effect keeps. -/
theorem timed_kept {f : State → State} (h : ∀ s, Kept s (f s)) {t : Nat} {s u : State}
    (hu : timed t f s = .next u) : Kept s u := by
  unfold timed at hu
  split at hu
  · cases hu; exact (advance_kept t s).trans (h _)
  · cases hu; exact .refl s

/-- A timed command always completes. -/
theorem timed_next (t : Nat) (f : State → State) (s : State) : ∃ u, timed t f s = .next u := ⟨_, rfl⟩

/-- A timed command while no reset is asserted. -/
theorem timed_released {s : State} (h : s.line = .released) (t : Nat) (f : State → State) :
    timed t f s = .next (f (s.advance t)) := by simp [timed, h]

/-! ## Bursts -/

theorem forwardByte_kept (s : State) (a : Nat) (v : Byte) : Kept s (s.forwardByte a v) := by
  unfold State.forwardByte
  dsimp only
  refine Kept.trans ?_ (modTxn_outer _ _).kept
  exact .of_mem rfl rfl (fun h => Mem.wf_write h _ _) rfl rfl rfl rfl rfl rfl

theorem refuseByte_outer (s : State) (a : Nat) (d : Nat × WriteCause) : Outer s (s.refuseByte a d) := by
  unfold State.refuseByte
  refine Outer.trans (modTxn_outer _ _) (raise_inner ..).outer

theorem writeLive_outer (s : State) (a : Nat) (v : Byte) (refused : Bool) :
    Outer s (s.writeLive a v refused) := by
  unfold State.writeLive
  dsimp only
  have h := (modTxn_outer s fun t => { t with mlLow := false }).trans (touch_outer _)
  split
  · exact h
  · exact h.trans (deliver_outer _ _ _)

theorem writeOne_kept (s : State) (a : Nat) (v : Byte) : Kept s (s.writeOne a v) := by
  unfold State.writeOne
  split
  · exact .refl s
  · split
    · exact (writeLive_outer ..).kept
    · split
      · exact .refl s
      · split
        · exact (refuseByte_outer ..).kept
        · exact forwardByte_kept ..

theorem writeBurst_kept (l : List Byte) : ∀ (a : Nat) (s : State), Kept s (State.writeBurst l a s) := by
  induction l with
  | nil => intro a s; exact (modTxn_outer _ _).kept
  | cons v rest ih => intro a s; exact (writeOne_kept s a v).trans (ih _ _)

theorem sendByte_kept (s : State) (v : Byte) : Kept s (s.sendByte v) :=
  .of_same rfl rfl rfl rfl rfl rfl rfl rfl rfl

theorem readClaim_kept (s : State) : Kept s s.readClaim := by
  unfold State.readClaim
  have h := (attemptClaim_outer s).kept
  split
  · split
    · exact .of_same rfl rfl rfl rfl rfl rfl rfl rfl rfl
    · dsimp only
      exact h.trans (.of_same rfl rfl rfl rfl rfl rfl rfl rfl rfl)
  · dsimp only
    exact h.trans (.of_same rfl rfl rfl rfl rfl rfl rfl rfl rfl)

theorem readClaimRow_kept (s : State) : Kept s s.readClaimRow := by
  unfold State.readClaimRow
  split
  · dsimp only
    exact (attemptClaim_outer s).kept.trans (.of_same rfl rfl rfl rfl rfl rfl rfl rfl rfl)
  · exact readClaim_kept s

theorem readOne_kept (s : State) (a : Nat) : Kept s (s.readOne a) := by
  unfold State.readOne
  split
  · dsimp only
    have h : Kept s s.takeSnapshot.touch := (modTxn_outer s _).kept.trans (touch_outer _).kept
    split
    · exact h.trans (readClaim_kept _)
    · exact h.trans (sendByte_kept _ _)
  · exact sendByte_kept _ _

theorem readBurst_kept (n : Nat) : ∀ (a : Nat) (s : State), Kept s (State.readBurst n a s) := by
  induction n with
  | zero => intro a s; exact (modTxn_outer _ _).kept
  | succ n ih => intro a s; exact (readOne_kept s a).trans (ih _ _)

theorem takeRead_kept (s : State) (addr count : Nat) : Kept s (s.takeRead addr count) := by
  unfold State.takeRead
  split
  · exact .refl s
  · split
    · refine Kept.trans ?_ (readBurst_kept _ _ _)
      refine Kept.trans ?_ (modTxn_outer _ _).kept
      exact .of_same rfl rfl rfl rfl rfl rfl rfl rfl rfl
    · exact readBurst_kept _ _ _
    · exact .refl s
    · exact .refl s

theorem openWrite_kept (s : State) (a : Nat) : Kept s (s.openWrite a) := by
  unfold State.openWrite
  dsimp only
  refine Kept.trans ?_ (modTxn_outer _ _).kept
  exact .of_same rfl rfl rfl rfl rfl rfl rfl rfl rfl

theorem takeWrite_kept (s : State) (addr : Nat) (bytes : List Byte) : Kept s (s.takeWrite addr bytes) := by
  unfold State.takeWrite
  split
  · exact .refl s
  · split
    · exact (openWrite_kept _ _).trans (writeBurst_kept _ _ _)
    · exact writeBurst_kept _ _ _
    · exact .refl s
    · exact .refl s

theorem takeOther_outer (s : State) : Outer s s.takeOther := by
  unfold State.takeOther
  split
  · exact .refl s
  · split
    · exact modTxn_outer _ _
    · exact .refl s

/-! ## Own accesses -/

theorem cutOwn_kept (s : State) : Kept s s.cutOwn := by
  unfold State.cutOwn
  split
  · exact .refl s
  · dsimp only
    split
    · exact .of_same rfl rfl rfl rfl rfl rfl rfl rfl rfl
    · exact .of_mem rfl rfl (fun h => Mem.wf_writeBytes h _ _) rfl rfl rfl rfl rfl rfl

theorem preempt_kept (s : State) : Kept s s.preempt := by
  unfold State.preempt
  split
  · exact .refl s
  · dsimp only
    exact (cutOwn_kept s).trans (.of_same rfl rfl rfl rfl rfl rfl rfl rfl rfl)

theorem leaveQueue_outer (s : State) : Outer s s.leaveQueue := by
  unfold State.leaveQueue
  refine Outer.trans ?_ (fillPlace_inner _).outer
  exact ⟨rfl, fun h => ⟨by have := h.1; simp; omega, h.2⟩, id, id, id, fun _ => id⟩

theorem dropEntries_outer (n : Nat) : ∀ s, Outer s (State.dropEntries n s) := by
  induction n with
  | zero => exact Outer.refl
  | succ n ih =>
    intro s
    unfold State.dropEntries
    split
    · exact .refl s
    · split
      · exact .refl s
      · exact (leaveQueue_outer s).trans (ih _)

theorem dropDead_outer (s : State) : Outer s s.dropDead := by
  unfold State.dropDead
  split
  · dsimp only
    exact (dropEntries_outer 32 s).trans (.of_same rfl rfl rfl rfl rfl rfl rfl)
  · exact .refl s

theorem beginHead_length (l : List OwnEntry) : (beginHead l).length = l.length := by
  cases l <;> rfl

theorem beginOwn_kept (s : State) (k : OwnKind) : Kept s (s.beginOwn k) := by
  refine ⟨rfl, rfl, id, fun h => ⟨?_, h.2⟩, id, id, id, fun _ => id⟩
  unfold State.beginOwn
  dsimp only
  split
  · rw [beginHead_length]; exact h.1
  · exact h.1

theorem startOwn_kept (s : State) : Kept s s.startOwn := by
  unfold State.startOwn
  split
  · dsimp only
    split
    · exact (dropDead_outer s).kept.trans (beginOwn_kept _ _)
    · exact (dropDead_outer s).kept
  · exact .refl s

theorem endOwn_kept (s : State) (o : Own) : Kept s (s.endOwn o) :=
  .of_mem rfl rfl (fun h => Mem.wf_writeBytes h _ _) rfl rfl rfl rfl rfl rfl

theorem measWritten_kept (s : State) (o : Own) : Kept s (s.measWritten o) := by
  unfold State.measWritten
  dsimp only
  have h := endOwn_kept s o
  split
  · exact h
  · refine Kept.trans ?_ (leaveQueue_outer _).kept
    refine Kept.trans (t := if 0 < (s.endOwn o).measN then _ else s.endOwn o) ?_
      (.of_same rfl rfl rfl rfl rfl rfl rfl rfl rfl)
    split
    · refine Kept.trans ?_ (markInst_inner _).outer.kept
      exact h.trans (.of_same rfl rfl rfl rfl rfl rfl rfl rfl rfl)
    · exact h

theorem eventWritten_kept (s : State) (o : Own) : Kept s (s.eventWritten o) := by
  unfold State.eventWritten
  dsimp only
  have h := endOwn_kept s o
  split
  · exact h
  · refine Kept.trans ?_ (leaveQueue_outer _).kept
    refine Kept.trans (t := if 0 < (s.endOwn o).ringN then _ else s.endOwn o) ?_
      (.of_same rfl rfl rfl rfl rfl rfl rfl rfl rfl)
    split
    · refine Kept.trans ?_ (reAlert_inner _).outer.kept
      refine Kept.trans ?_ (markInst_inner _).outer.kept
      exact h.trans (.of_same rfl rfl rfl rfl rfl rfl rfl rfl rfl)
    · exact h

theorem imageWritten_kept (s : State) (o : Own) (p : Fin 48) : Kept s (s.imageWritten o p) := by
  unfold State.imageWritten
  dsimp only
  split
  · exact endOwn_kept s o
  · exact (endOwn_kept s o).trans (.of_same rfl rfl rfl rfl rfl rfl rfl rfl rfl)

theorem instWritten_kept (s : State) (o : Own) : Kept s (s.instWritten o) := by
  unfold State.instWritten
  dsimp only
  split <;> exact (endOwn_kept s o).trans (.of_same rfl rfl rfl rfl rfl rfl rfl rfl rfl)

theorem loadRead_kept (s : State) (o : Own) : Kept s (s.loadRead o) := by
  unfold State.loadRead
  dsimp only
  split
  · exact endOwn_kept s o
  · exact (endOwn_kept s o).trans (takeLoadRead_outer _ _).kept

/-! ## The edges of SL_CS# -/

theorem fallCs_kept (s : State) : Kept s s.fallCs := by
  unfold State.fallCs
  split
  · exact .refl s
  · dsimp only
    exact (preempt_kept s).trans (.of_same rfl rfl rfl rfl rfl rfl rfl rfl rfl)

theorem riseCs_kept (s : State) : Kept s s.riseCs := by
  unfold State.riseCs
  split
  · dsimp only
    split
    · exact .of_same rfl rfl rfl rfl rfl rfl rfl rfl rfl
    · refine Kept.trans ?_ (runRound_calm _).outer.kept
      refine Kept.trans ?_ (endActs_outer _ _).kept
      exact .of_same rfl rfl rfl rfl rfl rfl rfl rfl rfl
  · exact .refl s

theorem stickCs_kept (s : State) : Kept s s.stickCs := by
  unfold State.stickCs
  split
  · exact .refl s
  · split
    · refine Kept.trans ?_ (raise_inner ..).outer.kept
      refine Kept.trans (modTxn_outer s fun x => { x with stuck := true, mlLow := false }).kept ?_
      exact .of_same rfl rfl rfl rfl rfl rfl rfl rfl rfl
    · exact .refl s

end Sys2Proof.Machine
end

