-- ==== Sys2Proof/Laws/FrameCommands.lean ====
section
/-! SUPPORT. The relation `Outer` of Laws/Frame.lean for the effects that single commands have on a part
whose clock has moved on. -/

namespace Sys2Proof.Machine

/-! ## Phase controller -/

theorem mainsSample_kept (s : State) (high : Bool) : Kept s (s.mainsSample high) := by
  unfold State.mainsSample
  dsimp only
  split <;> exact .of_same rfl rfl rfl rfl rfl rfl rfl rfl rfl

theorem clearCharge_outer (s : State) : Outer s s.clearCharge := by
  unfold State.clearCharge
  refine Outer.trans ?_ (Outer.fold _ (fun x p => (markPortIf_inner x _ p).outer) _)
  refine ⟨rfl, SpoolOk.of_eq rfl rfl, id, id, id, fun p h => ?_⟩
  simpa [State.port, Port.noCharge, Port.SwitchOk] using h

theorem settle_outer (s : State) : Outer s s.settle := by
  unfold State.settle
  dsimp only
  refine Outer.trans ?_ (raisePhase_inner _ _).outer
  refine Outer.trans ((clearCharge_outer s).trans (setPhase_outer _ .mains)) ?_
  exact .of_same rfl rfl rfl rfl rfl rfl rfl

/-! ## Period end -/

theorem undervoltage_outer (s : State) : Outer s s.undervoltage := by
  unfold State.undervoltage
  split
  · dsimp only
    generalize (if s.value 48 < (s.busFloor : Int) then s.phase.uv + 1 else 0) = n
    split
    · exact enterCutoff_outer _ _
    · exact .of_same rfl rfl rfl rfl rfl rfl rfl
  · exact .refl s

theorem outageTick_outer (s : State) : Outer s s.outageTick := .of_same rfl rfl rfl rfl rfl rfl rfl

theorem rotaTick_outer (s : State) : Outer s s.rotaTick := by
  unfold State.rotaTick
  split
  · split <;> exact .of_same rfl rfl rfl rfl rfl rfl rfl
  · exact .refl s

theorem placeDeferred_inner (s : State) (p : Fin 48) : Inner s (s.placeDeferred p) := by
  unfold State.placeDeferred
  split
  · exact askRetry_inner s p
  · exact .refl s

theorem evalRule_inner (s : State) (i : Fin 16) : Inner s (s.evalRule i) := by
  unfold State.evalRule
  split
  · dsimp only
    have h : ∀ e, Inner s { s with ev := { s.ev with edges := e } } :=
      fun _ => .of_same rfl rfl rfl rfl rfl rfl
    split
    · exact (h _).trans (raiseTagged_inner ..)
    · exact h _
  · exact .refl s

theorem accountPeriod_outer (s : State) : Outer s s.accountPeriod := by
  unfold State.accountPeriod
  refine Outer.trans ?_ (reHold_inner _).outer
  refine Outer.trans ?_ (accountLoad_outer _)
  refine Outer.trans ?_ (accountQ_outer _)
  exact (feedSeconds_outer s).trans (accountPorts_inner _).outer

theorem handOn_outer (s : State) : Outer s s.handOn := by
  unfold State.handOn
  dsimp only
  refine Outer.trans ?_ (runRound_calm _).outer
  refine Outer.trans ?_ (trigger_inner _ _).outer
  refine Outer.trans ?_ (Inner.fold _ evalRule_inner _).outer
  refine Outer.trans ?_ (notices_inner _).outer
  refine Outer.trans ?_ (Inner.fold _ placeDeferred_inner _).outer
  refine Outer.trans ?_ (rotaTick_outer _)
  refine Outer.trans ?_ (ageChannels_outer _)
  exact ((undervoltage_outer s).trans (levelTest_outer _)).trans (outageTick_outer _)

theorem periodEnd_outer (s : State) : Outer s s.periodEnd := by
  unfold State.periodEnd
  dsimp only
  have h : Outer s { s with acct := { s.acct with lastEnd := s.acct.lastEnd + Config.sec } } :=
    .of_same rfl rfl rfl rfl rfl rfl rfl
  split
  · exact (h.trans (accountPeriod_outer _)).trans (handOn_outer _)
  · exact (h.trans (outageTick_outer _)).trans (ageChannels_outer _)

/-! ## Ports -/

theorem lowEffects_inner (s : State) (p : Fin 48) (level : TermStatus) : Inner s (s.lowEffects p level) := by
  unfold State.lowEffects
  split
  · dsimp only
    exact (lowResync_inner s p).trans (raise_inner ..)
  · exact .refl s

theorem actionEffects_outer (s : State) (p : Fin 48) (level : TermStatus) :
    Outer s (s.actionEffects p level) := by
  unfold State.actionEffects
  split
  · split
    · exact (endWake_inner s p).outer
    · exact .refl s
  · exact setPort_outer fun h => h
  · exact testStatus_outer _ _ _
  all_goals exact .refl s

theorem statusChange_outer (s : State) (p : Fin 48) (level : TermStatus) :
    Outer s (s.statusChange p level) := by
  unfold State.statusChange
  dsimp only
  have h : Outer s (s.setPort p { s.port p with status := level, cand := none }) :=
    setPort_outer fun h => h
  split
  · exact h.trans (markPort_inner _ _).outer
  · refine Outer.trans ?_ (runRound_calm _).outer
    refine Outer.trans ?_ (markPort_inner _ _).outer
    exact (h.trans (lowEffects_inner _ p level).outer).trans (actionEffects_outer _ _ _)

theorem trip_outer (s : State) (p : Fin 48) : Outer s (s.trip p) := by
  unfold State.trip
  dsimp only
  refine Outer.trans ?_ (runRound_calm _).outer
  have h : Outer s (((s.setPort p ((s.port p).tripped s.clock)).unrequest p).markPort p) :=
    ((setPort_outer fun _ => SwitchOk.of_open rfl).trans (unrequest_inner _ _).outer).trans
      (markPort_inner _ _).outer
  have h2 := h.trans (raise_inner _ .portTrip p.val ((s.port p).tripped s.clock).trips
    (s.port p).action.code).outer
  have h3 : ∀ c : Prop, [Decidable c] → ∀ u, Outer s u → Outer s (if c then u else u.bar p 2) := by
    intro c _ u hu
    split
    · exact hu
    · exact hu.trans (bar_outer _ _ _)
  split
  · exact (h3 _ _ h2).trans (abortTest_outer _ _ _)
  · exact h3 _ _ h2

theorem unanswered_outer (s : State) (p : Fin 48) : Outer s (s.unanswered p) := by
  unfold State.unanswered
  dsimp only
  split
  · split
    · exact setPort_outer fun _ => SwitchOk.of_open rfl
    · exact (endWake_inner s p).outer
  · exact (raise_inner ..).outer.trans (bar_outer _ _ _)

theorem retryDue_inner (s : State) (p : Fin 48) : Inner s (s.retryDue p) := by
  unfold State.retryDue
  split
  · exact setPort_inner ⟨rfl, fun _ => ⟨rfl, rfl⟩, id⟩
  · exact askRetry_inner s p

/-! ## Scanner, scheduler, test unit -/

theorem converted_outer (s : State) (raw : Int) : Outer s (s.converted raw) := by
  unfold State.converted
  dsimp only
  refine Outer.trans ?_ (runRound_calm _).outer
  have h := (takeReading_outer s (corrected s.thermalCfg s.scan.pos raw)).trans
    (dealResult_inner _ (corrected s.thermalCfg s.scan.pos raw)).outer
  split
  · exact h.trans (evalThermal_outer _)
  · exact h

theorem roundTimerDone_outer (s : State) : Outer s s.roundTimerDone := by
  unfold State.roundTimerDone
  dsimp only
  have h : Outer s { s with sched := { s.sched with timer := none } } := .of_same rfl rfl rfl rfl rfl rfl rfl
  split
  · exact .of_same rfl rfl rfl rfl rfl rfl rfl
  · exact h.trans (roundStart_calm _).outer

theorem judgeDraw_outer (s : State) (run : TestRun) (samples : List Nat) :
    Outer s (s.judgeDraw run samples) := endTest_outer ..

end Sys2Proof.Machine
end

