-- ==== Sys2Proof/Laws/Operations.lean ====
section
/-! SUPPORT. What the shared operations do in the cases a later proof meets most: a touch of the live window,
a command with no round, test or target to act on, the length of the live window, the target of a coalesced
refusal, snooped bytes that belong to nobody, the bytes handed on, the refusal of a byte, and a LOW resync. -/

namespace Sys2Proof.Machine

/-- The touch of a command's own live byte changes the transaction's mark and the lapse timer alone (R111). -/
theorem touchRow_eq (s : State) :
    s.touchRow = { s with path := s.pathTouched, test := { s.test with lapse := s.lapseAfter s.clock } } := by
  unfold State.touchRow State.inWrite State.touch State.restartLapse State.pathTouched State.lapseAfter State.touches
  rcases s with ⟨c, l, ph, po, sb, g, sc, ac, sd, te, ev, st, pa, m, f, pe⟩
  rcases pa with ⟨i, ib, ml, li, cl, cs, x, oq, di, din, tu, lm, ow, pr, so⟩
  rcases x with _ | x
  · simp
  · rcases x with ⟨b, cm, a, mlw, lv, re, dc, pl, sn, cl2, rw1, lo, hi, stk⟩
    by_cases hc : cm = some LinkCmd.write <;> cases lv <;> simp [hc]

/-- A live byte of its own that the path unit takes: the window is touched and the byte acts. -/
theorem liveRow_taken {s : State} (h : s.takesLive = true) (act : State → State) :
    s.liveRow act =
      act { s with path := s.pathTouched, test := { s.test with lapse := s.lapseAfter s.clock } } := by
  unfold State.liveRow; rw [if_pos h, touchRow_eq]

/-- A live byte of its own that the path unit does not take changes nothing. -/
theorem liveRow_shut {s : State} (h : s.takesLive = false) (act : State → State) : s.liveRow act = s := by
  unfold State.liveRow; simp [h]

/-- A retry of a class that the phase permits is placed at the gate (R32). -/
theorem askRetry_permitted {s : State} {p : Fin 48} (h : s.permitted p = true) :
    s.askRetry p = (s.setPort p { s.port p with step := some .queued, retry := none }).request p .retry := by
  unfold State.askRetry; simp [h]

/-- A retry of a class that the phase does not permit ends the wake (R17; log 48). -/
theorem askRetry_barred {s : State} {p : Fin 48} (h : s.permitted p = false) :
    s.askRetry p = s.endWake p := by
  unfold State.askRetry; simp [h]

/-- With no round running no slot goes on. -/
theorem issueOn_idle {s : State} (h : s.sched.running = false) : s.issueOn = s := by
  unfold State.issueOn; simp [h]

/-- With no round running and no start pending nothing goes on. -/
theorem runRound_idle {s : State} (h : s.sched.running = false) (hp : s.sched.startPending = false) :
    s.runRound = s := by
  unfold State.runRound; simp [issueOn_idle h, hp]

/-- With no test in progress an abort changes nothing. -/
theorem abortTest_none {s : State} (h : s.test.run = none) (cause : AbortCause) (tripped : Bool) :
    s.abortTest cause tripped = s := by
  unfold State.abortTest; simp [h]

/-- With no pending target nothing is applied. -/
theorem applyTarget_none {s : State} (h : s.store.target = none) : s.applyTarget = s := by
  unfold State.applyTarget; simp [h]

/-- A list folded through an operation that keeps a part keeps that part. -/
theorem foldl_keeps {α β : Type} (part : State → β) (f : State → α → State)
    (h : ∀ s a, part (f s a) = part s) (l : List α) : ∀ s, part (l.foldl f s) = part s := by
  induction l with
  | nil => intro s; rfl
  | cons a rest ih => intro s; exact (ih _).trans (h s a)

/-- The live window is 128 bytes long. -/
theorem liveWindow_length (s : State) : s.liveWindow.length = 128 := by
  unfold State.liveWindow State.testBytes
  have hn : s.sched.record.slots.val.length = 4 := s.sched.record.slots.property
  obtain ⟨l, hl⟩ : ∃ l, l = s.sched.record.slots.val := ⟨_, rfl⟩
  rw [← hl] at hn ⊢
  match l, hn with
  | [a, b, c, d], _ => rcases s.test.last with _ | x <;> simp [leBytes, SlotRecord.bytes]

/-- An entry of the queue that takes a further refusal of a region (R132). -/
def OwnEntry.Takes (region : Nat) (x : OwnEntry) : Prop :=
  x.begun = false ∧ ∃ e, x.item = .event e ∧ e.refusalIn region = true

/-- The refusal is counted into the first entry that takes it. -/
theorem coalesceQueue_first (region : Nat) (before : List OwnEntry) (x : OwnEntry) (after : List OwnEntry)
    (e : Event) (hb : x.begun = false) (he : x.item = .event e) (hr : e.refusalIn region = true)
    (h : ∀ z ∈ before, ¬z.Takes region) :
    coalesceQueue region (before ++ x :: after) =
      some (before ++ { x with item := .event e.counted } :: after) := by
  induction before with
  | nil => unfold coalesceQueue; rw [List.nil_append, List.nil_append]; simp only [he, hb, hr, if_true]
  | cons w rest ih =>
    have hw := h w (by simp)
    have ih' := ih fun z hz => h z (by simp [hz])
    rw [List.cons_append, List.cons_append]
    unfold coalesceQueue
    split
    · rename_i f hf hbf
      rw [if_neg fun hc => hw ⟨hbf, f, hf, hc⟩, ih']; rfl
    · rw [ih']; rfl

/-- With no entry that takes it, the refusal is not counted into the queue. -/
theorem coalesceQueue_none (region : Nat) (l : List OwnEntry) (h : ∀ z ∈ l, ¬z.Takes region) :
    coalesceQueue region l = none := by
  induction l with
  | nil => rfl
  | cons w rest ih =>
    have hw := h w (by simp)
    have ih' := ih fun z hz => h z (by simp [hz])
    unfold coalesceQueue
    split
    · rename_i f hf hbf
      rw [if_neg fun hc => hw ⟨hbf, f, hf, hc⟩, ih']; rfl
    · rw [ih']; rfl

/-- The refusal is counted into the first staged refusal of its region. -/
theorem coalesceStaging_first (region : Nat) (before : List Event) (e : Event) (after : List Event)
    (hr : e.refusalIn region = true) (h : ∀ z ∈ before, z.refusalIn region = false) :
    coalesceStaging region (before ++ e :: after) = some (before ++ e.counted :: after) := by
  induction before with
  | nil => unfold coalesceStaging; simp [hr]
  | cons w rest ih =>
    rw [List.cons_append, List.cons_append]
    unfold coalesceStaging
    rw [if_neg (by simp [h w]), ih fun z hz => h z (by simp [hz])]; rfl

/-- With no staged refusal of its region, the refusal is not counted into the staging list. -/
theorem coalesceStaging_none (region : Nat) (l : List Event) (h : ∀ z ∈ l, z.refusalIn region = false) :
    coalesceStaging region l = none := by
  induction l with
  | nil => rfl
  | cons w rest ih =>
    unfold coalesceStaging
    rw [if_neg (by simp [h w]), ih fun z hz => h z (by simp [hz])]; rfl

/-- Bytes outside the installation block leave its image as it is. -/
theorem instTake_outside (l : List Placed) (h : ∀ y ∈ l, 128 ≤ y.addr) (m : Mem) : instTake m l = m := by
  induction l generalizing m with
  | nil => rfl
  | cons x rest ih =>
    have hx := h x (by simp)
    rw [instTake, if_neg (by omega)]
    exact ih (fun y hy => h y (by simp [hy])) m

/-- Bytes outside the installation block are no concern of its snoop. -/
theorem snoopInst_outside (s : State) (l : List Placed) (h : ∀ y ∈ l, 128 ≤ y.addr) :
    s.snoopInst l = s := by
  unfold State.snoopInst
  split
  · rfl
  · rw [instTake_outside l h, instTake_outside l h]; simp

/-- Bytes outside a bank's region are no concern of that bank. -/
theorem snoopBank_outside (s : State) (which : Bank) (l : List Placed)
    (h : ∀ y ∈ l, ∀ r, s.bankRegion which = some r → ¬(r.lo ≤ y.addr ∧ y.addr < r.hi)) :
    s.snoopBank which l = s := by
  unfold State.snoopBank
  split
  · rfl
  · rename_i r hr
    have hn : l.filter (fun y => decide (r.lo ≤ y.addr) && decide (y.addr < r.hi)) = [] := by
      rw [List.filter_eq_nil_iff]; intro y hy; simpa using h y hy r hr
    simp [hn]

/-- In MAINS every placed byte is handed on. -/
theorem handedOn_mains {s : State} (h : s.phase.phase = .mains) (x : Txn) : s.handedOn x = x.placed := by
  unfold State.handedOn; simp [h]

/-- Out of MAINS the bytes handed on are those not open in MAINS alone and outside the active bank (log 54). -/
theorem mem_handedOn {s : State} (h : s.phase.phase ≠ .mains) (x : Txn) (y : Placed) :
    y ∈ s.handedOn x ↔ y ∈ x.placed ∧ y.locked = false ∧ s.inActive y.addr = false := by
  unfold State.handedOn; simp [h]

/-- A byte found refusing with the complete address is refused as it was found (log 53). -/
theorem refusalAt_decided {s : State} {t : Txn} {d : Nat × WriteCause} (h : t.decided = some d) (a : Nat) :
    s.refusalAt t a = some d := by
  unfold State.refusalAt; simp [h]

/-- A byte with no such finding is refused by its class now, after the live window as AFTER_WINDOW (R158, R159). -/
theorem refusalAt_now {s : State} {t : Txn} (h : t.decided = none) (a : Nat) :
    s.refusalAt t a = if t.live then some (s.refusalSubject a, .afterWindow) else s.classRefusal a := by
  unfold State.refusalAt; simp [h]

/-- With a plan in use a LOW resync reckons with the policy of that plan (R70). -/
theorem resyncPolicy_plan {s : State} (h : s.store.plan ≠ .noPlan) (p : Fin 48) : s.resyncPolicy p = s.policy p := by
  unfold State.resyncPolicy; rw [if_neg h]

/-- The C of a LOW resync, with a plan in use or without (R70; log 10). -/
theorem resyncPolicy_cap (s : State) (p : Fin 48) :
    (s.resyncPolicy p).cap = if s.store.plan = .noPlan then (s.port p).cap else (s.policy p).cap := by
  unfold State.resyncPolicy; split <;> rfl

/-- What a LOW resync makes of the port: a deficit of at least 7C/8, with U and key reckoned from it (R70). -/
theorem lowResync_port (s : State) (p : Fin 48) :
    (s.lowResync p).port p = Port.reckon
      { s.port p with deficit := max (s.port p).deficit (7 * (s.resyncPolicy p).cap / 8) } (s.resyncPolicy p) := by
  unfold State.lowResync State.markPortIf State.markPort
  dsimp only
  split <;> exact port_setPort_same ..

end Sys2Proof.Machine
end

