-- ==== Sys2Proof/WellFormed.lean ====
section
/-! DEFINITION. The checks on a command's operands. -/

namespace Sys2Proof

/-- A byte written at a live offset acts (10_memory_images.md, column Write). -/
def liveActs (off : Nat) (v : Byte) : Bool :=
  match off with
  | 19 => v == 1#8
  | 20 => true
  | 21 => true
  | 22 => true
  | 25 => true
  | 43 => v.toNat ≤ 1
  | 44 => v != 0#8
  | 45 => true
  | 46 => true
  | 47 => true
  | 53 => v == 1#8 || v == 2#8
  | 55 => decide (v.toNat < 48)
  | _ => false

/-- Samples of MAINS_OK fall on whole milliseconds (R1); an address lies in the plan memory (its
transaction may end before any data, R155); a field write writes at least one byte; a DRAW test takes 10,000 samples
(R116); an array command is no other command (R155); an absorbed live byte does not act. -/
def Instr.wellFormed : Instr → Bool
  | .powerOnReset => true
  | .warmReset _ => true
  | .nresetRelease => true
  | .mainsOkChange t _ => t % Config.ms == 0
  | .lossQualified _ => true
  | .restoreQualified _ => true
  | .settlingComplete _ => true
  | .accountingPeriodEnd _ => true
  | .startLevelWrite _ _ => true
  | .terminalStatusReading _ _ _ => true
  | .statusDebounceExpiry _ _ => true
  | .absenceTimerExpiry _ _ => true
  | .tripReport _ _ => true
  | .coolOffExpiry _ _ => true
  | .pulseTimerExpiry _ _ => true
  | .answerTimerExpiry _ _ => true
  | .retryTimerExpiry _ _ => true
  | .barClear _ _ => true
  | .gateGrant _ => true
  | .conversionComplete _ _ => true
  | .conversionFailed _ => true
  | .scanTrigger _ _ => true
  | .scanStop _ => true
  | .roundTimerExpiry _ => true
  | .claimAttempt _ => true
  | .claimRelease _ => true
  | .claimLapse _ => true
  | .testRequest _ port kind minutes => port.isSome || kind.isSome || minutes.isSome
  | .testAbort _ _ => true
  | .holdupTimeExpiry _ => true
  | .testPulseEnd _ => true
  | .testAnswerTimerExpiry _ => true
  | .drawSamplingEnd _ samples => samples.length == Config.drawSamples
  | .readIndexWrite _ lo hi => lo.isSome || hi.isSome
  | .bankSwitchWrite _ v => v.toNat ≤ 1
  | .transactionStart _ => true
  | .arrayRead _ addr _ => decide (addr < Config.memSize)
  | .arrayWrite _ addr _ => decide (addr < Config.memSize)
  | .otherCommand _ command => command != 0x03#8 && command != 0x02#8
  | .mapLockWrite _ v => v != 0#8
  | .liveWriteAbsorbed _ off v => !liveActs off.val v
  | .transactionEnd _ => true
  | .linkStuck _ => true
  | .ownAccessStart _ => true
  | .planLoadReadComplete _ => true
  | .measRecordWriteComplete _ => true
  | .eventRecordWriteComplete _ => true
  | .portImageWriteComplete _ => true
  | .installationWriteComplete _ => true
  | .powerOnResetRelease => true

end Sys2Proof
end

