-- ==== Sys2Proof/Tests/Slice0.lean ====
section
/-! SUPPORT. Tests of the model on small states, expected values taken from the rules named, and one witness
for the hypotheses of each statement of `Obligations`. -/

open Sys2Proof Sys2Proof.Machine

set_option Elab.async false

namespace Sys2Proof.Tests

/-! ## Operands that the checks refuse -/

theorem test_refuses_sample_off_the_millisecond : (Instr.mainsOkChange 1500 true).wellFormed = false := by
  decide
theorem test_refuses_request_of_no_byte : (Instr.testRequest 0 none none none).wellFormed = false := by decide
theorem test_refuses_short_draw : (Instr.drawSamplingEnd 0 [1, 2]).wellFormed = false := by decide
theorem test_refuses_index_of_no_byte : (Instr.readIndexWrite 0 none none).wellFormed = false := by decide
theorem test_refuses_switch_to_bank_two : (Instr.bankSwitchWrite 0 2#8).wellFormed = false := by decide
theorem test_refuses_read_above_memory : (Instr.arrayRead 0 262144 1).wellFormed = false := by decide
theorem test_refuses_write_above_memory : (Instr.arrayWrite 0 262144 [1#8]).wellFormed = false := by decide
theorem test_refuses_read_as_other_command : (Instr.otherCommand 0 0x03#8).wellFormed = false := by decide
theorem test_refuses_write_as_other_command : (Instr.otherCommand 0 0x02#8).wellFormed = false := by decide
theorem test_refuses_lock_write_of_zero : (Instr.mapLockWrite 0 0#8).wellFormed = false := by decide
theorem test_refuses_acting_byte_as_absorbed : (Instr.liveWriteAbsorbed 0 45 7#8).wellFormed = false := by
  decide
theorem test_accepts_byte_without_behaviour : (Instr.liveWriteAbsorbed 0 19 2#8).wellFormed = true := by
  decide

/-- R155: an array command takes effect when its address is complete, with no data byte after it. -/
theorem test_accepts_array_commands_without_data :
    (Instr.arrayRead 0 0 0).wellFormed = true ∧ (Instr.arrayWrite 0 0 []).wellFormed = true := by decide

/-- The table gives no row bits, so no word spells a command. -/
theorem test_no_word_decodes : decodeTableWord 8 3 = none := by decide

/-! ## Small states -/

/-- A field of the state a command leaves. -/
def seen {α : Type} (f : State → α) (c : Instr) (s : State) : Option α :=
  match exec c s with
  | .next t => some (f t)
  | .fault _ => none
  | .refused _ => none

/-- Released and READY under the built-in plan, nothing configured. -/
def ready : State :=
  { State.reset with
    line := .released
    store := { State.reset.store with ready := true, plan := .builtIn } }

/-- `ready` in a phase, mains lost. -/
def inPhase (ph : Phase) : State := { ready with phase := { ready.phase with phase := ph, mains := .lost } }

/-- Port 3 holds a record. -/
def on3 (x : Port) (s : State) : State := s.setPort 3 x

/-- A test of a kind runs on port 3 since the moment 0. -/
def testing (kind : TestKind) : State :=
  let s := on3 { action := .testing, status := .run, switch := decide (kind ≠ .holdup) } (inPhase .outage)
  { s with test := { s.test with
      owner := .supervisor, claim := .held, lapse := some 0
      run := some { port := 3, kind := kind, bySupervisor := true, minutes := 2, rota := none
                    attached := 0, granted := some 0, pulse := some 0 } } }

/-- Installation block: bank A at 000100h, bank B at 000500h, PORT_IMAGE at 000900h, EVENTS (64 records)
at 000F00h, MEAS at 001300h; segment boundary 48; every port in the mask. -/
def blockBytes : List Byte :=
  [0x5A#8, 0x3C#8, 1#8, 0#8, 0#8, 0#8, 0#8, 0#8, 0#8, 0#8]
  ++ ([5, 9, 15, 19, 23, 23, 23, 23].flatMap fun n => leBytes 2 n)
  ++ [1#8, 2#8, 3#8, 5#8, 4#8, 0#8, 0#8, 0#8]
  ++ List.replicate 8 48#8 ++ List.replicate 6 255#8
  ++ leBytes 2 100 ++ leBytes 2 4400 ++ [2#8] ++ leBytes 2 30
  ++ leBytes 2 90 ++ leBytes 2 110 ++ leBytes 2 130 ++ [4#8]

/-- `ready` with that installation block known. -/
def built (s : State) : State :=
  { s with
    segBounds := Tab.fill 8 48
    path := { s.path with inst := some (Mem.writeBytes [] 0 blockBytes) } }

/-- A bank switch is pending. -/
def pend (k : Bank) (s : State) : State := { s with store := { s.store with target := some k } }

/-- A reload runs. -/
def reloading (s : State) : State :=
  { s with store := { s.store with load := some { cause := .remapped, todo := [.inst], off := 0 } } }

/-- A transaction begun at 0 and nothing received in it. -/
def linked (s : State) : State :=
  { s with path := { s.path with csLow := true, txn := some { began := 0 } } }

/-! ## One step of each command -/

theorem test_power_on_reset_keeps_memory :
    seen (fun t => (t.mem, t.phase.startLevel)) .powerOnReset
      { ready with mem := [(5, 1#8)], phase := { ready.phase with startLevel := 40 } }
      = some ([(5, 1#8)], 100) := by decide

theorem test_warm_reset_keeps_barred :
    seen (fun t => ((t.port 3).action, (t.port 3).trips, (t.port 4).action)) (.warmReset 7)
      ((on3 { action := .barred, trips := 3 } ready).setPort 4 { action := .feeding, switch := true })
      = some (.barred, 3, .idle) := by decide

theorem test_release_in_outage_with_mains_high_returns :
    seen (fun t => (t.phase.mains, t.clock)) .nresetRelease { inPhase .outage with line := .warm, clock := 9 }
      = some (.returning, 0) := by decide

theorem test_power_on_release_reads_installation_block :
    seen (fun t => t.store.load.map (·.todo)) .powerOnResetRelease State.reset = some (some [.inst]) := by
  decide

theorem test_low_sample_starts_losing :
    seen (fun t => (t.phase.mains, t.phase.qual)) (.mainsOkChange 4000 false) ready
      = some (.losing, .running 4000) := by decide

theorem test_loss_at_two_seconds_starts_outage :
    seen (fun t => (t.phase.phase, t.acct.q)) (.lossQualified 2000000)
      { ready with phase := { ready.phase with mains := .losing, qual := .running 0, startLevel := 50 } }
      = some (.outage, 180000000) := by decide

theorem test_loss_one_us_early_waits :
    seen (fun t => t.phase.phase) (.lossQualified 1999999)
      { ready with phase := { ready.phase with mains := .losing, qual := .running 0 } }
      = some .mains := by decide

theorem test_restore_at_thirty_seconds :
    seen (fun t => (t.phase.phase, (t.port 3).switch)) (.restoreQualified 30000000)
      (on3 { action := .feeding, switch := true }
        { inPhase .cutoff with phase := { (inPhase .cutoff).phase with mains := .returning, qual := .running 0 } })
      = some (.restore, false) := by decide +kernel

theorem test_settling_clears_deficit :
    seen (fun t => (t.phase.phase, (t.port 3).deficit)) (.settlingComplete 0)
      (on3 { action := .idle, deficit := 500 } (inPhase .restore)) = some (.mains, 0) := by decide

theorem test_period_drains_running_terminal :
    seen (fun t => ((t.port 3).deficit, t.phase.outageTime)) (.accountingPeriodEnd 1000000)
      (on3 { action := .idle, status := .run, deficit := 100 }
        { inPhase .outage with acct := { ready.acct with q := 360000000 } }) = some (350, 1) := by decide +kernel

theorem test_period_feeds_at_twelve_sixteenths :
    seen (fun t => (t.port 3).deficit) (.accountingPeriodEnd 1000000)
      (on3 { action := .feeding, status := .run, deficit := 1000, switch := true }
        { inPhase .outage with
          acct := { ready.acct with q := 360000000 }
          scan := { ready.scan with values := ready.scan.values.set 3 1050 } }) = some 400 := by decide +kernel

theorem test_start_level_above_hundred :
    seen (fun t => t.phase.startLevel) (.startLevelWrite 0 101#8) ready = some 100 := by decide

theorem test_reading_between_levels_drops_candidate :
    seen (fun t => (t.port 3).cand) (.terminalStatusReading 5 3 none)
      (on3 { cand := some (.run, 1) } ready) = some none := by decide

theorem test_status_after_200_ms :
    seen (fun t => ((t.port 3).status, (t.port 3).action)) (.statusDebounceExpiry 200000 3)
      (on3 { action := .waking, switch := true, cand := some (.run, 0) } (inPhase .outage))
      = some (.run, .idle) := by decide

theorem test_absence_ends_feed :
    seen (fun t => ((t.port 3).action, t.ev.lastKind)) (.absenceTimerExpiry 5000000 3)
      (on3 { action := .feeding, switch := true, absence := some 0 } ready)
      = some (.idle, some .terminalLost) := by decide

theorem test_third_trip_bars :
    seen (fun t => ((t.port 3).action, (t.port 3).trips)) (.tripReport 0 3)
      (on3 { action := .feeding, switch := true, trips := 2 } ready) = some (.barred, 3) := by decide

theorem test_trip_of_open_switch_discarded :
    seen (fun t => (t.port 3).trips) (.tripReport 0 3) (on3 { action := .idle } ready) = some 0 := by decide

theorem test_cool_off_keeps_trips :
    seen (fun t => ((t.port 3).action, (t.port 3).trips)) (.coolOffExpiry 60000000 3)
      (on3 { action := .tripped, trips := 1, coolOff := some 0 } ready) = some (.idle, 1) := by decide

theorem test_pulse_ends_after_500_ms :
    seen (fun t => ((t.port 3).switch, (t.port 3).step)) (.pulseTimerExpiry 500000 3)
      (on3 { action := .waking, switch := true, pulse := some 0 } ready)
      = some (false, some .answer) := by decide

theorem test_unanswered_wake_bars_after_two_retries :
    seen (fun t => ((t.port 3).action, t.ev.lastKind)) (.answerTimerExpiry 5000000 3)
      (on3 { action := .waking, attempts := 3, answer := some 0 } (inPhase .outage))
      = some (.barred, some .portBarred) := by decide

theorem test_retry_deferred_under_hold :
    seen (fun t => (t.port 3).step) (.retryTimerExpiry 30000000 3)
      (on3 { action := .waking, retry := some 0 }
        { inPhase .outage with acct := { ready.acct with hold := true } }) = some (some .deferred) := by decide

theorem test_bar_clear_of_port_47 :
    seen (fun t => ((t.port 47).action, (t.port 47).trips)) (.barClear 0 47#8)
      (ready.setPort 47 { action := .barred, trips := 3 }) = some (.idle, 0) := by decide

theorem test_grant_of_retry_counts_attempt :
    seen (fun t => ((t.port 3).attempts, t.acct.count, t.gate.last)) (.gateGrant 9)
      { on3 { action := .waking, attempts := 1, step := some .queued } (built (inPhase .outage)) with
        gate := { waiting := [{ port := 3, kind := .retry, placed := 0 }] } } = some (2, 1, some 9) := by decide

theorem test_conversion_saturates_battery_current :
    seen (fun t => (t.value 49, t.scan.pos)) (.conversionComplete 2000 40000)
      { ready with scan := { ready.scan with state := .sweeping, pos := 49, conv := some 0 } }
      = some (32767, 50) := by decide

theorem test_critical_sets_latch :
    seen (fun t => (t.scan.thermal, t.scan.latch)) (.conversionComplete 2000 130)
      { ready with scan := { ready.scan with state := .sweeping, pos := 53, conv := some 0 } }
      = some (.critical, true) := by decide +kernel

theorem test_failed_conversion_keeps_value :
    seen (fun t => (t.value 49, t.scan.pos)) (.conversionFailed 2000)
      { ready with scan := { ready.scan with
          state := .sweeping, pos := 49, conv := some 0, values := ready.scan.values.set 49 7 } }
      = some (7, 50) := by decide

theorem test_tick_starts_continuous_sweep :
    seen (fun t => (t.scan.state, t.scan.conv)) (.scanTrigger 8 .tick) ready
      = some (.sweeping, some 8) := by decide

theorem test_stop_discards_conversion :
    seen (fun t => (t.scan.state, t.scan.conv)) (.scanStop 1)
      { ready with scan := { ready.scan with state := .sweeping, conv := some 0 } }
      = some (.idle, none) := by decide

theorem test_round_places_feed_and_waits_at_gate :
    seen (fun t => (t.sched.running, t.gate.waiting.map (·.port), t.sched.number)) (.roundTimerExpiry 10000000)
      (let s := on3 { action := .idle, status := .run, u := 600, key := 856 } (built (inPhase .outage))
       { s with sched := { s.sched with timer := some 10000000, queue := [{ port := 3, u := 600, key := 856 }] } })
      = some (true, [3], 1) := by decide +kernel

theorem test_claim_of_free_channel :
    seen (fun t => (t.test.claim, t.path.slOut)) (.claimAttempt 1) ready = some (.held, [0#8]) := by decide

theorem test_release_during_test :
    seen (fun t => (t.test.claim, t.test.owner)) (.claimRelease 1) (testing .draw)
      = some (.releasing, .supervisor) := by decide

theorem test_claim_lapses_at_120_s :
    seen (fun t => t.test.claim) (.claimLapse 120000000)
      { ready with test := { ready.test with owner := .supervisor, claim := .held, lapse := some 0 } }
      = some .none := by decide

theorem test_request_in_mains_refused_by_phase :
    seen (fun t => t.test.req.outcome) (.testRequest 0 (some 3#8) (some 1#8) (some 2#8)) ready
      = some (.refused .phase) := by decide

theorem test_abort_is_by_supervisor :
    seen (fun t => t.test.last.map (·.result)) (.testAbort 0 0#8) (testing .holdup)
      = some (some (.aborted .supervisor)) := by decide

theorem test_holdup_of_two_minutes_passes :
    seen (fun t => t.test.last.map fun x => (x.result, x.value)) (.holdupTimeExpiry 120000000) (testing .holdup)
      = some (some (.pass, 120)) := by decide

theorem test_test_pulse_opens_switch :
    seen (fun t => (t.port 3).switch) (.testPulseEnd 500000) (testing .wake) = some false := by decide

theorem test_unanswered_wake_test_fails :
    seen (fun t => t.test.last.map fun x => (x.result, x.value)) (.testAnswerTimerExpiry 5000000) (testing .wake)
      = some (some (.fail, 5000)) := by decide

theorem test_draw_average_rounds_down :
    drawAverage (List.replicate 3 10001) = 1 ∧ drawSpan [7, 5000, 3] = (3, 4095) := by decide

theorem test_early_draw_end_has_no_effect :
    seen (fun t => t.test.run.isSome) (.drawSamplingEnd 9999999 []) (testing .draw) = some true := by decide

theorem test_read_index_held_while_loading :
    seen (fun t => t.ev.heldRd) (.readIndexWrite 0 (some 4#8) (some 1#8))
      { ready with store := { ready.store with ready := false } } = some (some 260) := by decide

theorem test_read_index_ahead_of_w_becomes_w :
    seen (fun t => t.ev.r) (.readIndexWrite 0 (some 10#8) none)
      { built ready with ev := { ready.ev with w := 5, r := 1 } } = some 5 := by decide

theorem test_bank_switch_pending_in_outage :
    seen (fun t => t.store.target) (.bankSwitchWrite 0 1#8) (inPhase .outage) = some (some .b) := by decide

/-- R150: the switch comes in another transaction; the open burst has not reached the live window. -/
theorem test_bank_switch_leaves_open_burst :
    seen (fun t => t.path.txn.map (·.live)) (.bankSwitchWrite 0 0#8)
      { ready with path := { ready.path with csLow := true, txn := some { began := 0, cmd := some .write } } }
      = some (some false) := by decide

theorem test_transaction_cuts_read_and_owes_it :
    seen (fun t => (t.path.own.isSome, t.path.preempted)) (.transactionStart 5)
      { ready with path := { ready.path with link := .own, own := some { kind := .load, addr := 0, data := [] } } }
      = some (false, some .load) := by decide

theorem test_read_wraps_at_end_of_memory :
    seen (fun t => t.path.slOut) (.arrayRead 1 0x3FFFF 2) { linked ready with mem := [(0, 7#8), (0x3FFFF, 9#8)] }
      = some [9#8, 7#8] := by decide

theorem test_read_serves_part_identity :
    seen (fun t => t.path.slOut) (.arrayRead 1 128 2) (linked ready) = some [0x48#8, 0x01#8] := by decide

theorem test_write_stops_at_owned_region :
    seen (fun t => (t.mem, t.path.txn.map (·.refused))) (.arrayWrite 1 0x8FF [1#8, 2#8]) (linked (built ready))
      = some ([(0x8FF, 1#8)], some (some 0x900)) := by decide

theorem test_write_with_map_unknown_refused :
    seen (fun t => (t.mem, t.ev.lastKind)) (.arrayWrite 1 0 [1#8]) (linked ready)
      = some ([], some .writeRefused) := by decide

theorem test_other_command_ends_the_decision :
    seen (fun t => t.path.txn.map (·.cmd)) (.otherCommand 1 0x9F#8) (linked ready) = some (some (some .other)) := by
  decide

theorem test_lock_write_sets_lock :
    seen (fun t => t.path.mapLock) (.mapLockWrite 1 2#8) ready = some true := by decide

theorem test_absorbed_byte_restarts_lapse :
    seen (fun t => t.test.lapse) (.liveWriteAbsorbed 5 0 1#8)
      { ready with test := { ready.test with claim := .held, lapse := some 0 } } = some (some 5) := by decide

theorem test_transaction_end_closes :
    seen (fun t => (t.path.csLow, t.path.txn.isSome, t.path.csSince)) (.transactionEnd 5) (linked ready)
      = some (false, false, 5) := by decide

theorem test_link_stuck_after_50_ms :
    seen (fun t => (t.path.link, t.ev.lastKind)) (.linkStuck 50000) (linked ready)
      = some (.stuck, some .linkStuck) := by decide

theorem test_own_access_waits_for_quiet_gap :
    seen (fun t => t.path.own.isSome) (.ownAccessStart 1)
      { ready with store := { ready.store with load := some { cause := .warm, todo := [.inst], off := 0 } } }
      = some false := by decide

theorem test_mark_of_port_3_is_served :
    seen (fun t => t.path.own.map fun o => (o.kind, o.addr)) (.ownAccessStart 2)
      (let s := built ready
       { s with path := { s.path with dirty := s.path.dirty.set 3 true } })
      = some (some (.image 3, 0x900 + 96)) := by decide

theorem test_load_read_takes_64_bytes :
    seen (fun t => t.store.load.map (·.off)) (.planLoadReadComplete 3)
      { ready with
        store := { ready.store with ready := false, load := some { cause := .warm, todo := [.inst], off := 0 } }
        path := { ready.path with link := .own, own := some { kind := .load, addr := 0, data := [] } } }
      = some (some 64) := by decide

/-- An own write of a kind is under way. -/
def writing (k : OwnKind) (a : Nat) (bytes : List Byte) (q : List OwnEntry) : State :=
  let s := built ready
  { s with path := { s.path with link := .own, own := some { kind := k, addr := a, data := bytes }, ownq := q } }

/-- An entry of each kind, its own write begun. -/
def measEntry : OwnEntry := { item := .meas { channel := 5, value := 7, time := 0 }, begun := true }

/-- An event entry, its own write begun. -/
def eventEntry : OwnEntry := { item := .event (ready.entry .portTrip 3 1 3 0), begun := true }

theorem test_meas_write_moves_index :
    seen (fun t => (t.scan.measIdx, t.path.ownq, t.path.turn)) (.measRecordWriteComplete 1)
      (writing .meas 0x1300 [5#8] [measEntry]) = some (1, [], .marks) := by decide

theorem test_event_write_moves_w :
    seen (fun t => (t.ev.w, t.ev.r, t.path.dirtyInst)) (.eventRecordWriteComplete 1)
      (writing .event 0xF00 [7#8] [eventEntry]) = some (1, 0, true) := by decide

theorem test_image_write_clears_mark :
    seen (fun t => (t.path.dirty.get 3, t.path.lastMark)) (.portImageWriteComplete 1)
      (let s := writing (.image 3) 0x960 [1#8] []
       { s with path := { s.path with dirty := s.path.dirty.set 3 true } }) = some (false, .port 3) := by decide

theorem test_installation_write_clears_mark :
    seen (fun t => (t.path.dirtyInst, t.path.turn)) (.installationWriteComplete 1)
      (let s := writing .inst 3 [0#8, 1#8] []
       { s with path := { s.path with dirtyInst := true, turn := .marks } }) = some (false, .queue) := by decide

/-! ## Corners of the memory path -/

/-- R167: while STUCK the lock byte is not taken. -/
theorem test_lock_write_while_stuck :
    seen (fun t => t.path.mapLock) (.mapLockWrite 1 2#8)
      { ready with path := { ready.path with csLow := true, txn := some { began := 0, stuck := true } } }
      = some false := by decide

/-- R168: in a transaction ignored since a reset no claim is attempted and no byte goes out. -/
theorem test_claim_ignored_since_reset :
    seen (fun t => (t.test.claim, t.path.slOut)) (.claimAttempt 1)
      { ready with path := { ready.path with csLow := true } }
      = some (.none, []) := by decide

/-- R155: a first byte decided as refusing in OUTAGE stays refused with its cause after the entry to MAINS. -/
theorem test_decided_byte_stays_refused :
    seen (fun t => (t.mem, t.path.txn.map (·.refused))) (.arrayWrite 1 0x100 [1#8])
      (let s := linked (built ready)
       { s with path := { s.path with
           txn := some { began := 0, cmd := some .write, addr := 0x100, decided := some (0, .activeBank) } } })
      = some ([], some (some 0x100)) := by decide

/-- R151: out of MAINS the bytes of the bank now active are not handed on, though placed while it was standby. -/
theorem test_bytes_of_active_bank_stay :
    seen (fun t => t.store.a.image) (.transactionEnd 5)
      (let s := built (inPhase .outage)
       { s with path := { s.path with
           csLow := true
           txn := some { began := 0, cmd := some .write
                         placed := [{ addr := 0x114, byte := 9#8, locked := false }] } } })
      = some [] := by decide +kernel

/-! ## Witnesses: the whole machine and resets

Each theorem shows a state and operands that meet the hypotheses of the statement it is named after, at the
boundary values of its clauses. -/

/-- A state with a command waiting, a byte in memory, port 3 feeding, a test on port 4, a full queue. -/
def busy : State :=
  let s := (on3 { action := .feeding, switch := true } (inPhase .outage)).setPort 4
    { action := .testing, status := .run }
  { s with
    mem := [(5, 1#8)]
    scan := { s.scan with latch := true }
    phase := { s.phase with startLevel := 100 }
    path := { s.path with ownq := List.replicate 16 eventEntry, mapLock := true }
    ev := { s.ev with staging := List.replicate 8 (s.entry .thermal 0 0 2 0) }
    test := { s.test with run := some { port := 4, kind := .holdup, bySupervisor := true, minutes := 1
                                        rota := none, attached := 0 } }
    pending := [.startLevelWrite 1 255#8] }

theorem witness_StepTakesFrontCommand :
    busy.pending = Instr.startLevelWrite 1 255#8 :: [] ∧ ready.pending = [] := by decide

theorem witness_CommandsKeepWaitingQueue : ∃ t, exec (.startLevelWrite 1 255#8) busy = .next t := ⟨_, rfl⟩

theorem witness_StepKeepsMemoryCanonical : ∃ t, busy.MemOk ∧ step busy = .next t :=
  ⟨_, by unfold State.MemOk; decide, rfl⟩

/-- `busy` with ports 1 and 2 queued at one key, the one of the lower number first. -/
def queuedTwo : State :=
  let s := (busy.setPort 1 { action := .idle, u := 600, key := 856 }).setPort 2
    { action := .idle, u := 600, key := 856 }
  { s with
    scan := { s.scan with latch := false }
    sched := { s.sched with queue := [{ port := 1, u := 600, key := 856 }, { port := 2, u := 600, key := 856 }] } }

theorem witness_StepKeepsBounds :
    (∃ t, busy.SpoolOk ∧ busy.phase.startLevel ≤ 100 ∧ step busy = .next t) ∧
      ∃ t, queuedTwo.QueueOk ∧ queuedTwo.SwitchesOk ∧ step queuedTwo = .next t := by
  refine ⟨⟨_, by unfold State.SpoolOk; decide, by decide, rfl⟩, _, ⟨?_, ?_, ?_, ?_, ?_, ?_⟩, ?_, rfl⟩
  · exact .cons (by rintro y (_ | ⟨_, ⟨⟩⟩); exact .inr ⟨rfl, by decide⟩) (.cons nofun .nil)
  · decide +kernel
  · decide +kernel
  · decide +kernel
  · decide +kernel
  · decide +kernel
  · unfold State.SwitchesOk Port.SwitchOk; decide +kernel

theorem witness_StepKeepsSwitchesOpen : ∃ t, busy.SwitchesOk ∧ step busy = .next t :=
  ⟨_, by unfold State.SwitchesOk Port.SwitchOk; decide +kernel, rfl⟩

theorem witness_StepKeepsAttachment : ∃ t, busy.AttachOk ∧ step busy = .next t :=
  ⟨_, by unfold State.AttachOk; decide +kernel, rfl⟩

theorem witness_LatchClearedByResetAlone :
    ∃ t, (Instr.scanStop 0).isReset = false ∧ busy.scan.latch = true ∧ exec (.scanStop 0) busy = .next t :=
  ⟨_, rfl, rfl, rfl⟩

theorem witness_MemoryMovesOnThePathAlone :
    ∃ t, (Instr.ownAccessStart 9).movesMemory = false ∧ exec (.ownAccessStart 9) busy = .next t :=
  ⟨_, rfl, rfl⟩

theorem witness_AssertedResetIsInert :
    State.reset.line ≠ .released ∧ (Instr.claimLapse 9).isReset = false ∧
      (Instr.claimLapse 9).movesLine = false := by decide

/-- An own write of two bytes at 000960h is under way; the bytes around it are outside it. -/
theorem witness_PowerOnResetTakesPowerOnValues :
    let s := writing (.image 3) 0x960 [1#8, 2#8] []
    s.MemOk ∧ (∀ a, a = 0x95F ∨ a = 0x962 →
      ∀ o, s.path.own = some o → a < o.addr ∨ o.addr + o.data.length ≤ a) := by
  refine ⟨by unfold State.MemOk; decide, ?_⟩
  rintro a (rfl | rfl) o ⟨⟩ <;> decide

theorem witness_WarmResetKeepsAndClears :
    busy.line = .released ∧ busy.MemOk ∧ busy.test.run.isSome ∧ ready.test.run = none ∧
      busy.path.own = none := by
  unfold State.MemOk; decide

theorem witness_ReleaseStartsPlanLoad :
    ({ ready with line := .warm } : State).line = .warm ∧ State.reset.line = .powerOn := by decide

/-! ## Witnesses: phases -/

/-- Mains LOSING in a phase since the moment 0, the central level and the start level at `l`. -/
def losing (ph : Phase) (l : Nat) : State :=
  let s := inPhase ph
  { s with
    phase := { s.phase with mains := .losing, qual := .running 0, startLevel := l }
    acct := { s.acct with level := l } }

theorem witness_MainsSampleFollowsTable : State.reset.line ≠ .released ∧ ready.line = .released := by decide

theorem witness_QualificationHeldWhileLoading :
    let s : State := { losing .mains 50 with store := State.reset.store }
    let h (n : Nat) : State := { s with phase := { s.phase with qual := .held n } }
    let r : State := { s with phase := { s.phase with mains := .returning } }
    (s.line = .released ∧ s.store.ready = false) ∧
      (s.phase.mains = .losing ∧ s.phase.qual = .running 0 ∧ 0 + s.lossTime ≤ max s.clock 2000000 ∧
        max s.clock 1999999 < 0 + s.lossTime) ∧
      (∀ n ∈ [1999999, 2000000], (h n).phase.qual = .held n) ∧ (h 2000000).lossTime ≤ 2000000 ∧
      1999999 < (h 1999999).lossTime ∧
      (r.phase.mains = .returning ∧ r.restoreTime = 30000000) := by decide

theorem witness_LossInMainsStartsOutage :
    ∀ l ∈ [9, 10, 29, 30, 100],
      let s := losing .mains l
      s.line = .released ∧ s.store.ready = true ∧ s.phase.phase = .mains ∧ s.phase.mains = .losing ∧
        s.phase.qual = .running 0 ∧ 0 + s.lossTime ≤ max s.clock 2000000 ∧ s.store.target = none ∧
        s.sched.running = false ∧ s.test.run = none ∧
        (pend .b (reloading s)).store.load ≠ none ∧
          s.acct.cap * s.phase.startLevel / 100 * 100 / s.acct.cap = l ∧ s.header.cutoff = 10 ∧
        s.header.reserve = 30 := by decide

theorem witness_LossInRestoreReturnsByLevel :
    ∀ l ∈ [9, 10, 29, 30, 100],
      let s := losing .restore l
      s.line = .released ∧ s.store.ready = true ∧ s.phase.phase = .restore ∧ s.phase.mains = .losing ∧
        s.phase.qual = .running 0 ∧ 0 + s.lossTime ≤ max s.clock 2000000 ∧ s.store.target = none ∧
        s.sched.running = false ∧ s.test.run = none ∧ s.acct.level = l ∧ s.store.load = none ∧
        (pend .b s).store.target = some .b ∧ (reloading s).store.load ≠ none ∧ s.header.cutoff = 10 := by decide

/-- Feeds, a test and a running round in a phase, mains RETURNING since the moment 0. -/
def returning (ph : Phase) : State :=
  let s : State := { busy with store := { busy.store with target := none } }
  { s with
    phase := { s.phase with phase := ph, mains := .returning, qual := .running 0 }
    sched := { s.sched with running := true, slots := s.sched.slots.set 0 { action := .feed, port := some 3 } } }

theorem witness_RestoreEndsAllWork :
    ∀ ph ∈ [Phase.outage, Phase.reserve, Phase.cutoff],
      let s := returning ph
      (s.line = .released ∧ s.store.ready = true ∧
        (s.phase.phase.active = true ∨ s.phase.phase = .cutoff) ∧ s.phase.mains = .returning ∧
        s.phase.qual = .running 0 ∧ 0 + s.restoreTime ≤ max s.clock 30000000 ∧ s.store.target = none ∧
        (pend .b s).store.target = some .b ∧ s.store.load = none ∧ (reloading s).store.load ≠ none) ∧
        s.SwitchesOk ∧ s.AttachOk := by
  unfold State.SwitchesOk State.AttachOk Port.SwitchOk; decide +kernel

theorem witness_SettlingReturnsToMains :
    let s := on3 { action := .idle, deficit := 500 } (built (inPhase .restore))
    let v : State := { s with path := { s.path with inst := some [] } }
    (s.line = .released ∧ s.store.ready = true ∧ s.phase.phase = .restore ∧ s.test.run = none ∧
      (∀ p, ¬((s.port p).action = .feeding ∨ (s.port p).action = .waking ∨ (s.port p).action = .testing)) ∧
      s.path.dirtyInst = false ∧ (∀ p, s.path.dirty.get p = false) ∧ s.canMark = true) ∧
      v.unconfigured = true := by decide +kernel

theorem witness_StartLevelWriteStores : ready.line = .released ∧ ready.takesLive = true := by decide

/-! ## Witnesses: the period end -/

/-- The header of a bank: reserve 40, cut-off 10, one rota entry, one alarm rule. -/
def planBytes : List Byte :=
  leBytes 2 7 ++ [1#8, 10#8, 8#8, 40#8, 10#8, 2#8] ++ leBytes 2 8000 ++ leBytes 2 4000 ++ leBytes 2 500
  ++ leBytes 2 500 ++ leBytes 2 0 ++ [5#8, 10#8, 0#8, 0#8, 53#8, 7#8, 1#8, 1#8, 1#8]

/-- A bank's image: rota entry 0 a HOLDUP of port 3 each 240 minutes, alarm rule 0 "level LT 50". -/
def planImage : Mem :=
  ((Mem.writeBytes [] 0 planBytes).writeBytes 800 ([3#8, 1#8] ++ leBytes 2 240 ++ [20#8])).writeBytes 880
    ([0#8, 0#8, 0#8] ++ leBytes 2 50 ++ leBytes 2 9)

/-- The part under that plan, valid in bank A, with its memory map. -/
def planned (s : State) : State :=
  let x := built s
  { x with store := { x.store with
      plan := .bank .a planImage, activeFormed := true
      a := { image := planImage, validity := .valid, item := none } } }

/-- A period end is due at 1 s: port 3 feeds, port 4 idles on RUN, port 5 tapers for the 60th period. -/
def due (ph : Phase) (q uv : Nat) : State :=
  let s := ((on3 { action := .feeding, switch := true, status := .run, deficit := 900 }
    (planned (inPhase ph))).setPort 4 { action := .idle, status := .run, deficit := 900 }).setPort 5
    { action := .feeding, switch := true, status := .sleep, deficit := 900, taper := 59 }
  { s with
    acct := { s.acct with q := q }
    phase := { s.phase with uv := uv } }

/-- `due` under the built-in plan, all of class 1, at the level 29: the next period end enters RESERVE. -/
def toReserve (x : Port) (running : Bool) : State :=
  let s := on3 x (due .outage 104400000 3)
  { s with
    store := { s.store with plan := .builtIn }
    sched := { s.sched with running := running, slots := s.sched.slots.set 1 { action := .feed, port := some 3 } } }

theorem witness_PeriodEndAdvancesClocks :
    let s := due .outage 360000000 0
    let l : State := { s with store := { s.store with ready := false } }
    s.line = .released ∧ max s.clock 999999 < s.acct.lastEnd + Config.sec ∧
      s.acct.lastEnd + Config.sec ≤ max s.clock 1000000 ∧ s.store.ready = true ∧ s.store.target = none ∧
      l.store.ready = false := by decide

/-- Port 0 is not populated, ports 3 and 5 feed, port 4 drains; marks can be set. Port 4 takes a new entry
where its deficit passes the join level, and keeps none where a slot of the running round names it. -/
theorem witness_PeriodEndMovesDeficits :
    let s := due .outage 360000000 0
    let j := (toReserve {} false).setPort 4 { action := .idle, status := .run, deficit := 3600000 }
    (j.line = .released ∧ (j.policy 4).join ≤ 3600000 * 1024 / (j.policy 4).cap ∧
      j.permitted 4 = true ∧ j.scan.latch = false ∧ j.openSlot 4 = none ∧
      ({ j with sched := { j.sched with
          running := true, slots := j.sched.slots.set 1 { action := .feed, port := some 4 } } } :
        State).openSlot 4 = some 1) ∧
    (s.line = .released ∧ s.store.ready = true ∧ s.acct.lastEnd + Config.sec ≤ max s.clock 1000000 ∧
      s.store.target = none ∧ (reloading (pend .b s)).store.load ≠ none) ∧ (s.port 0).action = .off ∧
        (s.port 3).action = .feeding ∧
      (s.port 4).action = .idle ∧ (s.port 5).taper + 1 = 60 ∧ s.canMark = true := by decide +kernel

/-- No undervoltage entry: not in an outage phase, the bus at its floor, or the count one short. -/
theorem witness_PeriodEndMovesChargeAndLoad :
    let s (ph : Phase) (uv : Nat) := due ph 360000000 uv
    (∀ ph ∈ [Phase.mains, Phase.outage], (s ph 3).line = .released ∧ (s ph 3).store.ready = true ∧
      (s ph 3).acct.lastEnd + Config.sec ≤ max (s ph 3).clock 1000000 ∧ (s ph 3).store.target = none) ∧
      (s .mains 4).phase.phase.active = false ∧ (s .outage 3).phase.uv + 1 < 5 := by decide +kernel

/-- Levels 9, 10, 39 and 40 of a capacity of 100 Ah, and the undervoltage count at 3 and at 4 with the bus
below its floor; under the built-in plan, at the level 29, a port of class 1 feeds, wakes or idles, with and without
a running round. -/
theorem witness_PeriodEndTestsLevelAndVoltage :
    (∀ l ∈ [9, 10, 39, 40],
      let s := due .outage (3600000 * l) 3
      s.line = .released ∧ s.store.ready = true ∧ s.acct.lastEnd + Config.sec ≤ max s.clock 1000000 ∧
        s.store.target = none ∧ s.phase.phase.active = true ∧
        (max 0 (min (s.acct.cap : Int) (s.acct.q - s.value 49))).toNat * 100 / s.acct.cap = l ∧
        s.header.cutoff = 10 ∧ s.header.reserve = 40 ∧ s.value 48 < (s.busFloor : Int)) ∧
      (∀ x ∈ [({ action := .idle } : Port), { action := .waking }, { action := .feeding, switch := true }],
        ∀ r ∈ [true, false], let s := toReserve x r
        s.phase.phase = .outage ∧ s.header.cutoff = 10 ∧ s.header.reserve = 30 ∧
          s.acct.q * 100 / s.acct.cap = 29 ∧ (s.policy 3).cls ≠ 0 ∧ (s.port 3).action = x.action ∧
            s.sched.running = r ∧
          s.openSlot 3 = if r then some 1 else none) ∧
      (let s := pend .b (due .outage 0 4)
       s.store.target = some .b ∧ s.store.load = none ∧ (reloading s).store.load ≠ none) ∧
      (due .outage 0 4).phase.uv + 1 = 5 ∧ (due .restore 0 4).phase.phase.active = false ∧
      (due .reserve 0 0).phase.phase = .reserve := by decide +kernel

theorem witness_AlarmRelationsCompareBitPatterns :
    ∀ rel ∈ [0, 1, 2, 3], ∀ v ∈ [(-32768 : Int), -1, 0, 32767, 65535],
      let r : AlarmRule := { code := 7, relation := rel, port := 0, const := 65535, tag := 0 }
      r.relation ≤ 3 ∧ r.code ≤ 7 ∧ r.const < 65536 ∧ -32768 ≤ v ∧ v ≤ 65535 := by decide

/-- Rule 0 of the plan is evaluated: its relation holds at level 49 with its edge state false, and not at
level 50. -/
theorem witness_AlarmRuleFiresOnRisingEdge :
    let s (l : Nat) : State := { due .outage 0 0 with acct := { State.reset.acct with level := l } }
    (0 : Fin 16).val < (s 49).header.alarmN ∧
      ((s 49).store.plan.alarm 0).holds ((s 49).quantity ((s 49).store.plan.alarm 0)) = true ∧
      (s 49).ev.edges.get 0 = false ∧
      ((s 50).store.plan.alarm 0).holds ((s 50).quantity ((s 50).store.plan.alarm 0)) = false := by
  decide +kernel

theorem witness_PeriodEndEvaluatesAlarmRules :
    let s := due .outage 0 0
    s.line = .released ∧ s.store.ready = true ∧ s.acct.lastEnd + Config.sec ≤ max s.clock 1000000 ∧
      s.store.target = none ∧ (0 : Fin 16).val < s.header.alarmN := by decide +kernel

/-! ## Witnesses: ports and the segment gate -/

/-- Port 3 with a record, in OUTAGE under the plan. -/
def port3 (x : Port) : State := on3 x (planned (inPhase .outage))

theorem witness_StatusReadingSetsCandidate :
    let s := port3 { action := .idle, status := .sleep, cand := some (.run, 5) }
    s.line = .released ∧ TermStatus.sleep = (s.port 3).status ∧ (s.port 3).cand = some (.run, 5) ∧
      (TermStatus.low ≠ (s.port 3).status ∧ ∀ since, (s.port 3).cand ≠ some (.low, since)) := by
  refine ⟨rfl, rfl, rfl, by decide, ?_⟩
  intro since h; cases h

/-- R72, R70 in LOADING (log 10): the resync takes the C kept from the last plan, and U stays below 1024. -/
theorem test_low_resync_in_loading :
    let s := port3 { action := .idle, cand := some (.low, 0), cap := 8000000 }
    seen (fun t => ((t.port 3).deficit, (t.port 3).u)) (.statusDebounceExpiry 200000 3)
      { s with store := { s.store with ready := false, plan := .noPlan } } = some (7000000, 896) := by
  decide +kernel

/-- Every action state, with a candidate that reaches 200 ms at 200000 µs. -/
theorem witness_DebouncedStatusTakesEffect :
    ∀ a ∈ [Action.off, .idle, .waking, .feeding, .testing, .tripped, .barred],
      ∀ l ∈ [TermStatus.run, .low, .absent],
        let s := port3 { action := a, cand := some (l, 0) }
        s.line = .released ∧ (s.port 3).cand = some (l, 0) ∧ s.phase.phase ≠ .mains ∧
          max s.clock 199999 < 0 + Config.debounceTime ∧ 0 + Config.debounceTime ≤ max s.clock 200000 := by
  decide +kernel

theorem witness_AbsenceAndPulseTimersExpire :
    let s := port3 { action := .feeding, switch := true, absence := some 0 }
    let w := port3 { action := .waking, switch := true, step := some .pulse, pulse := some 0 }
    (s.line = .released ∧ (s.port 3).action = .feeding ∧ (s.port 3).absence = some 0 ∧
      0 + Config.absenceTime ≤ max s.clock 5000000 ∧ max s.clock 4999999 < 0 + Config.absenceTime) ∧
    w.line = .released ∧ 0 + Config.pulseTime ≤ max w.clock 500000 ∧ (w.port 3).action = .waking ∧
      (w.port 3).pulse = some 0 ∧
      (testing .wake).test.run.map (fun x => (x.kind, x.pulse)) = some (.wake, some 0) := by decide

/-- A first and a third trip of a feed, and a trip under test. -/
theorem witness_TripOpensSwitchAndCounts :
    (∀ n ∈ [0, 2], let s := port3 { action := .feeding, switch := true, trips := n }
      s.line = .released ∧ (s.port 3).switch = true ∧ (s.port 3).action ≠ .testing) ∧
    ((testing .draw).line = .released ∧ ((testing .draw).port 3).switch = true ∧
      ((testing .draw).port 3).action = .testing ∧ (testing .draw).test.run.map (·.port) = some 3 ∧
      (on3 { (testing .draw).port 3 with trips := 2 } (testing .draw)).test.run.map (·.port) = some 3) ∧
    ((port3 { action := .feeding }).port 3).switch = false := by decide +kernel

theorem witness_CoolOffAndBarClearEndInIdle :
    let s := port3 { action := .tripped, coolOff := some 0 }
    let b := s.setPort 47 { action := .barred }
    s.line = .released ∧ s.takesLive = true ∧ (s.port 3).action = .tripped ∧ (s.port 3).coolOff = some 0 ∧
      0 + Config.coolOffTime ≤ max s.clock 60000000 ∧ max s.clock 59999999 < 0 + Config.coolOffTime ∧
      (47 : Fin 48).val = (47#8 : Byte).toNat ∧ (b.port 47).action = .barred ∧
      48 ≤ (48#8 : Byte).toNat ∧ (s.port 47).action ≠ .barred := by decide +kernel

/-- A DEFERRED port of class 1 at a due period end, the load filter at a value. -/
def deferredAt (ph : Phase) (q f16 : Nat) : State :=
  let s := on3 { action := .waking, attempts := 1, step := some .deferred } (due ph q 0)
  { s with
    store := { s.store with plan := .builtIn }
    acct := { s.acct with f16 := f16 } }

/-- The built-in plan gives two retries: attempts 2 and 3, in a phase that permits class 1 and in one that
does not; a retry due with the hold on and off. A period end leaves OUTAGE and RESERVE with the hold on and off. -/
theorem witness_UnansweredWakeRetriesOrBars :
    let s (ph : Phase) (n : Nat) := on3 { action := .waking, attempts := n, answer := some 0, retry := some 0 }
      (inPhase ph)
    let h : State := { s .outage 1 with acct := { State.reset.acct with hold := true } }
    ((s .outage 2).line = .released ∧ ((s .outage 2).port 3).action = .waking ∧
      0 + Config.answerTime ≤ max (s .outage 2).clock 5000000 ∧
      0 + Config.retryTime ≤ max (s .outage 2).clock 30000000) ∧
      ((s .outage 2).port 3).attempts < 1 + ((s .outage 2).policy 3).retries ∧
      (s .outage 2).permitted 3 = true ∧ (s .reserve 2).permitted 3 = false ∧
      1 + ((s .outage 3).policy 3).retries ≤ ((s .outage 3).port 3).attempts ∧
      h.acct.hold = true ∧ (s .outage 1).acct.hold = false ∧
      ∀ x ∈ [(Phase.outage, 0, false), (.outage, 4800000, true), (.reserve, 0, false), (.reserve, 4800000, true)],
        let d := deferredAt x.1 360000000 x.2.1
        (d.line = .released ∧ (d.port 3).action = .waking ∧ (d.port 3).step = some .deferred ∧
          d.store.ready = true ∧ d.acct.lastEnd + Config.sec ≤ max d.clock 1000000 ∧
          d.store.target = none ∧ d.gateClosed = false) ∧
        seen (fun t => (t.phase.phase, t.acct.hold)) (.accountingPeriodEnd 1000000) d =
          some (x.1, x.2.2) := by decide +kernel

/-- R17: at the end of the 30 s a port of class 1 in RESERVE may request no retry; its wake ends without failure. -/
theorem test_retry_barred_in_reserve :
    let s := on3 { action := .waking, attempts := 1, step := some .retryWait, retry := some 0 } (inPhase .reserve)
    seen (fun t => ((t.port 3).action, (t.port 3).attempts)) (.retryTimerExpiry 30000000 3) s =
      some (.idle, 1) := by decide +kernel

/-- Requests of ports 3 and 4, the older of port 3, at a gate whose segment has four starts, the oldest one
window (10 s) before 10 s and the newest one spacing (500 ms) before. -/
def gated (kind : ReqKind) (a : Action) (slot : SlotAction) : State :=
  let s := on3 { action := a } (built (inPhase .outage))
  { s with
    gate := { waiting := [{ port := 3, kind := kind, placed := 0 }, { port := 4, kind := .retry, placed := 1 }]
              hist := Tab.fill 8 [0, 8000000, 9000000, 9500000], last := some 9950000 }
    sched := { s.sched with
      running := decide (kind = .slot)
      slots := s.sched.slots.set 1 { action := slot, port := some 3 } } }

/-- The older request of `gated`. -/
def first (kind : ReqKind) : Request := { port := 3, kind := kind, placed := 0 }

/-- At 10 s the window of `gated` holds three starts, at 9.999999 s four; the slot request is the head of its
segment, and is not where port 4's request is the older one. -/
theorem witness_GateGrantsUnderThreeLimits :
    let s : State := { gated .slot .idle .feed with clock := 10000000 }
    let full (c : Nat) (s : State) := (s.gate.hist.get 0).countP fun t => c < t + s.header.window * Config.sec
    ((first .slot).kind = .slot ∧ s.gate.waiting.filter (fun q => q.kind = .slot) = [first .slot] ∧
      (first .slot).headed = false ∧ s.segOf 4 = some 0 ∧
      (∀ q ∈ s.gate.waiting, s.segOf q.port = some 0 → (first .slot).placed ≤ q.placed) ∧
      s.openSlot (first .slot).port = some 1 ∧
      full 10000000 s = 3 ∧ full 9999999 s = 4) ∧
    (let younger : Request := { first .slot with placed := 1 }
     let w := [{ port := 4, kind := .retry, placed := 0 }, younger]
     w.filter (fun q => q.kind = .slot) = [younger] ∧
       ∃ q ∈ w, s.segOf q.port = some 0 ∧ q.placed < younger.placed) ∧
    s.segOf (first .slot).port = some 0 ∧ (s.gate.hist.get 0).length ≤ 4 ∧
      (s.gate.hist.get 0).Pairwise (· ≤ ·) ∧ s.grantable (first .slot) = true := by decide +kernel

theorem witness_GrantStartsSlotWork :
    ∀ w ∈ [SlotAction.feed, .wake],
      let s := gated .slot .idle w
      let r := first .slot
      s.line = .released ∧ r ∈ s.gate.waiting ∧
        State.grantable { s with clock := max s.clock 10000000 } r = true ∧
        (∀ q ∈ s.gate.waiting, q ≠ r → r.before q = true) ∧ r.kind = .slot ∧ s.openSlot r.port = some 1 ∧
        (s.port r.port).action = .idle ∧ s.segOf r.port = some 0 := by decide +kernel

theorem witness_GrantStartsRetryOrTestPulse :
    (let s := gated .retry .waking .none
     let r := first .retry
     s.line = .released ∧ r ∈ s.gate.waiting ∧
       State.grantable { s with clock := max s.clock 10000000 } r = true ∧
       (∀ q ∈ s.gate.waiting, q ≠ r → r.before q = true) ∧ (s.port r.port).status ≠ .run ∧
       (∀ l ∈ [TermStatus.run, .sleep], let x := on3 { action := .waking, status := l } s
         State.grantable { x with clock := max x.clock 10000000 } r = true ∧ (x.port r.port).status = l) ∧
       s.segOf r.port = some 0 ∧ r.kind = .retry ∧ (s.port r.port).action = .waking) ∧
    (let s : State := { gated .pulse .testing .none with test := (testing .wake).test }
     let r := first .pulse
     s.line = .released ∧ r ∈ s.gate.waiting ∧
       State.grantable { s with clock := max s.clock 10000000 } r = true ∧
       (∀ q ∈ s.gate.waiting, q ≠ r → r.before q = true) ∧ (s.port r.port).status ≠ .run ∧
       (let x := on3 { action := .testing, status := .run } s
        State.grantable { x with clock := max x.clock 10000000 } r = true ∧ (x.port r.port).status = .run) ∧
       s.segOf r.port = some 0 ∧ r.kind = .pulse ∧ (s.port r.port).action = .testing ∧
       s.test.run.map (·.port) = some r.port) := by decide +kernel

/-! ## Witnesses: the scanner -/

/-- A conversion of a channel since the moment 0, results logged or not, `n` entries in the queue. -/
def converting (c : Fin 54) (startUp : Bool) (n : Nat) (th : Thermal) : State :=
  let s := planned (inPhase .outage)
  { s with
    store := { s.store with plan := .bank .a (planImage.write 24 1#8) }
    scan := { s.scan with state := .sweeping, pos := c, conv := some 0, startUp := startUp, thermal := th }
    path := { s.path with ownq := List.replicate n measEntry } }

theorem witness_ConversionKeepsReading :
    (∀ c ∈ [(0 : Fin 54), 47, 48, 49, 50, 53], ∀ n ∈ [0, 15, 16],
      let s := converting c false n .normal
      s.line = .released ∧ s.scan.conv = some 0 ∧ 0 + 2 * Config.ms ≤ max s.clock 2000 ∧
        s.scan.startUp = false ∧ s.header.logging = true ∧ (s.region .meas).isSome = true ∧
        s.store.target = none) ∧
      (converting 0 true 0 .normal).scan.startUp = true := by decide +kernel

/-- Readings of sensor 3 at and around the three levels 90, 110 and 130, from every thermal state; no bank switch is
pending, or one is that an entry to CRITICAL applies. -/
theorem witness_ThermalStateFollowsTable :
    ∀ th ∈ [Thermal.normal, .warm, .hot, .critical],
      let s := converting 53 false 0 th
      s.line = .released ∧ s.scan.conv = some 0 ∧ 0 + 2 * Config.ms ≤ max s.clock 2000 ∧
        50 ≤ s.scan.pos.val ∧ s.store.target = none ∧ s.scan.thermal = th ∧
        ((pend .b s).store.target = some .b ∧ s.store.ready = true ∧ s.store.load = none) ∧
        (s.thermalCfg.warm, s.thermalCfg.hot, s.thermalCfg.critical) = (90, 110, 130) := by decide +kernel

theorem witness_TriggersAndStopsMoveSweep :
    let s := converting 7 false 0 .normal
    (ready.line = .released ∧ ready.takesLive = true ∧ TrigSource.tick ≠ .supervisor ∧
      ready.header.trigTick = true ∧ ready.header.trigRound = false ∧
      (converting 0 true 0 .normal).scan.startUp = true ∧ State.reset.store.ready = false) ∧
    s.line = .released ∧ s.takesLive = true ∧ s.store.ready = true ∧ s.scan.startUp = false ∧ s.scan.state ≠ .idle ∧
      ready.scan.state = .idle := by decide

/-! ## Witnesses: rounds -/

/-- The round timer expires at 10 s; port 3 feeds with its work done; feeds enabled or not. -/
def roundDue (running enabled : Bool) (queue : List QueueEntry) : State :=
  let s := port3 { action := .feeding, switch := true }
  { s with
    store := { s.store with plan := if enabled then .builtIn else .bank .a (planImage.write 2 0#8) }
    sched := { s.sched with timer := some 10000000, running := running, queue := queue } }

/-- Three feeds that stay: port 3's key is the lowest, those of ports 4 and 5 are equal; the load is `f`. -/
def overloaded (f : Nat) : State :=
  let x (u : Nat) : Port := { action := .feeding, switch := true, status := .run, u := u, key := u + 256 }
  let s := ((port3 (x 900)).setPort 4 (x 901)).setPort 5 (x 901)
  { s with
    store := { s.store with plan := .bank .a (planImage.write 3 0#8) }
    acct := { s.acct with f16 := f * 16 }
    sched := { s.sched with timer := some 10000000 } }

/-- Port 4 queued on RUN, on a segment without start times or with four within the window. -/
def slotted (full : Bool) : State :=
  let s := (roundDue false true [{ port := 4, u := 600, key := 856 }]).setPort 4
    { action := .idle, status := .run, u := 600, key := 856 }
  { s with gate := { s.gate with hist := Tab.fill 8 (if full then [1, 2, 3, 4] else []) } }

/-- A running round at 0 s whose slot 1 names port 4 and whose other slots are resolved. -/
def going (slot : Slot) (x : Port) : State :=
  let s := (port3 {}).setPort 4 x
  { s with sched := { s.sched with
      running := true, slots := (Tab.fill 4 { outcome := some .empty }).set 1 { slot with port := some 4 } } }

/-- No round; one with its last slot resolved, with a pending start and without; slot 1 to be issued as a feed start of
a port that is IDLE, on a segment with and without a full window, or is not, and as a wake beside the retry of an older
request; a test start of rota entry 0 on its port; and the request of slot 1 at the gate. -/
theorem witness_RunningRoundGoesOn :
    let feed : Slot := { action := .feed }
    let s := going feed { action := .idle }
    let done := going { feed with outcome := some .dry } { action := .idle }
    let full : State := { s with gate := { s.gate with hist := Tab.fill 8 [1, 2, 3, 4] }, clock := 9999999 }
    let older : State := { s with
      gate := { s.gate with waiting := [{ port := 5, kind := .retry, placed := 0 }] }, clock := 1 }
    let waiting : State := { s with
      gate := { s.gate with waiting := [{ port := 4, kind := .slot, placed := 0, headed := true }] } }
    let rota := on3 { action := .idle, status := .run } (going { feed with action := .test, rota := some 0 } {})
    (ready.line = .released ∧ ready.sched.running = false ∧ ready.sched.startPending = false) ∧
      (s.line = .released ∧ s.sched.running = true ∧ s.gate.waiting = [] ∧ s.sched.dry = false ∧
        (s.sched.slots.get 1).outcome = none ∧ (s.sched.slots.get 1).port = some 4 ∧
        (s.sched.slots.get 1).action ≠ .test ∧ (s.port 4).action = .idle ∧ s.gateClosed = false ∧
        s.segOf 4 = some 0 ∧ (s.sched.slots.get 0).outcome ≠ none) ∧
      (done.sched.startPending = false ∧ ∀ i ∈ [(0 : Fin 4), 1, 2, 3], (done.sched.slots.get i).outcome ≠ none) ∧
      ((going feed { action := .tripped }).port 4).action ≠ .idle ∧
      4 ≤ (full.gate.hist.get 0).countP (fun t => full.clock < t + full.header.window * Config.sec) ∧
      (older.segOf 5 = some 0 ∧ (0 : Nat) < older.clock) ∧
      (waiting.gate.waiting.filter (fun q => q.kind = .slot) =
          [{ port := 4, kind := .slot, placed := 0, headed := true }] ∧ waiting.openSlot 4 = some 1) ∧
      ((rota.sched.slots.get 1).action = .test ∧ (rota.sched.slots.get 1).rota = some 0 ∧
        (rota.store.plan.rota 0).kind = some .holdup ∧ rota.test.run = none ∧
        (rota.port 3).status = .run ∧ (rota.port 3).action = .idle) := by decide +kernel

theorem witness_RoundTimerStartsRound :
    let s := roundDue false true []
    let d := roundDue false false [{ port := 4, u := 600, key := 856 }]
    (s.line = .released ∧ s.sched.timer = some 10000000 ∧ 10000000 ≤ max s.clock 10000000 ∧
      s.sched.running = false ∧ s.store.target = none ∧ (s.port 3).action = .feeding ∧
      (s.port 3).u ≤ (s.policy 3).stop ∧ s.sched.queue = [] ∧ s.header.rotaN = 0) ∧
      (d.header.feedEnable = false ∧ d.gate.waiting = [] ∧ d.sched.timer = some 10000000) ∧
      (∀ f ∈ [8000, 10000], (overloaded f).line = .released ∧ (overloaded f).sched.timer = some 10000000 ∧
        (overloaded f).header.budget = 8000 ∧ (overloaded f).acct.f16 / 16 = f ∧
        ∀ p ∈ [(3 : Fin 48), 4, 5], ((overloaded f).port p).action = .feeding ∧
          ((overloaded f).policy p).stop < ((overloaded f).port p).u ∧
          (overloaded f).permitted p = true ∧ (overloaded f).condition p = true) ∧
      ((overloaded 10001).port 3).key < ((overloaded 10001).port 4).key ∧
      ((overloaded 10001).port 4).key = ((overloaded 10001).port 5).key ∧
      8000 + 8000 / 4 < (overloaded 10001).acct.f16 / 16 ∧
      (s.sched.startPending = false ∧ s.gate.waiting = [] ∧ (slotted false).gate.waiting = [] ∧
        (slotted false).sched.startPending = false ∧
        (slotted false).fillSlots.sched.slots.get 0 = { action := .feed, port := some 4 }) ∧
      (let x := pend .b s
       x.sched.running = false ∧ x.store.target = some .b ∧ x.store.ready = true ∧ x.store.load = none) ∧
      (roundDue true true []).sched.running = true := by decide +kernel

/-- The slot 0 clauses of `RoundTimerStartsRound`: its request is at the gate, or its window was full. -/
theorem witness_RoundIssuesSlotZero :
    ∀ x ∈ [(slotted false, none), (slotted true, some SlotOutcome.windowFull)],
      x.1.header.feedEnable = true ∧ x.1.gateClosed = false ∧ x.1.gate.waiting = [] ∧
        (∀ e ∈ x.1.sched.queue, (x.1.port e.port).action = .idle) ∧
        seen (fun t => ((t.sched.slots.get 0).port, (t.sched.slots.get 0).outcome)) (.roundTimerExpiry 10000000) x.1
          = some (some 4, x.2) := by decide +kernel

/-- A rota test that is due takes slot 0 and is attached there; a feed start takes slot 1. -/
theorem test_round_attaches_due_rota_test :
    seen (fun t => (t.sched.slots.get 0, (t.port 3).action, (t.sched.slots.get 1).port)) (.roundTimerExpiry 10000000)
      (let s := on3 { action := .idle, status := .run } (slotted false)
       { s with store := { s.store with plan := .bank .a planImage } })
      = some ({ action := .test, port := some 3, rota := some 0, outcome := some .issued }, .testing, some 4) := by
  decide +kernel

/-- Rota entry 0 of the plan, a HOLDUP of port 3, is due and its port ready; the channel is free, and no queued
port of class 0 has a U of 896 or more. -/
theorem witness_FillRespectsFeedLimit :
    (roundDue false true [{ port := 4, u := 600, key := 856 }]).sched.slots = Tab.fill 4 {} ∧
      (let s : State := { port3 { action := .idle, status := .run } with
         sched := { State.reset.sched with queue := [{ port := 4, u := 895, key := 1407 }] } }
       s.sched.slots = Tab.fill 4 {} ∧ (0 : Fin 16).val < s.header.rotaN ∧ s.test.counters.get 0 = 0 ∧
         ((s.store.plan.rota 0).port, (s.store.plan.rota 0).kind) = (3, some .holdup) ∧
         (s.port 3).status = .run ∧ (s.port 3).action = .idle ∧
         s.test.run = none ∧ s.test.owner = .none ∧ s.scan.thermal = .normal ∧ s.phase.phase = .outage ∧
         ∀ e ∈ s.sched.queue, e.u < 896) ∧
      (let q := [4, 5, 6].map fun p => ({ port := p, u := 600, key := 856 } : QueueEntry)
       let s := ((roundDue false true q).setPort 4 { action := .idle, status := .run }).setPort 5
         { action := .idle, status := .sleep }
       let h : State := { s with acct := { s.acct with hold := true } }
       (s.sched.queue.map (·.port)).Nodup ∧ s.sched.queue = [{ port := 4, u := 600, key := 856 }] ++
           { port := 5, u := 600, key := 856 } :: [{ port := 6, u := 600, key := 856 }] ∧
         s.condition 4 = true ∧ s.condition 5 = true ∧ s.acct.hold = false ∧ h.acct.hold = true ∧
         s.feedingCount < s.header.feedLimit ∧ (s.port 6).status = .absent ∧
         ((s.fillSlots.sched.slots.get 0).port, (s.fillSlots.sched.slots.get 1).port,
           (s.fillSlots.sched.slots.get 2).port) = (some 4, some 5, none)) := by decide +kernel

/-! ## Witnesses: tests -/

/-- A write burst is open that has placed bytes and holds halves of the read index. -/
def inBurst (s : State) (placed : List Placed) (addr : Nat) (q : List OwnEntry) : State :=
  { s with path := { s.path with
      csLow := true, ownq := q
      txn := some { began := 0, cmd := some .write, addr := addr, placed := placed } } }

theorem witness_ClaimAttemptTakesFreeChannel :
    (linked ready).line = .released ∧ (linked ready).takesLive = true ∧ ready.takesLive = true ∧
      (inBurst ready [] 0 []).takesLive = true ∧ (linked ready).path.txn.map (·.claim) = some none ∧
      (ready.test.owner = .none ∧ ready.test.run = none) ∧ (testing .draw).test.run.isSome = true ∧
      (inBurst ready [] 0 []).path.txn.map (·.cmd) = some (some .write) ∧
      ∀ v ∈ [0#8, 1#8], let s := linked ready
        let x : State := { s with path := { s.path with
          txn := some { began := 0, cmd := some .read, live := true, claim := some v } } }
        x.path.txn.map (fun y => (y.cmd, y.claim)) = some (some .read, some v) := by decide

theorem witness_ReleaseAndLapseEndClaim :
    let s := testing .draw
    s.line = .released ∧ s.takesLive = true ∧ s.test.claim = .held ∧ s.test.lapse = some 0 ∧
      0 + 120 * Config.sec ≤ max s.clock 120000000 ∧ max s.clock 119999999 < 0 + 120 * Config.sec ∧
      ready.test.claim ≠ .held := by decide

/-- Port 3 FEEDING and in OUTAGE with the claim held; a request of each cause of the table, and a DRAW that
is taken. -/
theorem witness_TestRequestRefusedByFirstCause :
    let s := port3 { action := .feeding, switch := true }
    let h : State := { s with test := { s.test with owner := .supervisor, claim := .held, lapse := some 0 } }
    (h.line = .released ∧ h.takesLive = true ∧ h.phase.phase = .outage ∧ h.test.claim = .held ∧ h.test.run = none ∧
      h.store.ready = true ∧ h.scan.thermal = .normal ∧ (3 : Fin 48).val = (3#8 : Byte).toNat ∧
      (h.port 3).action = .feeding) ∧
      (ready.phase.phase = .mains ∧ s.test.claim ≠ .held ∧ (testing .draw).test.run.isSome = true) ∧
      ((h.port 47).action = .off ∧ ¬∃ p : Fin 48, p.val = (48#8 : Byte).toNat) ∧
      (let w := on3 { action := .idle, status := .sleep } (gated .slot .idle .feed)
       (w.port 3).status = .sleep ∧ w.acct.hold = false ∧ w.gateClosed = false ∧ w.slotWaits 3 = true ∧
         w.openSlot 3 = some 1 ∧ h.slotWaits 3 = false) ∧
      (h.port 3).status ≠ .run := by decide +kernel

theorem witness_TestEndsByItsOwnResult :
    (∀ k ∈ [TestKind.holdup, .wake, .draw], (testing k).line = .released ∧ (testing k).takesLive = true ∧
      (testing k).test.run.map (·.kind) = some k) ∧
      0 + 60 * 2 * Config.sec ≤ max (testing .holdup).clock 120000000 ∧
      0 + 5 * Config.sec ≤ max (testing .wake).clock 5000000 ∧
      (testing .wake).test.run.map (·.granted) = some (some 0) ∧
      0 + 10 * Config.sec ≤ max (testing .draw).clock 10000000 := by decide

theorem witness_DrawSamples : (List.replicate 10000 1041).length = 10000 := List.length_replicate

theorem witness_StatusChangeEndsTest :
    ∀ k ∈ [TestKind.holdup, .wake, .draw], ∀ l ∈ [TermStatus.sleep, .run, .low, .absent],
      let s := on3 { action := .testing, cand := some (l, 0) } (testing k)
      s.line = .released ∧ s.test.run.map (fun x => (x.port, x.kind, x.granted)) = some (3, k, some 0) ∧
        (s.port 3).action = .testing ∧ (s.port 3).cand = some (l, 0) ∧
        0 + 200 * Config.ms ≤ max s.clock 200000 ∧ s.phase.phase ≠ .mains := by decide +kernel

/-! ## Witnesses: events and plans -/

/-- A ring of 64 records with W = 100; R = 36 leaves 64 unread. -/
theorem witness_ReadIndexJudgedAgainstRing :
    let s := { built ready with ev := { ready.ev with w := 100, r := 36 } }
    s.line = .released ∧ s.takesLive = true ∧ ((some 100#8 : Option Byte).isSome || (none : Option Byte).isSome) ∧
      s.store.ready = true ∧ 0 < s.ringN ∧ s.ev.w < s.ringM ∧ s.unread = s.ringN ∧
      ready.ringN = 0 ∧ State.reset.store.ready = false := by decide +kernel

/-- A refusal of region 2 not begun stands behind one begun; a full queue; a full staging list. -/
theorem witness_EventPlacedByFirstRow :
    let w : Event := ready.entry .writeRefused 2 0x900 5 0
    let begun : OwnEntry := { item := .event w, begun := true }
    let waiting : OwnEntry := { item := .event w }
    let x : Spool := ⟨[begun, waiting], [w], false⟩
    let full : Spool := ⟨List.replicate 16 eventEntry, List.replicate 8 (ready.entry .thermal 0 0 2 0), false⟩
    (w.kind = .writeRefused ∧ x.queue = [begun] ++ waiting :: [] ∧ waiting.begun = false ∧ begun.begun = true ∧
      x.staging = [] ++ w :: []) ∧
      (16 ≤ full.queue.length ∧ 8 ≤ full.staging.length ∧
        full.staging = List.replicate 7 (ready.entry .thermal 0 0 2 0) ++ [ready.entry .thermal 0 0 2 0]) ∧
      (List.replicate 15 eventEntry).length < 16 := by decide

/-- In MAINS and in CUTOFF a switch to bank B: bank B holds the plan and is valid, or holds a mode above 3 and is
not; no transaction is open, or a write burst has placed the byte that makes the mode 4, with the scanner's mode
then another. -/
theorem witness_BankSwitchByPhaseAndValidity :
    let s (image : Mem) : State :=
      let x := planned ready
      { x with store := { x.store with b := { image := image, validity := .valid, item := none } } }
    let burst (v : Byte) (ph : Phase) : State :=
      let x := inBurst (s planImage) [{ addr := 0x514, byte := v, locked := false }] 0x515 []
      { x with phase := { x.phase with phase := ph } }
    (∀ ph ∈ [Phase.mains, Phase.cutoff, Phase.restore],
      (burst 4#8 ph).line = .released ∧ (burst 4#8 ph).takesLive = true ∧
        (burst 4#8 ph).phase.phase.active = false ∧
        ((burst 4#8 ph).bankRegion .b).map (·.lo) = some 0x500 ∧ (burst 4#8 ph).configured = true ∧
        (burst 4#8 ph).kindAt 0x500 = Bank.b.regionKind ∧
        (∀ v ∈ [(3#8 : Byte), 4#8], (State.validated ((burst v ph).setBank .b { (burst v ph).bank .b with
            image := imageTake planImage 0x500 [{ addr := 0x514, byte := v, locked := false }] }) .b).validity
          = if v = 3#8 then .valid else .invalid)) ∧
    ((s planImage).line = .released ∧ (s planImage).takesLive = true ∧ Bank.b.code = (1#8 : Byte).toNat ∧
      1 < (2#8 : Byte).toNat ∧
      (s planImage).store.ready = true ∧ (s planImage).store.load = none ∧
      (s planImage).phase.phase.active = false ∧ Bank.b ≠ (s planImage).store.active ∧
      (s planImage).path.txn = none ∧ ((s planImage).validated .b).validity = .valid) ∧
      ((s (planImage.write 20 4#8)).validated .b).validity = .invalid ∧
      Bank.a = (s planImage).store.active ∧
      ((inPhase .outage).phase.phase.active = true ∧ (inPhase .outage).scan.latch = false) := by
  decide +kernel

/-! ## Witnesses: the memory path -/

/-- Part-owned values formed by a load and not formed. -/
theorem witness_ImagesFollowLayouts :
    (planned ready).store.activeFormed = true ∧ State.reset.store.activeFormed = false ∧
      State.reset.ev.idxFormed = false ∧ State.reset.scan.measFormed = false := by decide

theorem witness_MapLockProtectsInstallation :
    let l (s : State) : State := { s with path := { s.path with mapLock := true } }
    (built ready).line = .released ∧ (built ready).takesLive = true ∧ (127 : Nat) < 128 ∧
      ((l (built ready)).configured = true ∧ (l (built ready)).phase.phase = .mains ∧
        (l (built ready)).path.mapLock = true) ∧ (built ready).path.mapLock = false ∧
      (built (inPhase .outage)).phase.phase ≠ .mains ∧
      ({ ready with path := { ready.path with inst := some [] } } : State).unconfigured = true ∧
      (Instr.mapLockWrite 0 0#8).isReset = false := by decide +kernel

theorem witness_LinkMovementsWithoutData :
    (∀ x ∈ [none, some ({ began := 0, stuck := true } : Txn), some { began := 0, cmd := some .other }],
      let s : State := { ready with path := { ready.path with csLow := true, txn := x } }
      (Instr.claimAttempt 9).liveAt = some 9 ∧ s.takesLive = false ∧
        (s.path.csLow = true ∧ s.path.txn = none ∨ s.path.txn.any (fun y => y.stuck || y.cmd == some .other))) ∧
    (linked ready).takesLive = true ∧ (linked ready).line = .released ∧ (linked ready).path.csLow = true ∧
      ready.path.csLow = false ∧
      (writing .meas 0x1300 [5#8] []).path.own.isSome = true ∧ ready.path.own = none ∧
      ((linked ready).path.txn = some { began := 0 } ∧ 0 + 50 * Config.ms ≤ max (linked ready).clock 50000 ∧
        max (linked ready).clock 49999 < 0 + 50 * Config.ms) ∧ ready.path.txn = none := by decide

/-- A burst over the end of memory up to the window, one into the window over the claim byte, and a later piece with
the snapshot already taken. -/
theorem witness_ArrayReadServesMemoryAndSnapshot :
    let x : Txn := { began := 0 }
    let y : Txn := { began := 0, cmd := some .read, addr := 146, live := true, snap := some [7#8] }
    ((linked ready).line = .released ∧ (linked ready).path.txn = some x ∧ x.stuck = false ∧ x.cmd = none ∧
      x.addr < 262144 ∧ 262143 < 262144) ∧
      (y.stuck = false ∧ y.cmd = some .read ∧ y.addr < 262144) ∧
      ((∀ k < 129, inLive ((262143 + k) % 262144) = false) ∧ inLive ((262143 + 129) % 262144) = true) ∧
      (146 + 1) % 262144 = 147 := by
  decide +kernel

/-- R110, R161: a later piece serves the snapshot already taken, and the claim byte the transaction's outcome. -/
theorem test_later_piece_serves_old_snapshot :
    seen (fun t => t.path.slOut) (.arrayRead 1 0 3) { ready with path := { ready.path with
        csLow := true
        txn := some { began := 0, cmd := some .read, addr := 145, live := true, claim := some 1#8
                      snap := some (List.replicate 128 9#8) } } }
      = some [9#8, 9#8, 1#8] := by decide

/-- A write of the whole installation block up to the window; writes stopped at the first byte and at the last
one; a write through the window, from 0000FFh on; a write of no byte; one from the last address on. -/
theorem witness_ArrayWritePlacesForwardedBytes :
    let s := linked (built ready)
    (s.line = .released ∧ s.path.txn = some { began := 0 }) ∧ s.MemOk ∧
      (∀ k < 128, s.classify ((0 + k) % 262144) = .forwarded) ∧
      (s.classify 0x900 = .refusing .owned ∧ inLive 0x900 = false) ∧
      (s.classify 0x8FF = .forwarded ∧ 0x8FF + 1 = 0x900) ∧
      (inLive 128 = true ∧ inLive 255 = true ∧ inLive 256 = false ∧ s.classify 128 ≠ .forwarded ∧
        s.classify 127 = .forwarded) ∧
      (let d : Txn := { began := 0, cmd := some .write, addr := 0x900, decided := some (2, .owned) }
       d.stuck = false ∧ d.refused = none ∧ d.decided = some (2, .owned) ∧ inLive d.addr = false) ∧
      (liveRowOf 1 45 7#8 = some (.startLevelWrite 1 7#8) ∧ liveRowOf 1 20 7#8 = none ∧ liveRowOf 1 46 7#8 = none ∧
        seen (·.phase.startLevel) (.startLevelWrite 1 7#8) s = some 7) ∧
      (let later : Txn := { began := 0, cmd := some .write, addr := 128 + (45 : Fin 128).val, live := true }
       later.stuck = false ∧ later.refused = none ∧ later.cmd = some .write ∧
         later.addr = 128 + (45 : Fin 128).val) ∧
      (262143 < 262144 ∧ s.classify 262143 = .forwarded ∧ (262143 + 1) % 262144 = 0) := by
  unfold State.MemOk; decide +kernel

/-- The link is free at 2 µs and not at 1 µs: a load is due, an image write is owed, an entry of each kind
heads the queue, a port's mark and the installation mark come next. -/
theorem witness_OwnAccessChosenInOrder :
    let s := built ready
    let q (x : OwnEntry) : State := { s with path := { s.path with ownq := [x] } }
    let m : State := { s with path := { s.path with dirty := s.path.dirty.set 47 true } }
    let i : State := { s with path := { s.path with dirtyInst := true } }
    let o : State := { s with path := { s.path with preempted := some (.image 3) } }
    let l : State := { State.reset with
      line := .released
      store := { State.reset.store with load := some { cause := .warm, todo := [.inst], off := 0 } } }
    (s.line = .released ∧ s.path.link ≠ .stuck ∧ max s.clock 1 < s.path.csSince + 2) ∧
      (s.path.own = none ∧ s.path.link = .idle ∧ s.path.csLow = false ∧ s.path.csSince + 2 ≤ max s.clock 2) ∧
      (l.path.preempted = none ∧ l.store.ready = false ∧ l.store.load.isSome = true) ∧
      (s.store.ready = true ∧ s.configured = true ∧ 0 < s.measN ∧ 0 < s.ringN ∧ s.imageRegion ≠ none) ∧
      o.path.preempted = some (.image 3) ∧
      (∀ k ∈ [OwnKind.meas, .event, .inst, .load], let c : State := { q measEntry with
         path := { (q measEntry).path with preempted := some k } }
       c.path.preempted = some k ∧ (reloading c).store.load.isSome = true ∧ (reloading c).store.ready = true) ∧
      ((q measEntry).path.ownq = measEntry :: [] ∧ (q measEntry).path.turn = .queue ∧
        (q eventEntry).path.ownq = eventEntry :: []) ∧
      (m.nextMark = some (.port 47) ∧ m.path.ownq = []) ∧ i.nextMark = some .inst ∧
      (s.path.preempted = none ∧ s.store.load = none ∧ s.path.ownq = [] ∧ s.nextMark = none) := by decide +kernel

/-- A part that is not configured has no region: a dead head entry, alone and with a staged event behind it, a mark
and a preempted write of a port's image. -/
theorem witness_OwnAccessWithoutRegions :
    let s : State := { ready with path := { ready.path with
      inst := some [], ownq := [measEntry], preempted := some (.image 3), dirty := Tab.fill 48 true } }
    let e : State := { s with ev := { s.ev with staging := [s.entry .thermal 0 0 2 0] } }
    s.path.own = none ∧ s.path.link = .idle ∧ s.path.csLow = false ∧ s.path.csSince + 2 ≤ max s.clock 2 ∧
      s.store.ready = true ∧ s.imageRegion = none ∧ s.measN = 0 ∧ s.ringN = 0 ∧ s.path.ownq.length ≤ 16 ∧
      s.ev.staging = [] ∧ s.scan.held = none ∧ e.ev.staging.length = 1 := by decide +kernel

/-- A write of each kind under way, with a staged event to take the freed place and without one. -/
theorem witness_OwnWriteCompletes :
    let s := writing .meas 0x1300 [5#8] [measEntry]
    let g : State := { s with ev := { s.ev with staging := [s.entry .thermal 0 0 2 0] } }
    (s.line = .released ∧ s.path.own.map (fun o => (o.kind, o.void)) = some (.meas, false) ∧
      s.path.link = .own ∧ s.path.txn = none) ∧ s.MemOk ∧
      (0 < s.measN ∧ 0 < s.ringN ∧ s.ev.staging = [] ∧ s.scan.held = none) ∧
      (g.ev.staging ≠ [] ∧ g.path.ownq.length ≤ 16 ∧ g.path.ownq ≠ []) ∧
      (let h : State := { s with scan := { s.scan with
         state := .paused, held := some { channel := 6, value := 1, time := 0 } } }
       h.ev.staging = [] ∧ h.scan.held = some { channel := 6, value := 1, time := 0 } ∧
         h.scan.startUp = false ∧ h.path.ownq.length ≤ 16 ∧ h.path.ownq ≠ []) ∧
      (let k : State := { s with path := { s.path with
         csLow := true, txn := some { began := 0, stuck := true } } }
       k.path.link = .own ∧ k.path.txn.any (·.stuck) = true) ∧
      ((writing .event 0xF00 [7#8] [eventEntry]).path.own.map (·.kind) = some .event ∧
        (writing (.image 3) 0x960 [1#8] []).path.own.map (·.kind) = some (.image 3) ∧
        (writing .inst 3 [0#8] []).path.own.map (·.kind) = some .inst) := by
  unfold State.MemOk; decide +kernel

/-- A plan-load read under way: the two of the installation block, its image unknown, with a block that has plan
regions and one that leaves the part unconfigured; one within a bank, the last of one of two banks, the last. -/
theorem witness_PlanLoadReadFillsAndEnds :
    let s (todo : List LoadPart) (off : Nat) : State :=
      { built ready with
        store := { State.reset.store with load := some { cause := .powerOn, todo := todo, off := off } }
        path := { (built ready).path with link := .own, own := some { kind := .load, addr := 0, data := [] } } }
    (∀ x ∈ [([LoadPart.inst], 0), ([.inst], 64), ([.bank .a, .bank .b], 0), ([.bank .a, .bank .b], 896),
        ([.bank .a, .bank .b], 960), ([.bank .b], 960)],
      (s x.1 x.2).line = .released ∧
        (s x.1 x.2).path.own = some { kind := .load, addr := 0, data := [] } ∧
        (s x.1 x.2).path.link = .own ∧
        (s x.1 x.2).store.load = some { cause := .powerOn, todo := x.1, off := x.2 } ∧
        (s x.1 x.2).path.txn = none ∧ (s x.1 x.2).store.target = none ∧ (s x.1 x.2).test.run = none) ∧
      (let u : State := { s [.inst] 64 with
         path := { (s [.inst] 64).path with inst := none, instBuf := (Mem.writeBytes [] 0 blockBytes) } }
       u.path.inst = none ∧ u.store.ready = false ∧ u.path.instBuf.num 0 = 0x5A ∧
         instValid (u.path.instBuf.writeBytes 64 (u.mem.readBytes 0 64)).num = true ∧
         instValid (Mem.num (Mem.writeBytes [] 64 (u.mem.readBytes 0 64))) = false) ∧
      (let r : State := { s [.inst] 64 with
         store := { ready.store with load := some { cause := .remapped, todo := [.inst], off := 64 } }
         path := { (s [.inst] 64).path with instBuf := (Mem.writeBytes [] 0 blockBytes) } }
       r.store.ready = true ∧ LoadCause.remapped.isReset = false ∧
         r.path.inst = some (r.path.instBuf.writeBytes 64 (r.mem.readBytes 0 64))) ∧
      (let x := pend .b (s [.bank .b] 960)
       let o : State := { x with phase := { x.phase with phase := .outage } }
       x.store.target = some .b ∧ x.phase.qual = .stopped ∧ x.phase.phase.active = false ∧
         o.phase.phase.active = true ∧ o.scan.latch = false) ∧
      896 + 64 < 992 := by decide +kernel

/-- A write that placed a byte outside every plan region; one that placed the first and the last byte of the
standby bank's region, and one of the active bank's in MAINS, that leaves it valid or not; one into the
installation block that changes nothing, moves the boundary of segment 0, moves bank B, or makes the part
unconfigured. -/
theorem witness_TransactionEndHandsBytesOn :
    let s (placed : List Placed) : State :=
      let x := planned ready
      { x with path := { x.path with
        csLow := true, txn := some { began := 0, cmd := some .write, placed := placed } } }
    let outside : Placed := { addr := 0x1FFFF, byte := 1#8, locked := false }
    let low : Placed := { addr := 0x500, byte := 1#8, locked := false }
    let high : Placed := { addr := 0x8FF, byte := 1#8, locked := false }
    ((s [outside]).line = .released ∧ (s [outside]).path.csLow = true ∧
      (s [outside]).path.txn.map (fun x => (x.reqWritten, x.rdLo, x.rdHi)) = some (false, none, none)) ∧
      (128 ≤ outside.addr ∧ ∀ k ∈ [Bank.a, Bank.b],
        (((s [outside]).bankRegion k).map fun r => decide (outside.addr < r.hi)) = some false) ∧
      ((s [low, high]).store.ready = true ∧ (s [low, high]).store.load = none ∧
        Bank.b ≠ (s [low, high]).store.active ∧
        ((s [low, high]).bankRegion .b).map (fun r => (r.lo, r.hi)) = some (low.addr, high.addr + 1) ∧
        ((s [low, high]).bankRegion .a).map (fun r => r.hi) = some low.addr) ∧
      (let a (v : Byte) : Placed := { addr := 0x114, byte := v, locked := false }
       let y (v : Byte) := s [a v]
       (y 3#8).phase.phase = .mains ∧ (y 3#8).store.active = .a ∧ (y 3#8).store.plan ≠ .builtIn ∧
         ((y 3#8).bankRegion .a).map (fun r => (r.lo, r.hi)) = some (0x100, 0x500) ∧ (a 3#8).addr < 0x100 + 992 ∧
         (∀ v ∈ [(3#8 : Byte), 4#8], (State.validated ((y v).setBank .a { (y v).bank .a with
             image := imageTake planImage 0x100 [a v] }) .a).validity = if v = 3#8 then .valid else .invalid)) ∧
      (let m := Mem.writeBytes [] 0 blockBytes
       let b (addr : Nat) (v : Byte) : Placed := { addr := addr, byte := v, locked := false }
       let map (x : Placed) : State := { s [x] with path := { (s [x]).path with inst := some (instTake m [x]) } }
       (s [b 34 48#8]).path.inst = some m ∧ (s [b 34 48#8]).store.target = none ∧
         instTake m [b 34 48#8] = m ∧ (b 127 0#8).addr < 128 ∧
         (∀ x ∈ [b 34 47#8, b 12 10#8, b 0 0#8], instTake m [x] ≠ m) ∧
         (map (b 34 47#8)).region .planB = (s []).region .planB ∧
         (map (b 12 10#8)).region .planB ≠ (s []).region .planB ∧ (map (b 12 10#8)).configured = true ∧
         (map (b 0 0#8)).configured = false) ∧
      (ready.path.csLow = false ∧
        ({ ready with path := { ready.path with csLow := true } } : State).path.txn = none) := by
  decide +kernel

/-- The clause of `TransactionEndHandsBytesOn` on a transaction that wrote the test request and the read index. -/
theorem witness_TransactionEndTakesFields :
    let x := planned ready
    let r : State := { x with path := { x.path with
      csLow := true
      txn := some { began := 0, cmd := some .write, live := true, reqWritten := true, rdLo := some 3#8 } } }
    r.line = .released ∧ r.path.csLow = true ∧ r.store.target = none ∧ (0#8 : Byte).toNat = r.test.req.port ∧
      r.path.txn.map (fun x => (x.reqWritten, x.rdLo, x.rdHi)) = some (true, some 3#8, none) := by decide +kernel

/-- The clauses of `TransactionEndHandsBytesOn` out of MAINS: a byte of the active bank placed while it was open only
in MAINS, and one placed while the bank was standby. -/
theorem witness_TransactionEndOutOfMains :
    ∀ locked ∈ [true, false],
      let y : Placed := { addr := 0x114, byte := 3#8, locked := locked }
      let s := inBurst (planned (inPhase .outage)) [y] 0x115 []
      s.path.csLow = true ∧ s.store.load = none ∧ s.store.ready = true ∧ s.phase.phase ≠ .mains ∧
        s.store.active = .a ∧ (s.bankRegion .a).map (fun r => (r.lo, r.hi)) = some (0x100, 0x500) ∧
        (s.bankRegion .b).map (·.lo) = some 0x500 := by decide +kernel

end Sys2Proof.Tests
end

section
/-! PROOFS. The resets and their releases, the line samples of the qualifier, and the written start level (O9 to O16
in part, O21). -/

namespace Sys2Proof.Machine
open Sys2Proof

/-! ## Commands under an asserted reset -/

/-- A timed command does nothing while a reset is asserted (R168; log 14). -/
theorem timed_asserted {s : State} (h : s.line ≠ .released) (t : Nat) (f : State → State) :
    timed t f s = .next s := by simp [timed, h]

/-- Settles O9: outside the resets and the input lines every command is a timed one. -/
theorem assertedResetIsInert : Obligations.AssertedResetIsInert := by
  intro c s hline hreset hmoves
  cases c with
  | powerOnReset | warmReset | nresetRelease | powerOnResetRelease => simp [Instr.isReset] at hreset
  | mainsOkChange | transactionStart | transactionEnd => simp [Instr.movesLine] at hmoves
  | _ => simp only [exec, timed_asserted hline,
      execLossQualified, execRestoreQualified, execSettlingComplete, execAccountingPeriodEnd,
      execStartLevelWrite, execTerminalStatusReading, execStatusDebounceExpiry,
      execAbsenceTimerExpiry, execTripReport, execCoolOffExpiry, execPulseTimerExpiry,
      execAnswerTimerExpiry, execRetryTimerExpiry, execBarClear, execGateGrant,
      execConversionComplete, execConversionFailed, execScanTrigger, execScanStop,
      execRoundTimerExpiry, execClaimAttempt, execClaimRelease, execClaimLapse, execTestRequest,
      execTestAbort, execHoldupTimeExpiry, execTestPulseEnd, execTestAnswerTimerExpiry,
      execDrawSamplingEnd, execReadIndexWrite, execBankSwitchWrite, execArrayRead, execArrayWrite,
      execOtherCommand, execMapLockWrite, execLiveWriteAbsorbed, execLinkStuck, execOwnAccessStart,
      execPlanLoadReadComplete, execMeasRecordWriteComplete, execEventRecordWriteComplete,
      execPortImageWriteComplete, execInstallationWriteComplete]

/-! ## The power-on values -/

/-- Every port of the part after power-on reset holds the default record. -/
theorem reset_port (p : Fin 48) : State.reset.port p = {} := Tab.get_fill ..

/-- No segment holds a port after power-on reset (R21). -/
theorem reset_segOf (p : Fin 48) : State.reset.segOf p = none := by
  simp [State.segOf, State.reset]

theorem reset_value (c : Fin 54) : State.reset.value c = 0 := Tab.get_fill ..

theorem reset_age (c : Fin 54) : State.reset.scan.ages.get c = 255 := Tab.get_fill ..

theorem reset_stale (c : Fin 54) : State.reset.stale c = true := by
  simp [State.stale, reset_age]

/-- No load signal is on after power-on: the filter reads 0 (R81). -/
theorem reset_shed : State.reset.shed = false := by
  simp [State.shed, State.filter, State.reset]

/-- Settles O10: each table of the rules against the defaults of the blocks' records. -/
theorem resetHoldsPowerOnValues : Obligations.ResetHoldsPowerOnValues := by
  refine ⟨⟨rfl, rfl, rfl, rfl, rfl, rfl⟩, fun p => ?_, ⟨rfl, rfl, fun g => Tab.get_fill ..⟩,
    fun c => ⟨reset_value c, reset_age c, reset_stale c⟩, ⟨rfl, rfl, rfl, rfl, rfl⟩, fun p => ?_,
    ⟨rfl, rfl, rfl, rfl, rfl, rfl, reset_shed⟩,
    ⟨rfl, rfl, fun i => Tab.get_fill .., rfl, rfl, rfl, rfl, fun i => Tab.get_fill ..⟩,
    ⟨rfl, rfl, rfl, rfl, fun i => Tab.get_fill .., rfl, rfl, rfl⟩,
    ⟨fun i => Tab.get_fill .., rfl, rfl, rfl, rfl, rfl⟩, ⟨rfl, rfl, rfl, rfl, rfl⟩,
    ⟨rfl, rfl, rfl, rfl, fun p => Tab.get_fill .., rfl, rfl, rfl, rfl⟩⟩
  · simp [reset_port, reset_segOf]
  · simp [reset_port]

/-- Settles O11: after power-on reset the queues and the memory are empty, and every switch is open. -/
theorem resetMeetsInvariants : Obligations.ResetMeetsInvariants := by
  refine ⟨rfl, ⟨Nat.zero_le _, Nat.zero_le _⟩, fun p => ?_, fun p => ?_, Nat.le_refl 100, ?_⟩
  · exact SwitchOk.of_open (by rw [reset_port])
  · rw [reset_port]; exact ⟨nofun, nofun⟩
  · exact ⟨.nil, .nil, nofun, nofun, nofun, nofun⟩

/-! ## An own write that a reset cuts (R166) -/

/-- A cut own access moves no byte of the memory outside its own bytes. -/
theorem cutOwn_read_outside {s : State} (hm : s.MemOk) {a : Nat}
    (ha : ∀ o, s.path.own = some o → a < o.addr ∨ o.addr + o.data.length ≤ a) :
    s.cutOwn.mem.read a = s.mem.read a := by
  unfold State.cutOwn
  cases ho : s.path.own with
  | none => rfl
  | some o =>
    dsimp only
    split
    · rfl
    · refine Mem.read_writeBytes_outside hm _ _ ?_
      have := ha o ho
      simp only [List.length_take]
      omega

/-- Settles O12: the cut own write alone can move a byte. -/
theorem powerOnResetTakesPowerOnValues : Obligations.PowerOnResetTakesPowerOnValues := by
  intro s hm
  refine ⟨_, rfl, rfl, rfl, rfl, rfl, rfl, ?_, fun a ha => cutOwn_read_outside hm ha⟩
  intro b hb
  cases b with
  | phase | path | mem | queue => simp at hb
  | _ => rfl

/-! ## The warm reset -/

theorem warm_port (s : State) (p : Fin 48) : s.warm.port p = s.warmPort p := Tab.get_ofFn ..

/-- The summary of a port that a warm reset finds under test (R124). -/
theorem resetSummary_run {s : State} {run : TestRun} (h : s.test.run = some run) (p : Fin 48) :
    s.resetSummary p = if run.port = p then
      some { kind := run.kind, result := .aborted .reset, value := (s.clock - run.attached) / Config.sec }
    else (s.port p).lastTest := by
  simp [State.resetSummary, h, TestRun.elapsed]

theorem resetSummary_idle {s : State} (h : s.test.run = none) (p : Fin 48) :
    s.resetSummary p = (s.port p).lastTest := by
  simp [State.resetSummary, h]

/-- Settles O13: `State.warm` field by field, on the part at the moment NRESET falls. -/
theorem warmResetKeepsAndClears : Obligations.WarmResetKeepsAndClears := by
  intro τ s hline hm now
  refine ⟨(s.advance τ).warm, timed_released hline τ _, rfl, rfl, fun p => ?_, fun hrun p => ?_,
    ⟨rfl, rfl, fun g => Tab.get_fill ..⟩, ⟨rfl, rfl, rfl, rfl, rfl, rfl, rfl, rfl⟩, ⟨rfl, rfl, rfl⟩, rfl,
    ⟨rfl, rfl, rfl, rfl, rfl, rfl, rfl, rfl⟩, ⟨fun i => Tab.get_fill .., rfl, rfl, rfl, rfl⟩,
    ⟨rfl, rfl, rfl, rfl, rfl⟩,
    ⟨rfl, rfl, rfl, rfl, rfl, fun p => Tab.get_fill .., rfl, rfl, rfl, rfl, rfl⟩, rfl, rfl,
    fun a ha => cutOwn_read_outside (s := s.advance τ) hm ha⟩
  · dsimp only
    rw [warm_port]
    refine ⟨rfl, rfl, rfl, rfl, rfl, rfl, rfl, rfl, rfl, rfl, rfl, rfl, rfl, rfl, rfl, rfl, rfl, ?_⟩
    exact fun run hrun => resetSummary_run (s := s.advance τ) hrun p
  · rw [warm_port]; exact resetSummary_idle (s := s.advance τ) hrun p

/-! ## The releases -/

/-- R20: the mains state and the qualification timer at the release of NRESET. -/
theorem atRelease_table (x : PhaseCtl) :
    (x.atRelease.mains, x.atRelease.qual) = (match x.phase, x.mainsOk with
      | .mains, true => (.present, .stopped)
      | .restore, true => (.present, .stopped)
      | .mains, false => (.losing, .running 0)
      | .restore, false => (.losing, .running 0)
      | .outage, true => (.returning, .running 0)
      | .reserve, true => (.returning, .running 0)
      | .cutoff, true => (.returning, .running 0)
      | .outage, false => (.lost, .stopped)
      | .reserve, false => (.lost, .stopped)
      | .cutoff, false => (.lost, .stopped)) := by
  unfold PhaseCtl.atRelease
  cases x.phase <;> cases x.mainsOk <;> rfl

theorem atRelease_frame (x : PhaseCtl) :
    x.atRelease = { x with mains := x.atRelease.mains, qual := x.atRelease.qual } := by
  unfold PhaseCtl.atRelease
  split <;> split <;> rfl

/-- Settles O14: both releases are `releaseReset`, that of NRESET with the table of R20. -/
theorem releaseStartsPlanLoad : Obligations.ReleaseStartsPlanLoad := by
  constructor
  · intro s h
    refine ⟨State.releaseReset { s with phase := s.phase.atRelease } .warm, ?_, rfl, rfl,
      atRelease_table s.phase, atRelease_frame s.phase, rfl, rfl, ?_⟩
    · simp [exec, execNresetRelease, h]
    · intro b hb
      cases b with
      | phase | store | path => simp at hb
      | _ => rfl
  · intro s h
    refine ⟨s.releaseReset .powerOn, ?_, rfl, rfl, rfl, rfl, ?_⟩
    · simp [exec, execPowerOnResetRelease, h]
    · intro b hb
      cases b with
      | store | path => simp at hb
      | _ => rfl

/-! ## The qualifier's samples -/

/-- R1: the mains state and the qualification timer after a sample. -/
theorem mainsSample_table (s : State) (high : Bool) :
    ((s.mainsSample high).phase.mains, (s.mainsSample high).phase.qual) =
      (match s.phase.mains, high with
        | .present, true => (.present, s.phase.qual)
        | .present, false => (.losing, .running s.clock)
        | .losing, true => (.present, .stopped)
        | .losing, false => (.losing, s.phase.qual)
        | .lost, true => (.returning, .running s.clock)
        | .lost, false => (.lost, s.phase.qual)
        | .returning, true => (.returning, s.phase.qual)
        | .returning, false => (.lost, .stopped)) := by
  unfold State.mainsSample
  cases hm : s.phase.mains <;> cases high <;> simp [hm]

/-- A sample moves the line, the mains state and the qualification timer alone. -/
theorem mainsSample_frame (s : State) (high : Bool) :
    s.mainsSample high = { s with phase := { s.phase with
      mainsOk := high, mains := (s.mainsSample high).phase.mains, qual := (s.mainsSample high).phase.qual } } := by
  unfold State.mainsSample
  cases s.phase.mains <;> cases high <;> rfl

/-- Settles O15. -/
theorem mainsSampleFollowsTable : Obligations.MainsSampleFollowsTable := by
  intro τ high s
  by_cases h : s.line = .released
  · have frame := mainsSample_frame (s.advance τ) high
    refine ⟨(s.advance τ).mainsSample high, by simp [exec, execMainsOkChange, h], fun hn => absurd h hn, fun _ => ?_⟩
    have line : ((s.advance τ).mainsSample high).line = s.line := by rw [frame]; rfl
    refine ⟨congrArg State.clock frame, ⟨line, fun b hb => ?_⟩, congrArg State.phase frame,
      mainsSample_table (s.advance τ) high⟩
    cases b with
    | phase => simp at hb
    | _ => rw [frame]; rfl
  · exact ⟨_, by simp only [exec, execMainsOkChange, if_neg h], fun _ => rfl, fun hr => absurd hr h⟩

/-! ## A qualification held while LOADING (R3) -/

/-- The qualification timer looked at again while LOADING moves the timer alone: a count that is due is held, a held
one under a longer qualify time runs on. -/
theorem requalify_loading {s : State} (h : s.store.ready = false) :
    s.requalify = { s with phase := { s.phase with qual := match s.phase.qual with
      | .stopped => .stopped
      | .running t0 => if t0 + s.qualifyTime ≤ s.clock then .held (s.clock - t0) else .running t0
      | .held n => if s.qualifyTime ≤ n then .held n else .running (s.clock - n) } } := by
  have keep : ∀ q, s.phase.qual = q → s = { s with phase := { s.phase with qual := q } } := by
    rintro q rfl; rfl
  unfold State.requalify
  cases hq : s.phase.qual with
  | stopped => exact keep _ hq
  | running t0 =>
    dsimp only
    split
    · simp [State.qualify, h]
    · exact keep _ hq
  | held n =>
    dsimp only
    by_cases hn : n < s.qualifyTime
    · simp only [if_pos hn, if_neg (Nat.not_le.mpr hn)]
    · simp only [if_neg hn, if_pos (Nat.not_lt.mp hn), h]; exact keep _ hq

theorem requalify_loading_sameBut {s : State} (h : s.store.ready = false) (τ : Nat) :
    SameBut [.phase] s (s.advance τ).requalify := by
  rw [requalify_loading (s := s.advance τ) h]
  refine ⟨rfl, fun b hb => ?_⟩
  cases b with
  | phase => simp at hb
  | _ => rfl

/-- Settles O16: both commands look at the qualification timer again, each under its own qualify time. -/
theorem qualificationHeldWhileLoading : Obligations.QualificationHeldWhileLoading := by
  intro τ s hline hload now
  have eq := requalify_loading (s := s.advance τ) hload
  constructor
  · intro hm
    have time : (s.advance τ).qualifyTime = s.lossTime := by simp [State.qualifyTime, hm, State.lossTime]
    refine ⟨(s.advance τ).requalify, ?_, requalify_loading_sameBut hload τ, by rw [eq]; rfl, ?_, ?_⟩
    · simp [exec, execLossQualified, timed_released hline, hm]
    · intro t0 hq; rw [eq, advance_phase, hq, time]; rfl
    · intro n hq; rw [eq, advance_phase, hq, time]; rfl
  · intro hm
    have time : (s.advance τ).qualifyTime = s.restoreTime := by
      simp [State.qualifyTime, hm, State.restoreTime]
    refine ⟨(s.advance τ).requalify, ?_, requalify_loading_sameBut hload τ, by rw [eq]; rfl, ?_, ?_⟩
    · simp [exec, execRestoreQualified, timed_released hline, hm]
    · intro t0 hq; rw [eq, advance_phase, hq, time]; rfl
    · intro n hq; rw [eq, advance_phase, hq, time]; rfl

/-! ## The written start level -/

/-- The test fields fill 17 bytes of the live window (10_memory_images.md). -/
theorem testBytes_length (s : State) : s.testBytes.length = 17 := by
  unfold State.testBytes
  cases s.test.last <;> simp [leBytes]

/-- The live window shows the start level at offset 45 (10_memory_images.md). -/
theorem liveWindow_startLevel (s : State) : s.liveWindow[45]? = some (byteOf s.phase.startLevel) := by
  have len := testBytes_length s
  unfold State.liveWindow
  generalize s.testBytes = l at len ⊢
  simp [leBytes, List.getElem?_append, len]

/-- Settles O21: the row touches the window and stores the level. -/
theorem startLevelWriteStores : Obligations.StartLevelWriteStores := by
  intro τ v s hline hlive now
  have eq : exec (.startLevelWrite τ v) s = .next (State.writeStartLevel { s.advance τ with
      path := s.pathTouched, test := { s.test with lapse := s.lapseAfter now } } v) := by
    have htaken : (s.advance τ).takesLive = true := hlive
    simp only [exec, execStartLevelWrite, timed_released hline, liveRow_taken htaken]
    rfl
  refine ⟨_, eq, rfl, rfl, liveWindow_startLevel _, rfl, rfl, rfl, fun b hb => ?_⟩
  cases b with
  | phase | test | path => simp at hb
  | _ => rfl

end Sys2Proof.Machine
end

section
/-! PROOFS. Fine frames: which parts of the state each operation of a phase entry or of a period end changes, and
that of the path unit it changes the dirty marks alone. -/

namespace Sys2Proof.Machine
open Sys2Proof

/-! ## The queue and the marks of the path unit -/

/-- The path unit without its queue, its marks and the access under way: what `QueueAndMarks` keeps. -/
def Path.rest (x : Path) : Path :=
  { x with ownq := [], dirty := Tab.fill 48 false, dirtyInst := false, own := none }

theorem queueAndMarks_iff {s t : State} :
    QueueAndMarks s t ↔ t.path.rest = s.path.rest ∧ ownRest t.path.own = ownRest s.path.own := by
  refine and_congr_left' ⟨fun h => by rw [h]; rfl, fun h => ?_⟩
  generalize t.path = y at h ⊢
  generalize s.path = x at h ⊢
  cases x; cases y
  simp only [Path.rest, Path.mk.injEq] at h ⊢
  simp [h]

theorem QueueAndMarks.refl (s : State) : QueueAndMarks s s := ⟨rfl, rfl⟩

theorem QueueAndMarks.trans {s t u : State} (h : QueueAndMarks s t) (k : QueueAndMarks t u) :
    QueueAndMarks s u := by
  rw [queueAndMarks_iff] at *
  exact ⟨k.1.trans h.1, k.2.trans h.2⟩

theorem QueueAndMarks.of_path {s t : State} (h : t.path = s.path) : QueueAndMarks s t := by
  rw [queueAndMarks_iff, h]; exact ⟨rfl, rfl⟩

theorem QueueAndMarks.path_inst {s t : State} (h : QueueAndMarks s t) : t.path.inst = s.path.inst :=
  by rw [h.1]

theorem QueueAndMarks.path_txn {s t : State} (h : QueueAndMarks s t) : t.path.txn = s.path.txn :=
  by rw [h.1]

theorem MarksOnly.refl (s : State) : MarksOnly s s := ⟨.refl s, rfl⟩

theorem MarksOnly.trans {s t u : State} (h : MarksOnly s t) (k : MarksOnly t u) : MarksOnly s u :=
  ⟨h.1.trans k.1, k.2.trans h.2⟩

theorem ownRest_overtaken (k : OwnKind) (o : Option Own) : ownRest (Own.overtaken k o) = ownRest o := by
  cases o with
  | none => rfl
  | some x => simp only [ownRest, Own.overtaken, Option.map_some]; split <;> rfl

/-! ## Which parts an operation changes -/

/-- From `s` to `t` only the parts of a list have changed: no reset has moved, and no time has passed. -/
structure Only (l : List Part) (s t : State) : Prop where
  line : t.line = s.line
  clock : t.clock = s.clock
  parts : SameParts l s t

namespace Only

variable {l m n : List Part} {s t u : State}

theorem refl (s : State) : Only l s s := ⟨rfl, rfl, fun b _ => by cases b <;> rfl⟩

theorem mono (h : Only l s t) (hl : l ⊆ n := by decide) : Only n s t :=
  ⟨h.line, h.clock, fun b hb => h.parts b fun hm => hb (hl hm)⟩

theorem trans (h : Only l s t) (k : Only l t u) : Only l s u := by
  refine ⟨k.line.trans h.line, k.clock.trans h.clock, fun b hb => ?_⟩
  have ht := h.parts b hb
  have hu := k.parts b hb
  cases b <;> exact Eq.trans hu ht

/-- One change after the other. -/
theorem next (h : Only l s t) (k : Only m t u) (hl : l ⊆ n := by decide) (hm : m ⊆ n := by decide) :
    Only n s u := (h.mono hl).trans (k.mono hm)

theorem phase (h : Only l s t) (hl : Part.phase ∉ l := by decide) : t.phase = s.phase := h.parts .phase hl
theorem ports (h : Only l s t) (hl : Part.ports ∉ l := by decide) : t.ports = s.ports := h.parts .ports hl
theorem gate (h : Only l s t) (hl : Part.gate ∉ l := by decide) : t.gate = s.gate := h.parts .gate hl
theorem scan (h : Only l s t) (hl : Part.scan ∉ l := by decide) : t.scan = s.scan := h.parts .scan hl
theorem acct (h : Only l s t) (hl : Part.acct ∉ l := by decide) : t.acct = s.acct := h.parts .acct hl
theorem sched (h : Only l s t) (hl : Part.sched ∉ l := by decide) : t.sched = s.sched := h.parts .sched hl
theorem test (h : Only l s t) (hl : Part.test ∉ l := by decide) : t.test = s.test := h.parts .test hl
theorem ev (h : Only l s t) (hl : Part.ev ∉ l := by decide) : t.ev = s.ev := h.parts .ev hl
theorem store (h : Only l s t) (hl : Part.store ∉ l := by decide) : t.store = s.store := h.parts .store hl
theorem path (h : Only l s t) (hl : Part.path ∉ l := by decide) : t.path = s.path := h.parts .path hl

theorem port (h : Only l s t) (p : Fin 48) (hl : Part.ports ∉ l := by decide) : t.port p = s.port p :=
  congrArg (Tab.get · p) (h.ports hl)

theorem sameBut (h : Only l s t) : SameBut l s t := ⟨h.line, h.parts⟩

/-- A change after a command's moment has come, as `SameBut` says it. -/
theorem sameBut_advance {τ : Nat} (h : Only l (s.advance τ) t) : SameBut l s t :=
  ⟨h.line, fun b hb => by have hp := h.parts b hb; cases b <;> exact hp⟩

/-- One part of the state replaced. -/
theorem setPhase (s : State) (x : PhaseCtl) : Only [.phase] s { s with phase := x } :=
  ⟨rfl, rfl, fun b hb => by cases b <;> simp_all [Part.Same]⟩
theorem setPorts (s : State) (x : Tab Port 48) : Only [.ports] s { s with ports := x } :=
  ⟨rfl, rfl, fun b hb => by cases b <;> simp_all [Part.Same]⟩
theorem setGate (s : State) (x : Gate) : Only [.gate] s { s with gate := x } :=
  ⟨rfl, rfl, fun b hb => by cases b <;> simp_all [Part.Same]⟩
theorem setScan (s : State) (x : Scan) : Only [.scan] s { s with scan := x } :=
  ⟨rfl, rfl, fun b hb => by cases b <;> simp_all [Part.Same]⟩
theorem setAcct (s : State) (x : Acct) : Only [.acct] s { s with acct := x } :=
  ⟨rfl, rfl, fun b hb => by cases b <;> simp_all [Part.Same]⟩
theorem setSched (s : State) (x : Sched) : Only [.sched] s { s with sched := x } :=
  ⟨rfl, rfl, fun b hb => by cases b <;> simp_all [Part.Same]⟩
theorem setTest (s : State) (x : TestUnit) : Only [.test] s { s with test := x } :=
  ⟨rfl, rfl, fun b hb => by cases b <;> simp_all [Part.Same]⟩
theorem setEv (s : State) (x : EventUnit) : Only [.ev] s { s with ev := x } :=
  ⟨rfl, rfl, fun b hb => by cases b <;> simp_all [Part.Same]⟩
theorem setStore (s : State) (x : Store) : Only [.store] s { s with store := x } :=
  ⟨rfl, rfl, fun b hb => by cases b <;> simp_all [Part.Same]⟩
theorem setPath (s : State) (x : Path) : Only [.path] s { s with path := x } :=
  ⟨rfl, rfl, fun b hb => by cases b <;> simp_all [Part.Same]⟩

end Only

/-- A change of the parts of a list that leaves the path unit's queue and raises no installation mark: of the path
unit only ports' marks have been set. -/
structure Marking (l : List Part) (s t : State) : Prop extends Only l s t where
  marks : MarksOnly s t
  dirty : ∀ p, s.path.dirty.get p = true → t.path.dirty.get p = true
  dirtyInst : t.path.dirtyInst = s.path.dirtyInst

theorem Only.marking {l : List Part} {s t : State} (h : Only l s t) (hl : Part.path ∉ l := by decide) :
    Marking l s t where
  toOnly := h
  marks := ⟨.of_path (h.path hl), by rw [h.path hl]⟩
  dirty p hp := by rwa [h.path hl]
  dirtyInst := by rw [h.path hl]

namespace Marking

variable {l m n : List Part} {s t u : State}

theorem refl (s : State) : Marking l s s := ⟨.refl s, .refl s, fun _ => id, rfl⟩

theorem mono (h : Marking l s t) (hl : l ⊆ n := by decide) : Marking n s t :=
  ⟨h.toOnly.mono hl, h.marks, h.dirty, h.dirtyInst⟩

theorem trans (h : Marking l s t) (k : Marking l t u) : Marking l s u :=
  ⟨h.toOnly.trans k.toOnly, h.marks.trans k.marks, fun p => k.dirty p ∘ h.dirty p,
    k.dirtyInst.trans h.dirtyInst⟩

/-- One change after the other. -/
theorem next (h : Marking l s t) (k : Marking m t u) (hl : l ⊆ n := by decide) (hm : m ⊆ n := by decide) :
    Marking n s u := (h.mono hl).trans (k.mono hm)

theorem fold {α : Type} {f : State → α → State} (xs : List α) (h : ∀ s a, Marking l s (f s a)) (s : State) :
    Marking l s (xs.foldl f s) := fold_keeps Marking.refl Marking.trans f xs h s

theorem ownq (h : Marking l s t) : t.path.ownq = s.path.ownq := h.marks.2

theorem inst (h : Marking l s t) : t.path.inst = s.path.inst := h.marks.1.path_inst

end Marking

/-! ## What the signals are read from -/

variable {s t : State}

theorem header_congr (h : t.store = s.store) : t.header = s.header := by simp [State.header, h]

theorem policy_congr (h : t.store = s.store) (p : Fin 48) : t.policy p = s.policy p := by
  simp [State.policy, h]

theorem permitted_congr (h : t.store = s.store) (hp : t.phase.phase = s.phase.phase) (p : Fin 48) :
    t.permitted p = s.permitted p := by
  simp [State.permitted, policy_congr h, hp]

theorem regions_congr (h : t.path.inst = s.path.inst) : t.regions = s.regions := by simp [State.regions, h]

theorem ringN_congr (h : t.path.inst = s.path.inst) : t.ringN = s.ringN := by
  simp [State.ringN, State.region, regions_congr h]

theorem bankRegion_congr (h : t.path.inst = s.path.inst) (k : Bank) : t.bankRegion k = s.bankRegion k := by
  simp [State.bankRegion, State.region, regions_congr h]

theorem populated_congr (h : t.path.inst = s.path.inst) : t.populated = s.populated := by
  funext p; simp [State.populated, h]

theorem canMark_congr (hr : t.store.ready = s.store.ready) (h : t.path.inst = s.path.inst) :
    t.canMark = s.canMark := by
  simp [State.canMark, State.imageRegion, State.region, regions_congr h, hr]

theorem ringOpen_congr (hr : t.store.ready = s.store.ready) (h : t.path.inst = s.path.inst) :
    t.ringOpen = s.ringOpen := by
  simp [State.ringOpen, hr, ringN_congr h]

theorem alertLevel_congr (hr : t.store.ready = s.store.ready) (h : t.path.inst = s.path.inst)
    (hu : t.ev.unkept = s.ev.unkept) (hn : t.ev.newest = s.ev.newest) (hw : t.ev.w = s.ev.w)
    (hrd : t.ev.r = s.ev.r) : t.alertLevel = s.alertLevel := by
  unfold State.alertLevel State.unread State.ringM
  rw [ringN_congr h, hr, hu, hn, hw, hrd]

theorem entry_congr (hp : t.phase.phase = s.phase.phase) (hc : t.clock = s.clock) (k : EventKind) (sub : Nat)
    (v : Int) (c g : Nat) : t.entry k sub v c g = s.entry k sub v c g := by
  simp [State.entry, State.partTime, hp, hc]

theorem openSlot_congr (h : t.sched = s.sched) (p : Fin 48) : t.openSlot p = s.openSlot p := by
  simp [State.openSlot, h]

/-! ## Marks set -/

theorem markPort_marking (s : State) (p : Fin 48) : Marking [.path] s (s.markPort p) where
  toOnly := .setPath s _
  marks := by
    refine ⟨⟨rfl, ?_⟩, rfl⟩
    simp only [State.markPort]
    split
    · exact ownRest_overtaken _ _
    · rfl
  dirty q hq := by
    simp only [State.markPort]
    split
    · rw [Tab.get_set]; split
      · rfl
      · exact hq
    · exact hq
  dirtyInst := rfl

theorem markPortIf_marking (s : State) (c : Bool) (p : Fin 48) : Marking [.path] s (s.markPortIf c p) := by
  cases c
  · exact .refl s
  · exact markPort_marking s p

/-- A mark set when a condition holds, where the part sets marks at all. -/
theorem markPortIf_dirty (s : State) (c : Bool) (p q : Fin 48) :
    (s.markPortIf c p).path.dirty.get q = (s.path.dirty.get q || (decide (q = p) && c && s.canMark)) := by
  cases c <;> by_cases hq : q = p <;> cases hc : s.canMark <;>
    simp [State.markPortIf, State.markPort, hc, hq]

/-- The marks of a table of conditions, each set for its own port (R43). -/
theorem fold_markPortIf_dirty (c : Fin 48 → Bool) (l : List (Fin 48)) (s : State) (q : Fin 48) :
    (l.foldl (fun x p => x.markPortIf (c p) p) s).path.dirty.get q =
      (s.path.dirty.get q || (decide (q ∈ l) && c q && s.canMark)) := by
  induction l generalizing s with
  | nil => simp
  | cons p rest ih =>
    have hmark : (s.markPortIf (c p) p).canMark = s.canMark :=
      have h := markPortIf_marking s (c p) p
      canMark_congr (by rw [h.store]) h.inst
    rw [List.foldl_cons, ih, markPortIf_dirty, hmark]
    by_cases hq : q = p
    · subst hq; cases s.path.dirty.get q <;> cases c q <;> simp
    · simp [hq]

/-! ## Ports, queue and gate -/

theorem setPort_only (s : State) (p : Fin 48) (x : Port) : Only [.ports] s (s.setPort p x) := .setPorts s _

theorem unrequest_only (s : State) (p : Fin 48) : Only [.gate] s (s.unrequest p) := .setGate s _

theorem request_only (s : State) (p : Fin 48) (k : ReqKind) : Only [.gate] s (s.request p k) := .setGate s _

theorem resolve_only (s : State) (i : Fin 4) (o : SlotOutcome) : Only [.sched] s (s.resolve i o) :=
  .setSched s _

theorem resolvePort_only (s : State) (p : Fin 48) (o : SlotOutcome) : Only [.sched] s (s.resolvePort p o) := by
  unfold State.resolvePort
  split
  · exact resolve_only ..
  · exact .refl s

theorem dequeue_marking (s : State) (p : Fin 48) : Marking [.sched, .path] s (s.dequeue p) :=
  (Only.setSched s _).marking.next (markPortIf_marking _ _ _)

theorem emptyQueue_marking (s : State) : Marking [.sched, .path] s s.emptyQueue := .fold _ dequeue_marking s

theorem endFeed_marking (s : State) (p : Fin 48) : Marking [.ports, .path] s (s.endFeed p) := by
  unfold State.endFeed
  dsimp only
  split
  · exact (setPort_only s p _).marking.next (markPort_marking _ _)
  · exact .refl s

theorem endWake_marking (s : State) (p : Fin 48) : Marking [.ports, .gate, .path] s (s.endWake p) := by
  unfold State.endWake
  dsimp only
  split
  · exact ((setPort_only s p _).next (n := [.ports, .gate]) (unrequest_only _ p)).marking.next
      (markPort_marking _ _)
  · exact .refl s

theorem endFeeds_marking (s : State) : Marking [.ports, .path] s s.endFeeds := .fold _ endFeed_marking s

theorem endWakes_marking (s : State) : Marking [.ports, .gate, .path] s s.endWakes :=
  .fold _ endWake_marking s

theorem askRetry_marking (s : State) (p : Fin 48) : Marking [.ports, .gate, .path] s (s.askRetry p) := by
  unfold State.askRetry
  split
  · exact ((setPort_only s p _).next (n := [.ports, .gate]) (request_only _ p _)).marking.mono
  · exact endWake_marking s p

theorem abandonRound_only (s : State) : Only [.sched] s s.abandonRound := by
  unfold State.abandonRound
  dsimp only
  split
  · exact ((Only.setSched s _).trans (.setSched _ _)).trans (.setSched _ _)
  · exact .setSched s _

theorem clearGate_only (s : State) : Only [.gate] s s.clearGate := .setGate s _

theorem stopAll_marking (s : State) : Marking [.ports, .gate, .sched, .path] s s.stopAll := by
  have h1 : Marking [.sched, .path] s s.emptyQueue.abandonRound :=
    (emptyQueue_marking s).next (abandonRound_only _).marking
  have h2 : Marking [.gate, .sched, .path] s s.emptyQueue.abandonRound.clearGate :=
    h1.next (clearGate_only _).marking
  have h3 : Marking [.ports, .gate, .sched, .path] s s.emptyQueue.abandonRound.clearGate.endFeeds :=
    h2.next (endFeeds_marking _)
  exact h3.next (endWakes_marking _)

/-! ## Rounds -/

theorem checkHead_only (s : State) : Only [.gate, .sched] s s.checkHead := by
  unfold State.checkHead
  split
  · exact .refl s
  · split
    · exact .refl s
    · split
      · exact .refl s
      · split
        · exact (unrequest_only s _).next (resolvePort_only _ _ _)
        · exact (Only.setGate s _).mono

theorem attach_marking (s : State) (p : Fin 48) (kind : TestKind) :
    Marking [.ports, .gate, .sched, .path] s (s.attach p kind) := by
  unfold State.attach
  dsimp only
  have left : ∀ x, Marking [.ports, .sched, .path] s (((s.setPort p x).markPort p).dequeue p) := fun x =>
    ((setPort_only s p x).marking.next (n := [.ports, .path]) (markPort_marking _ p)).next
      (dequeue_marking _ p)
  split
  · exact ((left _).next (n := [.ports, .gate, .sched, .path]) (unrequest_only _ p).marking).next
      (resolvePort_only _ _ _).marking
  · exact (left _).mono

theorem startTest_marking (s : State) (p : Fin 48) (kind : TestKind) (sup : Bool) (minutes : Nat)
    (rota : Option (Fin 16)) :
    Marking [.ports, .gate, .sched, .test, .path] s (s.startTest p kind sup minutes rota) := by
  unfold State.startTest
  dsimp only
  have attached : ∀ x : TestUnit,
      Marking [.ports, .gate, .sched, .test, .path] s { s.attach p kind with test := x } :=
    fun x => (attach_marking s p kind).next (Only.setTest _ x).marking
  split
  · exact (attached _).next (request_only _ _ _).marking
  · exact attached _

theorem issueSlot_marking (s : State) (i : Fin 4) (p : Fin 48) :
    Marking [.ports, .gate, .sched, .test, .path] s (s.issueSlot i p) := by
  have resolved : ∀ o, Marking [.ports, .gate, .sched, .test, .path] s (s.resolve i o) :=
    fun o => (resolve_only s i o).marking.mono
  unfold State.issueSlot
  dsimp only
  split
  · exact resolved _
  · split
    · split
      · split
        · exact (startTest_marking s p _ _ _ _).next (resolve_only _ _ _).marking
        · exact resolved _
      · exact resolved _
    · split
      · exact resolved _
      · split
        · exact resolved _
        · exact (request_only s p _).marking.next (checkHead_only _).marking

theorem issueSlots_marking (n : Nat) (s : State) :
    Marking [.ports, .gate, .sched, .test, .path] s (State.issueSlots n s) := by
  induction n generalizing s with
  | zero => exact .refl s
  | succ n ih =>
    unfold State.issueSlots
    split
    · exact .refl s
    · split
      · exact (resolve_only s _ _).marking.next (ih _)
      · split
        · exact .refl s
        · exact (issueSlot_marking s _ _).trans (ih _)

theorem finishRound_only (s : State) : Only [.sched] s s.finishRound := by
  unfold State.finishRound
  split
  · exact .setSched s _
  · exact .refl s

theorem issueOn_marking (s : State) : Marking [.ports, .gate, .sched, .test, .path] s s.issueOn := by
  unfold State.issueOn
  split
  · have h : Marking [.ports, .gate, .sched, .test, .path] s _ :=
      (checkHead_only s).marking.next (issueSlots_marking 9 _)
    exact h.next (finishRound_only _).marking
  · exact .refl s

/-! ## Phases -/

theorem setPhase_only (s : State) (x : Phase) : Only [.phase] s (s.setPhase x) := .setPhase s _

theorem narrowSlots_only (s : State) : Only [.gate, .sched] s s.narrowSlots := by
  unfold State.narrowSlots
  refine fold_keeps Only.refl Only.trans _ _ (fun x p => ?_) s
  split
  · refine Only.next (l := [.gate]) ?_ (resolvePort_only _ _ _)
    split
    · exact unrequest_only x p
    · exact .refl x
  · exact .refl x

theorem startTimer_only (s : State) : Only [.sched] s s.startTimer := .setSched s _

theorem entryTimer_only (s : State) : Only [.sched] s s.entryTimer := by
  unfold State.entryTimer
  split
  · exact .refl s
  · exact startTimer_only s

theorem startQ_only (s : State) : Only [.acct] s s.startQ := .setAcct s _

theorem lowerQ_only (s : State) : Only [.acct] s s.lowerQ := .setAcct s _

theorem loadRota_only (s : State) : Only [.test] s s.loadRota := .setTest s _

/-! ## The period end -/

theorem feedSeconds_only (s : State) : Only [.ports] s s.feedSeconds := .setPorts s _

theorem accountPorts_marking (s : State) : Marking [.ports, .path] s s.accountPorts := by
  unfold State.accountPorts
  dsimp only
  exact (Only.setPorts s _).marking.next (Marking.fold _ (fun x p => markPortIf_marking x _ p) _)

theorem accountQ_only (s : State) : Only [.acct] s s.accountQ := .setAcct s _

theorem accountLoad_only (s : State) : Only [.acct] s s.accountLoad := .setAcct s _

theorem reHold_only (s : State) : Only [.acct] s s.reHold := .setAcct s _

theorem outageTick_only (s : State) : Only [.phase] s s.outageTick := .setPhase s _

theorem ageChannels_marking (s : State) : Marking [.scan, .path] s s.ageChannels := by
  unfold State.ageChannels
  dsimp only
  exact (Only.setScan s _).marking.next (Marking.fold _ (fun x p => markPortIf_marking x _ p) _)

theorem rotaTick_only (s : State) : Only [.test] s s.rotaTick := by
  unfold State.rotaTick
  split
  · split <;> exact .setTest s _
  · exact .refl s

theorem placeDeferred_marking (s : State) (p : Fin 48) :
    Marking [.ports, .gate, .path] s (s.placeDeferred p) := by
  unfold State.placeDeferred
  split
  · exact askRetry_marking s p
  · exact .refl s

theorem placeAllDeferred_marking (s : State) : Marking [.ports, .gate, .path] s s.placeAllDeferred :=
  .fold _ placeDeferred_marking s

theorem notice_marking (s : State) (p : Fin 48) : Marking [.sched, .path] s (s.notice p) := by
  unfold State.notice
  dsimp only
  split
  · exact (Only.setSched s _).marking.next (markPortIf_marking _ _ _)
  · exact .refl s

theorem notices_marking (s : State) : Marking [.sched, .path] s s.notices :=
  .fold _ (fun x p => by split; exacts [notice_marking x p, .refl x]) s

theorem trigger_only (s : State) (source : TrigSource) : Only [.scan] s (s.trigger source) := .setScan s _

/-! ## Events -/

theorem raiseTagged_only (s : State) (kind : EventKind) (subject : Nat) (value : Int) (cause tag : Nat) :
    Only [.ev, .path] s (s.raiseTagged kind subject value cause tag) :=
  (Only.setPath s _).next (Only.setEv _ _)

theorem raise_only (s : State) (kind : EventKind) (subject : Nat) (value : Int) (cause : Nat) :
    Only [.ev, .path] s (s.raise kind subject value cause) := raiseTagged_only ..

theorem raiseTagged_queueAndMarks (s : State) (kind : EventKind) (subject : Nat) (value : Int)
    (cause tag : Nat) : QueueAndMarks s (s.raiseTagged kind subject value cause tag) := ⟨rfl, rfl⟩

theorem raise_queueAndMarks (s : State) (kind : EventKind) (subject : Nat) (value : Int) (cause : Nat) :
    QueueAndMarks s (s.raise kind subject value cause) :=
  raiseTagged_queueAndMarks ..

theorem raiseTagged_raised (s : State) (kind : EventKind) (subject : Nat) (value : Int) (cause tag : Nat) :
    Raised kind subject value cause tag s (s.raiseTagged kind subject value cause tag) := ⟨rfl, rfl⟩

theorem raise_raised (s : State) (kind : EventKind) (subject : Nat) (value : Int) (cause : Nat) :
    Raised kind subject value cause s.store.plan.tag s (s.raise kind subject value cause) := ⟨rfl, rfl⟩

theorem evalRule_only (s : State) (i : Fin 16) : Only [.ev, .path] s (s.evalRule i) := by
  unfold State.evalRule
  split
  · dsimp only
    split
    · exact (Only.setEv s _).next (raiseTagged_only ..)
    · exact (Only.setEv s _).mono
  · exact .refl s

theorem evalAlarms_only (s : State) : Only [.ev, .path] s s.evalAlarms :=
  fold_keeps Only.refl Only.trans _ _ evalRule_only s

/-- What R129 and R138 read of the state an event has been raised in. -/
structure SameRaise (s t : State) : Prop where
  ready : t.store.ready = s.store.ready
  tag : t.store.plan.tag = s.store.plan.tag
  inst : t.path.inst = s.path.inst
  phase : t.phase.phase = s.phase.phase
  clock : t.clock = s.clock

/-- A raised event told of other states: the entries before it and after it, and what R129 and R138 read, are the
same. -/
theorem Raised.congr {kind : EventKind} {subject : Nat} {value : Int} {cause tag : Nat} {s t s' t' : State}
    (h : Raised kind subject value cause tag s t) (hq : s'.path.ownq = s.path.ownq) (he : s'.ev = s.ev)
    (hq' : t'.path.ownq = t.path.ownq) (he' : t'.ev = t.ev) (same : SameRaise t t') :
    Raised kind subject value cause tag s' t' := by
  have halert : t'.alertLevel = t.alertLevel := alertLevel_congr same.ready same.inst (by rw [he']) (by rw [he'])
    (by rw [he']) (by rw [he'])
  unfold Raised
  rw [ringOpen_congr same.ready same.inst, entry_congr same.phase same.clock,
    entry_congr same.phase same.clock, same.tag, hq, he, hq', he', halert]
  exact h

/-- Two events, the second raised in the situation of the first. -/
theorem RaisedEach.of_two {k k' : EventKind} {sub sub' : Nat} {v v' : Int} {c c' g g' : Nat} {s mid t : State}
    (h : Raised k sub v c g s mid) (h' : Raised k' sub' v' c' g' mid t) (same : SameRaise mid t) :
    RaisedEach [(k, sub, v, c, g), (k', sub', v', c', g')] s t := by
  obtain ⟨hq, he⟩ := h
  obtain ⟨hq', he'⟩ := h'
  rw [← ringOpen_congr same.ready same.inst, ← entry_congr same.phase same.clock,
    ← entry_congr same.phase same.clock, ← same.tag] at hq he
  refine ⟨?_, ?_⟩
  · rw [hq', hq, he]; rfl
  · rw [he', hq, he]; rfl

theorem RaisedEach.of_one {k : EventKind} {sub : Nat} {v : Int} {c g : Nat} {s t : State}
    (h : Raised k sub v c g s t) : RaisedEach [(k, sub, v, c, g)] s t := h

end Sys2Proof.Machine
end

section
/-! PROOFS. A change of the plan in use carried to the blocks, and an applied bank switch: `carry` meets `PlanCarried`
and `applySwitch` meets `SwitchApplied` (R73, R92, R147 to R150). -/

namespace Sys2Proof.Machine
open Sys2Proof

theorem mem_allPorts (p : Fin 48) : p ∈ allPorts := List.mem_finRange p

/-! ## Ports taken out of the queue -/

theorem dequeue_sched (s : State) (p : Fin 48) :
    (s.dequeue p).sched = { s.sched with queue := s.sched.queue.filter fun e => e.port ≠ p } :=
  (markPortIf_marking _ _ _).sched

/-- A list of ports taken out of the queue leaves the entries of the other ports. -/
theorem dequeueAll_sched (l : List (Fin 48)) (s : State) :
    (l.foldl State.dequeue s).sched = { s.sched with queue := s.sched.queue.filter fun e => e.port ∉ l } := by
  induction l generalizing s with
  | nil => simp
  | cons p rest ih =>
    rw [List.foldl_cons, ih, dequeue_sched]
    simp only [List.filter_filter]
    congr 2
    funext e
    simp [Bool.and_comm]

theorem emptyQueue_sched (s : State) : s.emptyQueue.sched = { s.sched with queue := [] } := by
  have h := dequeueAll_sched (s.sched.queue.map (·.port)) s
  have empty : (s.sched.queue.filter fun e => e.port ∉ s.sched.queue.map (·.port)) = [] := by
    rw [List.filter_eq_nil_iff]
    intro e he
    simpa using ⟨e, he, rfl⟩
  rwa [empty] at h

theorem mem_purge_queue (s : State) (e : QueueEntry) :
    e ∈ s.purge.sched.queue ↔ e ∈ s.sched.queue ∧ s.purges e.port = false := by
  have h : s.purge.sched = _ := dequeueAll_sched _ s
  rw [h, List.mem_filter]
  refine and_congr_right fun he => ?_
  have hmem : e.port ∈ s.sched.queue.map (·.port) := List.mem_map_of_mem he
  simp [hmem]

theorem purge_sched (s : State) : s.purge.sched = { s.sched with queue := s.purge.sched.queue } := by
  have h : s.purge.sched = _ := dequeueAll_sched _ s
  rw [h]

/-! ## Queue order -/

/-- Queue order with ties of the same port allowed (R84). -/
def QueueEntry.Leads (x y : QueueEntry) : Prop :=
  y.key < x.key ∨ y.key = x.key ∧ x.port.val ≤ y.port.val

theorem mem_queueInsert (e d : QueueEntry) (l : List QueueEntry) : d ∈ queueInsert e l ↔ d = e ∨ d ∈ l := by
  induction l with
  | nil => simp [queueInsert]
  | cons x rest ih =>
    unfold queueInsert
    split
    · simp
    · simp only [List.mem_cons, ih]; tauto

theorem queueInsert_leads (e : QueueEntry) (l : List QueueEntry) (h : l.Pairwise QueueEntry.Leads) :
    (queueInsert e l).Pairwise QueueEntry.Leads := by
  induction l with
  | nil => simp [queueInsert]
  | cons x rest ih =>
    obtain ⟨hx, hrest⟩ := List.pairwise_cons.mp h
    unfold queueInsert
    split
    · rename_i hlt
      refine List.pairwise_cons.mpr ⟨fun d hd => ?_, h⟩
      rcases List.mem_cons.mp hd with rfl | hd
      · simp only [QueueEntry.Leads]; omega
      · have := hx d hd
        simp only [QueueEntry.Leads] at this ⊢; omega
    · rename_i hge
      refine List.pairwise_cons.mpr ⟨fun d hd => ?_, ih hrest⟩
      rcases (mem_queueInsert e d rest).mp hd with rfl | hd
      · simp only [QueueEntry.Leads]; omega
      · exact hx d hd

/-- The entry of a port with the urgency and the key of its record. -/
def State.refreshed (s : State) (e : QueueEntry) : QueueEntry :=
  { e with u := (s.port e.port).u, key := (s.port e.port).key }

theorem mem_foldl_queueInsert (f : QueueEntry → QueueEntry) (e : QueueEntry) (l acc : List QueueEntry) :
    e ∈ l.foldl (fun q d => queueInsert (f d) q) acc ↔ (∃ d ∈ l, e = f d) ∨ e ∈ acc := by
  induction l generalizing acc with
  | nil => simp
  | cons x rest ih =>
    simp only [List.foldl_cons, ih, mem_queueInsert, List.mem_cons, exists_eq_or_imp]
    rw [or_left_comm, or_assoc]

theorem foldl_queueInsert_leads (f : QueueEntry → QueueEntry) (l acc : List QueueEntry)
    (h : acc.Pairwise QueueEntry.Leads) :
    (l.foldl (fun q d => queueInsert (f d) q) acc).Pairwise QueueEntry.Leads := by
  induction l generalizing acc with
  | nil => exact h
  | cons x rest ih => exact ih _ (queueInsert_leads _ _ h)

theorem mem_reorder_queue (s : State) (e : QueueEntry) :
    e ∈ s.reorder.sched.queue ↔ ∃ d ∈ s.sched.queue, e = s.refreshed d :=
  (mem_foldl_queueInsert s.refreshed e s.sched.queue []).trans (by simp)

theorem reorder_leads (s : State) : s.reorder.sched.queue.Pairwise QueueEntry.Leads :=
  foldl_queueInsert_leads s.refreshed _ [] .nil

/-! ## Records of ports -/

/-- A port's record after a feed end (R27). -/
def Port.feedEnded (x : Port) : Port :=
  if x.action = .feeding then { x with action := .idle, switch := false, absence := none, fed := false } else x

/-- A port's record after the end of a wake (R30, R31). -/
def Port.wakeEnded (x : Port) : Port :=
  if x.action = .waking then { x.clearTimers with action := .idle, switch := false } else x

theorem endFeed_port (s : State) (p q : Fin 48) :
    (s.endFeed p).port q = if q = p then (s.port q).feedEnded else s.port q := by
  unfold State.endFeed Port.feedEnded
  by_cases h : q = p
  · subst h; dsimp only; split <;> simp [*]
  · dsimp only; split <;> simp [*]

theorem endWake_port (s : State) (p q : Fin 48) :
    (s.endWake p).port q = if q = p then (s.port q).wakeEnded else s.port q := by
  unfold State.endWake Port.wakeEnded
  have keep : ∀ (x : State) (r : Fin 48), (x.unrequest r).port q = x.port q := fun _ _ => rfl
  by_cases h : q = p
  · subst h; dsimp only; split <;> simp [*]
  · dsimp only; split <;> simp [*]

/-- A fold that changes each port of a list by itself, always in the same way, while a property of the state holds. -/
theorem foldl_port {f : State → Fin 48 → State} {g : Fin 48 → Port → Port} {R : State → Prop}
    (keeps : ∀ s p, R s → R (f s p))
    (acts : ∀ s p q, R s → (f s p).port q = if q = p then g q (s.port q) else s.port q)
    (idem : ∀ q x, g q (g q x) = g q x) (l : List (Fin 48)) (s : State) (hs : R s) (q : Fin 48) :
    (l.foldl f s).port q = if q ∈ l then g q (s.port q) else s.port q := by
  induction l generalizing s with
  | nil => simp
  | cons p rest ih =>
    rw [List.foldl_cons, ih _ (keeps s p hs), acts s p q hs]
    by_cases hq : q = p
    · subst hq; simp [idem]
    · simp [hq]

theorem feedEnded_idem (x : Port) : x.feedEnded.feedEnded = x.feedEnded := by
  unfold Port.feedEnded; split <;> simp_all

theorem wakeEnded_idem (x : Port) : x.wakeEnded.wakeEnded = x.wakeEnded := by
  unfold Port.wakeEnded; split <;> simp_all

/-- The trip limit of a populated port's record (R28). -/
def Port.withLimit (limit : Nat) (x : Port) : Port := if x.action = .off then x else { x with limit := limit }

theorem loadLimits_port (s : State) (q : Fin 48) :
    s.loadLimits.port q = (s.port q).withLimit (s.policy q).trip := by
  have h := foldl_port (R := fun x => x.store = s.store)
    (f := fun s p => if (s.port p).action = .off then s else s.loadLimit p)
    (g := fun q => Port.withLimit (s.policy q).trip)
    (fun x p hx => by split <;> exact hx)
    (fun x p q hx => by
      dsimp only [Port.withLimit, State.loadLimit]
      by_cases hq : q = p
      · subst hq; split <;> simp [policy_congr hx]
      · split <;> simp [hq])
    (fun q x => by unfold Port.withLimit; split <;> simp_all) allPorts s rfl q
  rwa [if_pos (mem_allPorts q)] at h

theorem replanPorts_port (s : State) (p : Fin 48) : s.replanPorts.port p = (s.port p).replan (s.policy p) := by
  unfold State.replanPorts
  dsimp only
  rw [(Marking.fold _ (fun x p => markPortIf_marking x _ p) _).port p]
  exact Tab.get_ofFn ..

/-! ## Feeds ended down to the feed limit (R92) -/

/-- The ports' records as a list in port order. -/
theorem ports_list (s : State) : s.ports.val = allPorts.map s.port := by
  refine List.ext_getElem (by simp [allPorts, s.ports.property]) fun i h1 h2 => ?_
  simp [allPorts, State.port, Tab.get]

/-- The feeding count counts the ports that feed (R87). -/
theorem feedingCount_eq_card (s : State) :
    s.feedingCount = (Finset.univ.filter fun p => (s.port p).action = .feeding).card := by
  unfold State.feedingCount State.countPorts
  rw [ports_list, List.countP_map, List.countP_eq_length_filter]
  rfl

/-- `best` is the port of a list that a feed end takes first: of the FEEDING ones the lowest key, of equal keys the
higher port (R94); none if no port of the list feeds. -/
def State.LowestOf (s : State) (l : List (Fin 48)) (best : Option (Fin 48)) : Prop :=
  match best with
  | none => ∀ q ∈ l, (s.port q).action ≠ .feeding
  | some p => p ∈ l ∧ (s.port p).action = .feeding ∧ ∀ q ∈ l, (s.port q).action = .feeding →
      (s.port p).key < (s.port q).key ∨ (s.port p).key = (s.port q).key ∧ q.val ≤ p.val

theorem lowestFeed_spec (s : State) : s.LowestOf allPorts s.lowestFeed := by
  have sorted : allPorts.Pairwise (· < ·) := List.pairwise_lt_finRange 48
  unfold State.lowestFeed
  generalize allPorts = l at sorted ⊢
  induction l using List.reverseRecOn with
  | nil => simp [State.LowestOf]
  | append_singleton l p ih =>
    obtain ⟨hl, -, hlt⟩ := List.pairwise_append.mp sorted
    have ih := ih hl
    have above : ∀ q ∈ l, q.val < p.val := fun q hq => hlt q hq p (by simp)
    rw [List.foldl_concat]
    generalize l.foldl _ none = best at ih ⊢
    by_cases hp : (s.port p).action = .feeding
    · rw [if_pos hp]
      cases best with
      | none =>
        refine ⟨by simp, hp, fun q hq hf => ?_⟩
        rcases List.mem_append.mp hq with hq | hq
        · exact absurd hf (ih q hq)
        · obtain rfl := List.mem_singleton.mp hq; omega
      | some b =>
        obtain ⟨hb, hbf, hlow⟩ := ih
        dsimp only
        split
        · rename_i hkey
          refine ⟨by simp, hp, fun q hq hf => ?_⟩
          rcases List.mem_append.mp hq with hq | hq
          · have := hlow q hq hf
            have := above q hq
            omega
          · obtain rfl := List.mem_singleton.mp hq; omega
        · rename_i hkey
          refine ⟨by simp [hb], hbf, fun q hq hf => ?_⟩
          rcases List.mem_append.mp hq with hq | hq
          · exact hlow q hq hf
          · obtain rfl := List.mem_singleton.mp hq; omega
    · rw [if_neg hp]
      cases best with
      | none =>
        intro q hq
        rcases List.mem_append.mp hq with hq | hq
        · exact ih q hq
        · obtain rfl := List.mem_singleton.mp hq; exact hp
      | some b =>
        obtain ⟨hb, hbf, hlow⟩ := ih
        refine ⟨by simp [hb], hbf, fun q hq hf => ?_⟩
        rcases List.mem_append.mp hq with hq | hq
        · exact hlow q hq hf
        · obtain rfl := List.mem_singleton.mp hq; exact absurd hf hp

theorem feedEnded_of_feeding {x : Port} (h : x.action = .feeding) :
    x.feedEnded = { x with action := .idle, switch := false, absence := none, fed := false } := by
  unfold Port.feedEnded; rw [if_pos h]

theorem feedEnded_key (x : Port) : x.feedEnded.key = x.key := by unfold Port.feedEnded; split <;> rfl

theorem feedEnded_action_ne (x : Port) : x.feedEnded.action ≠ .feeding := by
  unfold Port.feedEnded
  split
  · nofun
  · assumption

/-- One feed ended lowers the feeding count by one. -/
theorem feedingCount_endFeed {s : State} {p : Fin 48} (h : (s.port p).action = .feeding) :
    (s.endFeed p).feedingCount + 1 = s.feedingCount := by
  rw [feedingCount_eq_card, feedingCount_eq_card]
  have erase : (Finset.univ.filter fun q => ((s.endFeed p).port q).action = .feeding) =
      (Finset.univ.filter fun q => (s.port q).action = .feeding).erase p := by
    ext q
    by_cases hq : q = p
    · subst hq; simp [endFeed_port, feedEnded_action_ne]
    · simp [endFeed_port, hq]
  rw [erase]
  exact Finset.card_erase_add_one (by simp [h])

/-- Feeds have been ended one at a time, always the lowest, while the count stood above the feed limit, at most `n` of
them (R92, R94). -/
structure Trimmed (n : Nat) (s t : State) : Prop where
  port : ∀ p, t.port p = s.port p ∨ (s.port p).action = .feeding ∧ t.port p = (s.port p).feedEnded
  lowest : ∀ p q, (s.port p).action = .feeding → (t.port p).action ≠ .feeding → (t.port q).action = .feeding →
    (s.port p).key < (s.port q).key ∨ (s.port p).key = (s.port q).key ∧ q.val < p.val
  count : s.feedingCount ≤ n + s.header.feedLimit → t.feedingCount = min s.feedingCount s.header.feedLimit

theorem Trimmed.none {n : Nat} {s : State} (h : s.feedingCount ≤ s.header.feedLimit) : Trimmed n s s where
  port _ := .inl rfl
  lowest p _ hp hn := absurd hp hn
  count _ := by omega

/-- The lowest feed ended before the others. -/
theorem Trimmed.after_lowest {n : Nat} {s t : State} {p : Fin 48} (hp : (s.port p).action = .feeding)
    (hlow : ∀ q, (s.port q).action = .feeding →
      (s.port p).key < (s.port q).key ∨ (s.port p).key = (s.port q).key ∧ q.val ≤ p.val)
    (hlim : s.header.feedLimit < s.feedingCount) (h : Trimmed n (s.endFeed p) t) : Trimmed (n + 1) s t := by
  have other : ∀ q, q ≠ p → (s.endFeed p).port q = s.port q := fun q hq => by rw [endFeed_port, if_neg hq]
  have ended : (s.endFeed p).port p = (s.port p).feedEnded := by rw [endFeed_port, if_pos rfl]
  have key : ∀ q, ((s.endFeed p).port q).key = (s.port q).key := fun q => by
    rw [endFeed_port]; split
    · exact feedEnded_key _
    · rfl
  have feeds : ∀ q, (t.port q).action = .feeding → q ≠ p ∧ (s.port q).action = .feeding := by
    intro q hq
    have hmid : ((s.endFeed p).port q).action = .feeding := by
      rcases h.port q with e | ⟨hf, -⟩
      · rwa [e] at hq
      · exact hf
    have hne : q ≠ p := by rintro rfl; exact feedEnded_action_ne _ (ended ▸ hmid)
    exact ⟨hne, other q hne ▸ hmid⟩
  refine ⟨fun q => ?_, fun a q ha hna hq => ?_, fun hc => ?_⟩
  · by_cases hq : q = p
    · subst hq
      rcases h.port q with e | ⟨hf, -⟩
      · exact .inr ⟨hp, e.trans ended⟩
      · exact absurd hf (ended ▸ feedEnded_action_ne _)
    · rw [← other q hq]; exact h.port q
  · obtain ⟨hne, hf⟩ := feeds q hq
    by_cases hap : a = p
    · subst hap
      have := hlow q hf
      have : q.val ≠ a.val := fun e => hne (Fin.ext e)
      omega
    · have := h.lowest a q (by rwa [other a hap]) hna hq
      rwa [key, key] at this
  · have hcount := feedingCount_endFeed hp
    have hhead : (s.endFeed p).header = s.header := header_congr (endFeed_marking s p).store
    have := h.count (by rw [hhead]; omega)
    rw [this, hhead]; omega

theorem trimFeeds_trimmed (n : Nat) (s : State) : Trimmed n s (State.trimFeeds n s) := by
  induction n generalizing s with
  | zero => exact ⟨fun _ => .inl rfl, fun p _ hp hn => absurd hp hn, fun h => by unfold State.trimFeeds; omega⟩
  | succ n ih =>
    unfold State.trimFeeds
    split
    · rename_i hlim
      have spec := lowestFeed_spec s
      unfold State.endLowestFeed
      cases hb : s.lowestFeed with
      | none =>
        rw [hb] at spec
        have zero : s.feedingCount = 0 := by
          rw [feedingCount_eq_card, Finset.card_eq_zero, Finset.filter_eq_empty_iff]
          exact fun q _ => spec q (mem_allPorts q)
        omega
      | some p =>
        rw [hb] at spec
        obtain ⟨-, hp, hlow⟩ := spec
        exact (ih _).after_lowest hp (fun q => hlow q (mem_allPorts q)) hlim
    · exact .none (by omega)

theorem feedingCount_le (s : State) : s.feedingCount ≤ 48 := by
  rw [feedingCount_eq_card]; exact (Finset.card_filter_le _ _).trans (by simp)

/-! ## Frames of the steps of a plan change -/

theorem replanPorts_marking (s : State) : Marking [.ports, .path] s s.replanPorts := by
  unfold State.replanPorts
  dsimp only
  exact (Only.setPorts s _).marking.next (Marking.fold _ (fun x p => markPortIf_marking x _ p) _)

theorem purge_marking (s : State) : Marking [.sched, .path] s s.purge := .fold _ dequeue_marking s

theorem reorder_only (s : State) : Only [.sched] s s.reorder := .setSched s _

theorem endLowestFeed_marking (s : State) : Marking [.ports, .path] s s.endLowestFeed := by
  unfold State.endLowestFeed
  split
  · exact endFeed_marking s _
  · exact .refl s

theorem trimFeeds_marking (n : Nat) (s : State) : Marking [.ports, .path] s (State.trimFeeds n s) := by
  induction n generalizing s with
  | zero => exact .refl s
  | succ n ih =>
    unfold State.trimFeeds
    split
    · exact (endLowestFeed_marking s).trans (ih _)
    · exact .refl s

theorem loadLimits_only (s : State) : Only [.ports] s s.loadLimits :=
  fold_keeps Only.refl Only.trans _ _
    (fun s p => by split; exacts [.refl s, setPort_only s p _]) s

theorem scanPlan_only (s : State) (old : PlanUse) : Only [.scan] s (s.scanPlan old) := .setScan s _

theorem adjustRota_only (s : State) : Only [.test] s s.adjustRota := .setTest s _

theorem clearEdges_only (s : State) : Only [.ev] s s.clearEdges := .setEv s _

/-- The ports and the scheduler under the new plan: the steps of `carry` up to the trip limits. -/
def State.carriedPorts (s : State) : State := (State.trimFeeds 48 s.replanPorts.purge.reorder).loadLimits

/-- The steps of `carry` after the ports. -/
def State.carryTail (s : State) (old : PlanUse) : State := ((s.scanPlan old).adjustRota.clearEdges).reHold

theorem carry_eq (s : State) (old : PlanUse) : s.carry old = s.carriedPorts.carryTail old := rfl

theorem carriedPorts_marking (s : State) : Marking [.ports, .sched, .path] s s.carriedPorts := by
  have h1 : Marking [.ports, .sched, .path] s s.replanPorts.purge :=
    (replanPorts_marking s).next (purge_marking _)
  have h2 : Marking [.ports, .sched, .path] s s.replanPorts.purge.reorder := h1.next (reorder_only _).marking
  have h3 : Marking [.ports, .sched, .path] s (State.trimFeeds 48 s.replanPorts.purge.reorder) :=
    h2.next (trimFeeds_marking 48 _)
  exact h3.next (loadLimits_only _).marking

theorem carryTail_only (s : State) (old : PlanUse) : Only [.scan, .acct, .test, .ev] s (s.carryTail old) := by
  have h1 : Only [.scan, .test] s (s.scanPlan old).adjustRota := (scanPlan_only s old).next (adjustRota_only _)
  have h2 : Only [.scan, .test, .ev] s (s.scanPlan old).adjustRota.clearEdges := h1.next (clearEdges_only _)
  exact h2.next (reHold_only _)

theorem carry_marking (s : State) (old : PlanUse) :
    Marking [.ports, .scan, .acct, .sched, .test, .ev, .path] s (s.carry old) :=
  (carriedPorts_marking s).next (carryTail_only _ old).marking

theorem carryTail_ev (s : State) (old : PlanUse) :
    (s.carryTail old).ev = { s.ev with edges := Tab.fill 16 false } := rfl

theorem carry_ev (s : State) (old : PlanUse) : (s.carry old).ev = { s.ev with edges := Tab.fill 16 false } := by
  rw [carry_eq, carryTail_ev, (carriedPorts_marking s).ev]

/-! ## The plan carried -/

theorem withLimit_of_ne_off {x : Port} (h : x.action ≠ .off) (limit : Nat) :
    x.withLimit limit = { x with limit := limit } := by unfold Port.withLimit; rw [if_neg h]

theorem withLimit_of_off {x : Port} (h : x.action = .off) (limit : Nat) : x.withLimit limit = x := by
  unfold Port.withLimit; rw [if_pos h]

theorem replan_of_off {x : Port} (h : x.action = .off) (pol : Policy) : x.replan pol = x := by
  unfold Port.replan; rw [if_pos h]

theorem replan_of_ne_off {x : Port} (h : x.action ≠ .off) (pol : Policy) :
    x.replan pol = Port.reckon { x with deficit := min pol.cap x.deficit, cap := pol.cap } pol := by
  unfold Port.replan; rw [if_neg h]

theorem replan_action (x : Port) (pol : Policy) : (x.replan pol).action = x.action := by
  unfold Port.replan; split <;> rfl

theorem withLimit_action (x : Port) (limit : Nat) : (x.withLimit limit).action = x.action := by
  unfold Port.withLimit; split <;> rfl

theorem withLimit_key (x : Port) (limit : Nat) : (x.withLimit limit).key = x.key := by
  unfold Port.withLimit; split <;> rfl

theorem withLimit_u (x : Port) (limit : Nat) : (x.withLimit limit).u = x.u := by
  unfold Port.withLimit; split <;> rfl

theorem feedEnded_u (x : Port) : x.feedEnded.u = x.u := by unfold Port.feedEnded; split <;> rfl

end Sys2Proof.Machine
end

section
/-! PROOFS. `carry` meets `PlanCarried`, and `applySwitch` meets `SwitchApplied` (R73, R92, R147 to R150). -/

namespace Sys2Proof.Machine
open Sys2Proof

/-! ## The fields of a carried plan -/

theorem condition_congr {s t : State} (hs : t.store = s.store) (hp : t.phase = s.phase)
    (ht : t.scan.thermal = s.scan.thermal) (p : Fin 48) : t.condition p = s.condition p := by
  have flag : ∀ c, t.condFlag c = s.condFlag c := fun c => by
    unfold State.condFlag; rw [ht, hp, header_congr hs]
  unfold State.condition
  rw [flag, policy_congr hs]

theorem feedingCount_congr {s t : State} (h : ∀ p, (t.port p).action = (s.port p).action) :
    t.feedingCount = s.feedingCount := by
  simp only [feedingCount_eq_card, h]

/-- The ports before feeds are ended: every record under the new policy. -/
def State.replanned (s : State) : State := s.replanPorts.purge.reorder

/-- The ports with the excess feeds ended. -/
def State.trimmedFeeds (s : State) : State := State.trimFeeds 48 s.replanned

theorem replanned_marking (s : State) : Marking [.ports, .sched, .path] s s.replanned :=
  ((replanPorts_marking s).next (n := [.ports, .sched, .path]) (purge_marking _)).next (reorder_only _).marking

theorem trimmedFeeds_marking (s : State) : Marking [.ports, .sched, .path] s s.trimmedFeeds :=
  (replanned_marking s).next (trimFeeds_marking 48 _)

theorem replanned_port (s : State) (p : Fin 48) : s.replanned.port p = (s.port p).replan (s.policy p) := by
  unfold State.replanned
  rw [(reorder_only _).port p, (purge_marking _).port p, replanPorts_port]

theorem trimmedFeeds_port (s : State) (p : Fin 48) :
    let x := (s.port p).replan (s.policy p)
    s.trimmedFeeds.port p = x ∨ x.action = .feeding ∧ s.trimmedFeeds.port p = x.feedEnded := by
  have h := (trimFeeds_trimmed 48 s.replanned).port p
  rwa [replanned_port] at h

theorem carry_port (s : State) (old : PlanUse) (p : Fin 48) :
    (s.carry old).port p = (s.trimmedFeeds.port p).withLimit (s.policy p).trip := by
  rw [carry_eq, (carryTail_only _ old).port p]
  show s.trimmedFeeds.loadLimits.port p = _
  rw [loadLimits_port, policy_congr (trimmedFeeds_marking s).store]

theorem carry_action (s : State) (old : PlanUse) (p : Fin 48) :
    ((s.carry old).port p).action = (s.trimmedFeeds.port p).action := by
  rw [carry_port, withLimit_action]

theorem carry_u (s : State) (old : PlanUse) (p : Fin 48) :
    ((s.carry old).port p).u = ((s.port p).replan (s.policy p)).u := by
  rw [carry_port, withLimit_u]
  rcases trimmedFeeds_port s p with e | ⟨-, e⟩
  · rw [e]
  · rw [e, feedEnded_u]

theorem carry_key (s : State) (old : PlanUse) (p : Fin 48) :
    ((s.carry old).port p).key = ((s.port p).replan (s.policy p)).key := by
  rw [carry_port, withLimit_key]
  rcases trimmedFeeds_port s p with e | ⟨-, e⟩
  · rw [e]
  · rw [e, feedEnded_key]

theorem carry_sched (s : State) (old : PlanUse) : (s.carry old).sched = s.replanned.sched := by
  rw [carry_eq, (carryTail_only _ old).sched]
  show s.trimmedFeeds.loadLimits.sched = _
  rw [(loadLimits_only _).sched, State.trimmedFeeds, (trimFeeds_marking 48 _).sched]

/-- The scheduler changes in its queue alone (R92). -/
theorem replanned_sched (s : State) : s.replanned.sched = { s.sched with queue := s.replanned.sched.queue } := by
  have h : s.replanned.sched = { s.replanPorts.purge.sched with queue := s.replanned.sched.queue } := rfl
  rw [h, purge_sched, (replanPorts_marking s).sched]

/-- An entry stays with the recomputed U and key of its port where the purge finds nothing against it (R92). -/
theorem mem_replanned_queue (s : State) (e : QueueEntry) :
    e ∈ s.replanned.sched.queue ↔ ∃ d ∈ s.sched.queue, s.replanPorts.purges d.port = false ∧
      e = s.replanPorts.refreshed d := by
  have fresh : ∀ d, s.replanPorts.purge.refreshed d = s.replanPorts.refreshed d := fun d => by
    unfold State.refreshed; rw [(purge_marking _).port]
  unfold State.replanned
  simp only [mem_reorder_queue, mem_purge_queue, fresh, (replanPorts_marking s).sched]
  exact ⟨fun ⟨d, ⟨hd, hp⟩, he⟩ => ⟨d, hd, hp, he⟩, fun ⟨d, hd, hp, he⟩ => ⟨d, ⟨hd, hp⟩, he⟩⟩

theorem carry_scan (s : State) (old : PlanUse) : (s.carry old).scan = (s.carriedPorts.scanPlan old).scan := by
  rw [carry_eq]
  generalize s.carriedPorts = x
  rfl

theorem scanPlan_thermal (s : State) (old : PlanUse) : (s.scanPlan old).scan.thermal = s.scan.thermal := by
  unfold State.scanPlan
  dsimp only
  split
  · rfl
  · split <;> rfl

theorem carry_thermal (s : State) (old : PlanUse) : (s.carry old).scan.thermal = s.scan.thermal := by
  rw [carry_scan, scanPlan_thermal, (carriedPorts_marking s).scan]

/-- The rota counters under a new rota (R119). -/
theorem adjustRota_counters (s : State) (i : Fin 16) : s.adjustRota.test.counters.get i =
    if s.header.rotaN ≤ i.val then s.test.counters.get i
    else if s.test.rotaN ≤ i.val then (s.store.plan.rota i).interval
    else min (s.test.counters.get i) (s.store.plan.rota i).interval := by
  unfold State.adjustRota
  simp only [Tab.get_ofFn]
  by_cases hi : i.val < s.header.rotaN
  · simp only [if_pos hi, if_neg (Nat.not_le.mpr hi)]
  · simp only [if_neg hi, if_pos (Nat.not_lt.mp hi)]

theorem carryTail_counters (s : State) (old : PlanUse) (i : Fin 16) : (s.carryTail old).test.counters.get i =
    if s.header.rotaN ≤ i.val then s.test.counters.get i
    else if s.test.rotaN ≤ i.val then (s.store.plan.rota i).interval
    else min (s.test.counters.get i) (s.store.plan.rota i).interval := adjustRota_counters (s.scanPlan old) i

theorem carry_counters (s : State) (old : PlanUse) (i : Fin 16) : (s.carry old).test.counters.get i =
    if s.header.rotaN ≤ i.val then s.test.counters.get i
    else if s.test.rotaN ≤ i.val then (s.store.plan.rota i).interval
    else min (s.test.counters.get i) (s.store.plan.rota i).interval := by
  rw [carry_eq, carryTail_counters, header_congr (carriedPorts_marking s).store, (carriedPorts_marking s).store,
    (carriedPorts_marking s).test]

theorem carryTail_test (s : State) (old : PlanUse) : (s.carryTail old).test =
    { s.test with counters := (s.carryTail old).test.counters, rotaN := s.header.rotaN } := rfl

theorem carry_test (s : State) (old : PlanUse) :
    (s.carry old).test = { s.test with counters := (s.carry old).test.counters, rotaN := s.header.rotaN } := by
  have h := carryTail_test s.carriedPorts old
  rw [carry_eq]
  rwa [header_congr (carriedPorts_marking s).store, (carriedPorts_marking s).test] at h

theorem carryTail_acct (s : State) (old : PlanUse) :
    (s.carryTail old).acct = { s.acct with hold := (s.carryTail old).holdNow } := rfl

theorem carry_acct (s : State) (old : PlanUse) :
    (s.carry old).acct = { s.acct with hold := (s.carry old).holdNow } := by
  have h := carryTail_acct s.carriedPorts old
  rw [carry_eq]
  rwa [(carriedPorts_marking s).acct] at h

/-- The marks of changed records (R43, R73). -/
theorem replanPorts_dirty {s : State} {p : Fin 48} (hoff : (s.port p).action ≠ .off) (hm : s.canMark = true)
    (h : ((s.port p).replan (s.policy p)).u ≠ (s.port p).u ∨ ((s.port p).replan (s.policy p)).key ≠ (s.port p).key ∨
      (s.policy p).cap ≠ (s.port p).cap) : s.replanPorts.path.dirty.get p = true := by
  have hcap : ((s.port p).replan (s.policy p)).cap = (s.policy p).cap := by rw [replan_of_ne_off hoff]; rfl
  rw [← hcap] at h
  unfold State.replanPorts
  dsimp only
  rw [fold_markPortIf_dirty]
  have hm' : State.canMark { s with ports := Tab.ofFn fun p => (s.port p).replan (s.policy p) } = true := hm
  simp only [mem_allPorts, Tab.get_ofFn, hm', decide_true, Bool.and_true, Bool.or_eq_true, Bool.and_eq_true,
    bne_iff_ne, Bool.true_and]
  exact .inr ⟨hoff, by tauto⟩

/-- R149: `carry` takes the plan in use of `v` to every block. `s` is the state before the plan was replaced, which
`v` shares but for the plan store, the events and the marks. -/
theorem carry_carried {s v : State} (hports : v.ports = s.ports) (hsched : v.sched = s.sched)
    (hscan : v.scan = s.scan) (htest : v.test = s.test) (hacct : v.acct = s.acct)
    (hready : v.store.ready = s.store.ready) (hinst : v.path.inst = s.path.inst) :
    PlanCarried s (v.carry s.store.plan) := by
  have mk := carry_marking v s.store.plan
  have port : ∀ p, v.port p = s.port p := fun p => congrArg (Tab.get · p) hports
  have policy : ∀ p, (v.carry s.store.plan).policy p = v.policy p := policy_congr mk.store
  have header : (v.carry s.store.plan).header = v.header := header_congr mk.store
  have unoff : ∀ p, (s.port p).action ≠ .off → (v.port p).action ≠ .off := fun p h => by rwa [port]
  have trimmed : ∀ p, (s.port p).action ≠ .off → (v.trimmedFeeds.port p).action ≠ .off := by
    intro p h
    rcases trimmedFeeds_port v p with e | ⟨hf, e⟩
    · rw [e, replan_action, port]; exact h
    · rw [e, feedEnded_of_feeding hf]; nofun
  refine ⟨fun p h => ?charge, fun p h => ?kept, fun p h => ?off, fun p h hm hc => ?marks, ?feeds,
    fun p q hp hn hq => ?lowest, fun e => ?queue, ?order, ?sched, fun hplan => ?scan, fun i => ?counters, ?test,
    fun i => ?edges, ?acct⟩
  case charge =>
    have hrec := replan_of_ne_off (unoff p h) (v.policy p)
    have hlim := withLimit_of_ne_off (trimmed p h) (v.policy p).trip
    have hdef : (v.trimmedFeeds.port p).deficit = ((v.port p).replan (v.policy p)).deficit := by
      rcases trimmedFeeds_port v p with e | ⟨hf, e⟩
      · rw [e]
      · rw [e, feedEnded_of_feeding hf]
    rw [carry_u, carry_key, policy, carry_port, hlim]
    dsimp only
    rw [hdef, hrec, port]
    exact ⟨rfl, rfl, rfl, rfl⟩
  case kept =>
    have hrec := replan_of_ne_off (unoff p h) (v.policy p)
    have hlim := withLimit_of_ne_off (trimmed p h) (v.policy p).trip
    rw [port] at hrec
    rw [policy, carry_port, hlim]
    rcases trimmedFeeds_port v p with e | ⟨hf, e⟩
    · left; rw [e, port, hrec]; rfl
    · right
      rw [replan_action, port] at hf
      refine ⟨hf, ?_⟩
      rw [e, port, feedEnded_of_feeding (by rw [replan_action]; exact hf), hrec]
      rfl
  case off =>
    have hv : (v.port p).action = .off := by rw [port]; exact h
    rw [carry_port]
    rcases trimmedFeeds_port v p with e | ⟨hf, -⟩
    · rw [e, replan_of_off hv, withLimit_of_off hv, port]
    · rw [replan_action, hv] at hf; cases hf
  case marks =>
    rw [carry_u, carry_key, policy, ← port] at hc
    have hmark := replanPorts_dirty (unoff p h) (by rw [canMark_congr hready hinst]; exact hm) hc
    have later : Marking [.ports, .scan, .acct, .sched, .test, .ev, .path] v.replanPorts (v.carry s.store.plan) := by
      have h1 : Marking [.sched, .path] v.replanPorts v.replanned := (purge_marking _).next (reorder_only _).marking
      have h2 : Marking [.ports, .sched, .path] v.replanPorts v.trimmedFeeds := h1.next (trimFeeds_marking 48 _)
      have h3 : Marking [.ports, .sched, .path] v.replanPorts v.carriedPorts := h2.next (loadLimits_only _).marking
      exact h3.next (carryTail_only _ _).marking
    exact later.dirty p hmark
  case feeds =>
    have hs : v.replanned.feedingCount = s.feedingCount :=
      feedingCount_congr fun p => by rw [replanned_port, replan_action, port]
    have ht : (v.carry s.store.plan).feedingCount = v.trimmedFeeds.feedingCount :=
      feedingCount_congr fun p => carry_action v _ p
    have hcount := (trimFeeds_trimmed 48 v.replanned).count (by have := feedingCount_le v.replanned; omega)
    rw [header_congr (replanned_marking v).store, hs] at hcount
    rw [ht, header]
    exact hcount
  case lowest =>
    rw [carry_action] at hn hq
    have h := (trimFeeds_trimmed 48 v.replanned).lowest p q (by rw [replanned_port, replan_action, port]; exact hp)
      hn hq
    rw [replanned_port, replanned_port] at h
    rwa [carry_key, carry_key]
  case queue =>
    have replan := replanPorts_marking v
    have hport : ∀ p, v.replanPorts.port p = (v.port p).replan (v.policy p) := replanPorts_port v
    have hperm : ∀ p, v.replanPorts.permitted p = (v.carry s.store.plan).permitted p := fun p =>
      permitted_congr (replan.store.trans mk.store.symm) (by rw [replan.phase, mk.phase]) p
    have hcond : ∀ p, v.replanPorts.condition p = (v.carry s.store.plan).condition p := fun p =>
      condition_congr (replan.store.trans mk.store.symm) (replan.phase.trans mk.phase.symm)
        (by rw [carry_thermal, replan.scan]) p
    have purges : ∀ p, v.replanPorts.purges p = false ↔
        (v.policy p).join ≤ ((v.port p).replan (v.policy p)).u ∧ (v.carry s.store.plan).permitted p = true ∧
          (v.carry s.store.plan).condition p = true := fun p => by
      unfold State.purges
      rw [hport, policy_congr replan.store, hperm, hcond]
      simp [and_assoc]
    rw [carry_sched, mem_replanned_queue, hsched, carry_u, carry_key, policy]
    constructor
    · rintro ⟨d, hd, hp, rfl⟩
      have hpp := (purges d.port).mp hp
      have hu : (v.replanPorts.refreshed d).u = ((v.port d.port).replan (v.policy d.port)).u :=
        congrArg Port.u (hport d.port)
      exact ⟨⟨d, hd, rfl⟩, hu, congrArg Port.key (hport d.port), hu ▸ hpp.1, hpp.2⟩
    · rintro ⟨⟨d, hd, hde⟩, hu, hk, hj, hpc⟩
      refine ⟨d, hd, (purges d.port).mpr (by rw [hde]; exact ⟨hu ▸ hj, hpc⟩), ?_⟩
      cases e
      simp only [State.refreshed, hport] at *
      rw [hde, hu, hk]
  case order =>
    rw [carry_sched]
    exact reorder_leads _
  case sched => rw [carry_sched, ← hsched]; exact replanned_sched v
  case scan =>
    have hhead : v.carriedPorts.header = v.header := header_congr (carriedPorts_marking v).store
    have hsc : v.carriedPorts.scan = s.scan := (carriedPorts_marking v).scan.trans hscan
    have hold : s.store.plan.header = s.header := rfl
    rw [carry_scan, State.scanPlan, hhead, hsc, header]
    dsimp only
    rw [hold]
    by_cases hs : s.scan.startUp = true
    · simp [hs]
    · have hrun : ¬(s.scan.startUp || decide (s.store.plan = .noPlan)) = true := by simp [hs, hplan]
      by_cases hm : s.header.mode = v.header.mode ∧ s.header.first = v.header.first ∧
          s.header.final = v.header.final
      · obtain ⟨h1, h2, h3⟩ := hm
        rw [if_neg hrun, if_pos ⟨h1, h2, h3⟩, if_pos (.inr ⟨h1.symm, h2.symm, h3.symm⟩)]
      · rw [if_neg hrun, if_neg hm, if_neg]
        · rfl
        · rintro (h | ⟨h1, h2, h3⟩)
          · exact hs h
          · exact hm ⟨h1.symm, h2.symm, h3.symm⟩
  case counters => rw [carry_counters, header, htest, mk.store]
  case test => rw [header, ← htest]; exact carry_test v _
  case edges => rw [carry_ev]; exact Tab.get_fill ..
  case acct => rw [← hacct]; exact carry_acct v _

/-! ## A bank switch applied -/

theorem bank_setBank_same (s : State) (k : Bank) (x : BankInfo) : (s.setBank k x).bank k = x := by
  cases k <;> rfl

theorem bank_setBank_ne (s : State) {k j : Bank} (x : BankInfo) (h : j ≠ k) : (s.setBank k x).bank j = s.bank j := by
  cases k <;> cases j
  · exact absurd rfl h
  · rfl
  · rfl
  · exact absurd rfl h

theorem setBank_setBank (s : State) (k : Bank) (x y : BankInfo) : (s.setBank k x).setBank k y = s.setBank k y := by
  cases k <;> rfl

theorem setBank_bank (s : State) (k : Bank) : s.setBank k (s.bank k) = s := by cases k <;> rfl

/-- The image on which a switch judges its target: with the bytes an open write burst has forwarded (R150). -/
def State.judgedImage (s : State) (target : Bank) : Mem :=
  match s.bankRegion target, s.path.txn with
  | some r, some x => imageTake (s.bank target).image r.lo x.placed
  | _, _ => (s.bank target).image

theorem takeForwarded_eq (s : State) (target : Bank) :
    s.takeForwarded target = s.setBank target { s.bank target with image := s.judgedImage target } := by
  unfold State.takeForwarded State.judgedImage
  cases s.bankRegion target with
  | none => exact (setBank_bank s target).symm
  | some r =>
    cases s.path.txn with
    | none => exact (setBank_bank s target).symm
    | some x => rfl

/-- What a switch finds of its target (R144, R150). -/
def State.judged (s : State) (target : Bank) : BankInfo :=
  State.validated (s.setBank target { s.bank target with image := s.judgedImage target }) target

/-- The part with no pending target and the target's record judged. -/
def State.judging (s : State) (target : Bank) : State :=
  State.setBank { s with store := { s.store with target := none } } target (s.judged target)

theorem judging_eq (s : State) (target : Bank) :
    (State.takeForwarded { s with store := { s.store with target := none } } target).validateBank target =
      s.judging target := by
  rw [takeForwarded_eq]
  unfold State.validateBank
  rw [setBank_setBank]
  cases target <;> rfl

theorem judging_only (s : State) (target : Bank) : Only [.store] s (s.judging target) :=
  (Only.setStore s _).trans (.setStore _ _)

/-- A bank's bytes as the plan in use, the bank active. -/
def State.activated (s : State) (target : Bank) : State :=
  { s with store := { s.store with
      active := target, activeFormed := true, plan := .bank target (s.bank target).image } }

/-- The part with its target active and told of, before the new plan is carried. -/
def State.switched (s : State) (target : Bank) : State :=
  (((s.judging target).activated target).dropForwarded target).markInst.raise .bankSwitch target.code
    s.store.plan.code 1

theorem applySwitch_self {s : State} {target : Bank} (h : target = s.store.active) :
    s.applySwitch target = { s with store := { s.store with target := none } } := by
  unfold State.applySwitch; dsimp only; rw [if_pos h]

/-- A switch to another bank, by what it finds of its target (R148). -/
theorem applySwitch_other {s : State} {target : Bank} (h : target ≠ s.store.active) :
    s.applySwitch target = match (s.judged target).validity with
      | .valid => (s.switched target).carry s.store.plan
      | .invalid => (s.judging target).raise .bankRefused target.code ((s.judged target).item.getD 0) 1
      | .absent => (s.judging target).raise .bankRefused target.code ((s.judged target).item.getD 0) 2 := by
  have hbank : (s.judging target).bank target = s.judged target := bank_setBank_same ..
  have hplan : (s.judging target).store.plan = s.store.plan := by cases target <;> rfl
  unfold State.applySwitch
  dsimp only
  rw [if_neg h, judging_eq, State.itemValue, hbank, hplan]
  cases (s.judged target).validity with
  | valid => cases target <;> rfl
  | invalid => rfl
  | absent => rfl

theorem dropForwarded_only (s : State) (which : Bank) : Only [.path] s (s.dropForwarded which) := by
  unfold State.dropForwarded
  split
  · split
    · exact .refl s
    · exact .setPath s _
  · exact .refl s

theorem dropForwarded_path (s : State) (which : Bank) :
    (s.dropForwarded which).path = { s.path with txn := (s.dropForwarded which).path.txn } := by
  unfold State.dropForwarded
  split
  · split <;> rfl
  · rfl

/-- The bytes already taken into the new active bank are not handed on again outside MAINS (R150). -/
theorem dropForwarded_txn {s : State} {which : Bank} {r : Region} (h : s.bankRegion which = some r) :
    (s.dropForwarded which).path.txn = s.path.txn.map fun x =>
      if s.phase.phase = .mains then x else x.without r := by
  unfold State.dropForwarded
  rw [h]
  dsimp only
  split
  · cases s.path.txn <;> rfl
  · rfl

theorem markInst_queueAndMarks (s : State) : QueueAndMarks s s.markInst := by
  refine ⟨rfl, ?_⟩
  simp only [State.markInst]
  split
  · exact ownRest_overtaken _ _
  · rfl

/-- The part just before the new plan is carried keeps all but the plan store, the events and the path unit. -/
theorem switched_only (s : State) (target : Bank) : Only [.store, .ev, .path] s (s.switched target) := by
  have h1 : Only [.store] s ((s.judging target).activated target) := (judging_only s target).trans (.setStore _ _)
  have h2 : Only [.store, .path] s (((s.judging target).activated target).dropForwarded target) :=
    h1.next (dropForwarded_only _ target)
  have h3 : Only [.store, .path] s (((s.judging target).activated target).dropForwarded target).markInst :=
    h2.next (Only.setPath _ _)
  exact h3.next (raise_only ..)

theorem switched_queueAndMarks (s : State) (target : Bank) :
    QueueAndMarks { s with path := { s.path with txn := (s.switched target).path.txn } } (s.switched target) := by
  have hpath := dropForwarded_path ((s.judging target).activated target) target
  have hold : ((s.judging target).activated target).path = s.path := (judging_only s target).path
  have hinst := markInst_queueAndMarks (((s.judging target).activated target).dropForwarded target)
  rw [hold] at hpath
  unfold State.switched
  refine QueueAndMarks.trans ?_ (raise_queueAndMarks ..)
  show QueueAndMarks { s with path := { s.path with txn := (((s.judging target).activated target).dropForwarded
    target).path.txn } } _
  generalize ((s.judging target).activated target).dropForwarded target = x at hpath hinst ⊢
  refine QueueAndMarks.trans (t := x) (.of_path ?_) hinst
  exact hpath

theorem switched_txn {s : State} {target : Bank} {r : Region} (h : s.bankRegion target = some r) :
    (s.switched target).path.txn = s.path.txn.map fun x => if s.phase.phase = .mains then x else x.without r := by
  have hold := judging_only s target
  have hr : ((s.judging target).activated target).bankRegion target = some r := by
    rw [bankRegion_congr (by exact congrArg Path.inst hold.path), h]
  have htxn : ((s.judging target).activated target).path.txn = s.path.txn := congrArg Path.txn hold.path
  have hphase : ((s.judging target).activated target).phase = s.phase := hold.phase
  have hdrop := dropForwarded_txn hr
  rw [htxn, hphase] at hdrop
  exact hdrop

theorem switched_store (s : State) (target : Bank) :
    (s.switched target).store = ((s.judging target).activated target).store :=
  (dropForwarded_only _ target).store

theorem judging_bank_same (s : State) (target : Bank) : (s.judging target).bank target = s.judged target :=
  bank_setBank_same ..

theorem judging_bank_ne {s : State} {target k : Bank} (h : k ≠ target) : (s.judging target).bank k = s.bank k :=
  bank_setBank_ne _ _ h

theorem bank_congr {s t : State} (h : t.store.a = s.store.a ∧ t.store.b = s.store.b) (k : Bank) :
    t.bank k = s.bank k := by
  cases k
  · exact h.1
  · exact h.2

/-- R148, R150: once its target is active and told of, the region of the bank refuses the rest of a burst outside
MAINS. -/
theorem classify_active {s t : State} {target : Bank} (hinst : t.path.inst = s.path.inst)
    (hphase : t.phase.phase = s.phase.phase) (hactive : t.store.active = target) {a : Nat} (ha : 256 ≤ a)
    (hk : s.kindAt a = target.regionKind) :
    t.classify a = if s.phase.phase = .mains then .forwarded else .refusing .activeBank := by
  have hkind : t.kindAt a = target.regionKind := by
    rw [← hk]; unfold State.kindAt; rw [regions_congr hinst]
  have hknown : t.mapKnown = true := by
    unfold State.mapKnown
    rw [hinst]
    cases hi : s.path.inst with
    | some m => rfl
    | none => cases target <;> simp [State.kindAt, State.regions, hi, Bank.regionKind] at hk
  have hlive : inLive a = false := by simp [inLive]; omega
  unfold State.classify State.classifyHigh
  rw [hlive, hknown, hkind, hactive, hphase, if_neg (by simp), if_neg (by omega)]
  cases target <;> by_cases hm : s.phase.phase = .mains <;> simp [Bank.regionKind, hm]

/-- The event of a valid target, told of the part after the plan has been carried: the carried plan has cleared the
edge states (R128). -/
theorem switched_carried_raised (s : State) (target : Bank) :
    Raised .bankSwitch target.code s.store.plan.code 1 (s.switched target).store.plan.tag
      { s with ev := { s.ev with edges := ((s.switched target).carry s.store.plan).ev.edges } }
      ((s.switched target).carry s.store.plan) := by
  have mk := carry_marking (s.switched target) s.store.plan
  have hev := carry_ev (s.switched target) s.store.plan
  have sw := switched_only s target
  obtain ⟨hq, he⟩ : Raised .bankSwitch target.code s.store.plan.code 1 (s.switched target).store.plan.tag s
      (s.switched target) := by
    have h := raise_raised (((s.judging target).activated target).dropForwarded target).markInst .bankSwitch
      target.code s.store.plan.code 1
    have hold := judging_only s target
    have drop := dropForwarded_only ((s.judging target).activated target) target
    have hq : (((s.judging target).activated target).dropForwarded target).markInst.path.ownq = s.path.ownq := by
      have h1 := dropForwarded_path ((s.judging target).activated target) target
      have h2 : ((s.judging target).activated target).path = s.path := hold.path
      show (((s.judging target).activated target).dropForwarded target).path.ownq = _
      rw [h1, h2]
    have he : (((s.judging target).activated target).dropForwarded target).markInst.ev = s.ev :=
      (drop.ev).trans hold.ev
    exact h.congr hq.symm he.symm rfl rfl ⟨rfl, rfl, rfl, rfl, rfl⟩
  generalize hv : s.switched target = v at *
  have halert : (v.carry s.store.plan).alertLevel = v.alertLevel :=
    alertLevel_congr (by rw [mk.store]) mk.inst (by rw [hev]) (by rw [hev]) (by rw [hev]) (by rw [hev])
  unfold Raised
  rw [ringOpen_congr (by rw [mk.store]) mk.inst, entry_congr (by rw [mk.phase]) mk.clock,
    entry_congr (by rw [mk.phase]) mk.clock, mk.store, mk.ownq, halert]
  refine ⟨hq, ?_⟩
  rw [hev, he]

/-- R148 to R150: what a bank switch does. -/
theorem applySwitch_applied (target : Bank) (s : State) : State.SwitchApplied target s (s.applySwitch target) := by
  have jud := judging_only s target
  by_cases hself : target = s.store.active
  · rw [applySwitch_self hself]
    exact ⟨rfl, rfl, rfl, rfl, fun _ => rfl, fun hne => absurd hself hne⟩
  rw [applySwitch_other hself]
  have refused : ∀ c, (s.judged target).validity ≠ .valid →
      (if (s.judged target).validity = .invalid then 1 else 2) = c →
      State.SwitchApplied target s
        ((s.judging target).raise .bankRefused target.code ((s.judged target).item.getD 0) c) := by
    intro c hval hc
    refine ⟨jud.clock, rfl, rfl, rfl, fun h => absurd h hself, fun _ => ⟨judging_bank_same s target,
      fun k hk => judging_bank_ne hk, fun _ => ⟨rfl, rfl, ?_, rfl, ?_⟩, fun h => absurd h hval⟩⟩
    · have h := raise_raised (s.judging target) .bankRefused target.code ((s.judged target).item.getD 0) c
      rw [← hc] at h ⊢
      exact h.congr rfl rfl rfl rfl ⟨rfl, rfl, rfl, rfl, rfl⟩
    · exact (jud.next (n := [.store, .ev, .path]) (raise_only ..)).sameBut
  cases hval : (s.judged target).validity with
  | invalid => exact refused 1 (by simp [hval]) (by simp [hval])
  | absent => exact refused 2 (by simp [hval]) (by simp [hval])
  | valid =>
    dsimp only
    have sw := switched_only s target
    have mk := carry_marking (s.switched target) s.store.plan
    have hinst : (s.switched target).path.inst = s.path.inst := (switched_queueAndMarks s target).path_inst
    have hstore := mk.store.trans (switched_store s target)
    have htxn : ((s.switched target).carry s.store.plan).path.txn = (s.switched target).path.txn :=
      mk.marks.1.path_txn
    have hbank : ∀ k, ((s.switched target).carry s.store.plan).bank k = (s.judging target).bank k := fun k =>
      bank_congr (by rw [hstore]; exact ⟨rfl, rfl⟩) k
    have hplan : ((s.switched target).carry s.store.plan).store.plan = .bank target (s.judged target).image := by
      rw [hstore, ← judging_bank_same]; rfl
    refine ⟨mk.clock.trans sw.clock, by rw [hstore]; rfl, by rw [hstore]; rfl, by rw [hstore]; rfl,
      fun h => absurd h hself, fun _ => ⟨(hbank target).trans (judging_bank_same s target),
        fun k hk => (hbank k).trans (judging_bank_ne hk), fun h => absurd hval h, fun _ => ?_⟩⟩
    refine ⟨by rw [hstore]; rfl, hplan, ?raised, ?carried, fun hc => ?inst, fun r hr => ?txn,
      fun a ha hk => ?classify, ?path, ?frame⟩
    case raised =>
      rw [mk.store]; exact switched_carried_raised s target
    case carried =>
      exact carry_carried sw.ports sw.sched sw.scan sw.test sw.acct (by rw [switched_store]; rfl) hinst
    case inst =>
      rw [mk.dirtyInst]
      have hconf : (((s.judging target).activated target).dropForwarded target).configured = s.configured := by
        have h1 := dropForwarded_path ((s.judging target).activated target) target
        have h2 : ((s.judging target).activated target).path = s.path := jud.path
        unfold State.configured
        rw [h1, h2]
      show ((((s.judging target).activated target).dropForwarded target).configured || _) = true
      rw [hconf, hc]; rfl
    case txn => rw [htxn]; exact switched_txn hr
    case classify =>
      exact classify_active (mk.inst.trans hinst) (by rw [mk.phase, sw.phase]) (by rw [hstore]; rfl) ha hk
    case path =>
      rw [htxn]
      exact (switched_queueAndMarks s target).trans mk.marks.1
    case frame =>
      exact (sw.next (n := [.ports, .scan, .acct, .sched, .test, .ev, .store, .path]) mk.toOnly).sameBut

/-- A pending target is applied where the part is READY and no load runs (R147). -/
theorem applyTarget_some {s : State} {target : Bank} (h : s.store.target = some target)
    (hr : s.store.ready = true) (hl : s.store.load = none) : s.applyTarget = s.applySwitch target := by
  unfold State.applyTarget; simp [h, hr, hl]

/-- A pending target stays while a load runs (R157; log 25). -/
theorem applyTarget_held {s : State} (h : s.store.target = none ∨ s.store.load ≠ none) : s.applyTarget = s := by
  unfold State.applyTarget
  rcases h with h | h
  · simp [h]
  · cases ht : s.store.target with
    | none => rfl
    | some k =>
      cases hl : s.store.load with
      | none => exact absurd hl h
      | some l => simp

end Sys2Proof.Machine
end

section
/-! PROOFS. The entries to a phase: what stopping all work does to ports, queue, gate and round, the end of a test, and
the event of the entry (R4, R8, R9, R11, R13, R117). -/

namespace Sys2Proof.Machine
open Sys2Proof

/-! ## All work stopped -/

/-- A port's record once all work is stopped (R9, R64). -/
def Port.workEnded (x : Port) : Port := x.feedEnded.wakeEnded

theorem endFeeds_port (s : State) (p : Fin 48) : s.endFeeds.port p = (s.port p).feedEnded := by
  have h := foldl_port (f := State.endFeed) (g := fun _ => Port.feedEnded) (R := fun _ => True)
    (fun _ _ _ => trivial) (fun s p q _ => endFeed_port s p q) (fun _ => feedEnded_idem) allPorts s trivial p
  rwa [if_pos (mem_allPorts p)] at h

/-- The wakes of a list of ports ended. -/
theorem foldl_endWake_port (l : List (Fin 48)) (s : State) (p : Fin 48) :
    (l.foldl State.endWake s).port p = if p ∈ l then (s.port p).wakeEnded else s.port p :=
  foldl_port (g := fun _ => Port.wakeEnded) (R := fun _ => True)
    (fun _ _ _ => trivial) (fun s p q _ => endWake_port s p q) (fun _ => wakeEnded_idem) l s trivial p

theorem endWakes_port (s : State) (p : Fin 48) : s.endWakes.port p = (s.port p).wakeEnded := by
  have h := foldl_endWake_port allPorts s p
  rwa [if_pos (mem_allPorts p)] at h

theorem stopAll_port (s : State) (p : Fin 48) : s.stopAll.port p = (s.port p).workEnded := by
  unfold State.stopAll
  rw [endWakes_port, endFeeds_port, (clearGate_only _).port, (abandonRound_only _).port,
    (emptyQueue_marking s).port]
  rfl

/-- The end of a wake takes the port's request out of the gate (R42). -/
theorem endWake_gate (s : State) (p : Fin 48) : (s.endWake p).gate =
    if (s.port p).action = .waking then { s.gate with waiting := s.gate.waiting.filter fun r => r.port ≠ p }
    else s.gate := by
  unfold State.endWake
  dsimp only
  split <;> rfl

theorem endWake_gate_of_empty {s : State} (h : s.gate.waiting = []) (p : Fin 48) : (s.endWake p).gate = s.gate := by
  have hs : { s.gate with waiting := [] } = s.gate := by rw [← h]
  rw [endWake_gate, h]
  split
  · exact hs
  · rfl

theorem endWakes_gate_of_empty {s : State} (h : s.gate.waiting = []) : s.endWakes.gate = s.gate :=
  fold_keeps (R := fun s t => s.gate.waiting = [] → t.gate = s.gate) (fun _ _ => rfl)
    (fun hst htu hs => (htu ((hst hs) ▸ hs)).trans (hst hs)) State.endWake allPorts
    (fun _ p hs => endWake_gate_of_empty hs p) s h

theorem stopAll_gate (s : State) : s.stopAll.gate = { s.gate with waiting := [] } := by
  have hgate : s.emptyQueue.abandonRound.clearGate.endFeeds.gate = { s.gate with waiting := [] } := by
    rw [(endFeeds_marking _).gate]
    show { s.emptyQueue.abandonRound.gate with waiting := [] } = _
    rw [(abandonRound_only _).gate, (emptyQueue_marking s).gate]
  unfold State.stopAll
  rw [endWakes_gate_of_empty (by rw [hgate]), hgate]

/-- A slot once its round is abandoned (R104). -/
def Slot.abandoned (x : Slot) : Slot := if x.outcome.isNone then { x with outcome := some .abandoned } else x

/-- The scheduler once a running round is abandoned and the timer stopped (R104). -/
def Sched.abandoned (x : Sched) : Sched :=
  { x with
    running := false, timer := none, startPending := false
    slots := if x.running then x.slots.map Slot.abandoned else x.slots
    record := if x.running then
        { number := x.number, slots := (x.slots.map Slot.abandoned).map Slot.recorded }
      else x.record }

theorem abandonRound_sched (s : State) : s.abandonRound.sched = s.sched.abandoned := by
  unfold State.abandonRound Sched.abandoned
  cases hr : s.sched.running with
  | false => simp only [hr, Bool.false_eq_true, if_false]
  | true => simp only [if_true, State.endRound]; rfl

theorem stopAll_sched (s : State) : s.stopAll.sched = Sched.abandoned { s.sched with queue := [] } := by
  unfold State.stopAll
  rw [(endWakes_marking _).sched, (endFeeds_marking _).sched, (clearGate_only _).sched, abandonRound_sched,
    emptyQueue_sched]

/-! ## Work of a port and its switch -/

theorem workEnded_not_busy {x : Port} (h : ¬x.Busy) : x.workEnded = x := by
  unfold Port.Busy at h
  unfold Port.workEnded Port.feedEnded
  rw [if_neg (by tauto)]
  unfold Port.wakeEnded
  rw [if_neg (by tauto)]

theorem workEnded_testing {x : Port} (h : x.action = .testing) : x.workEnded = x := by
  simp [Port.workEnded, Port.feedEnded, Port.wakeEnded, h]

theorem workEnded_action_ne (x : Port) : x.workEnded.action ≠ .feeding ∧ x.workEnded.action ≠ .waking := by
  unfold Port.workEnded Port.wakeEnded
  have hf := feedEnded_action_ne x
  split
  · exact ⟨nofun, nofun⟩
  · exact ⟨hf, by assumption⟩

/-- A port whose feed or wake has been stopped is IDLE with its switch open. -/
theorem workEnded_busy {x : Port} (h : x.action = .feeding ∨ x.action = .waking) :
    x.workEnded.action = .idle ∧ x.workEnded.switch = false := by
  rcases h with h | h <;> simp [Port.workEnded, Port.feedEnded, Port.wakeEnded, h]

/-- What an end of a port's work leaves of its record (R9). -/
structure Port.WorkKept (x y : Port) : Prop where
  deficit : y.deficit = x.deficit
  u : y.u = x.u
  trips : y.trips = x.trips
  attempts : y.attempts = x.attempts
  feedSecs : y.feedSecs = x.feedSecs

theorem workEnded_kept (x : Port) : Port.WorkKept x x.workEnded := by
  unfold Port.workEnded Port.wakeEnded Port.feedEnded
  split <;> split <;> exact ⟨rfl, rfl, rfl, rfl, rfl⟩

/-! ## The end of a test (R117) -/

theorem tab_set_set {α : Type} {n : Nat} (t : Tab α n) (i : Fin n) (x y : α) : (t.set i x).set i y = t.set i y :=
  Subtype.ext (List.set_set ..)

theorem detach_marking (s : State) (p : Fin 48) : Marking [.ports, .path] s (s.detach p) :=
  (setPort_only s p _).marking.next (markPort_marking _ p)

theorem summarise_marking (s : State) (run : TestRun) (result : TestResult) (value : Nat) :
    Marking [.ports, .path] s (s.summarise run result value) :=
  (setPort_only s run.port _).marking.next (markPort_marking _ run.port)

/-- The port of an ended test, detached and with its summary written, before the test unit's own fields. -/
def State.leftTest (s : State) (run : TestRun) (result : TestResult) (value : Nat) : State :=
  ((s.detach run.port).unrequest run.port).summarise run result value

theorem endTest_eq (s : State) (run : TestRun) (result : TestResult) (value : Nat) (span : Option (Nat × Nat)) :
    s.endTest run result value span false =
      State.raiseTagged { s.leftTest run result value with
          test := (s.leftTest run result value).endedTest run result value span }
        .testResult run.port.val value result.eventCause
        (run.kind.code + 256 * (if run.bySupervisor then 2 else 1)) := rfl

theorem leftTest_marking (s : State) (run : TestRun) (result : TestResult) (value : Nat) :
    Marking [.ports, .gate, .path] s (s.leftTest run result value) :=
  ((detach_marking s run.port).next (n := [.ports, .gate, .path]) (unrequest_only _ _).marking).next
    (summarise_marking _ run result value)

theorem leftTest_port (s : State) (run : TestRun) (result : TestResult) (value : Nat) (p : Fin 48) :
    (s.leftTest run result value).port p = if p = run.port then { s.port p with
        action := .idle, switch := false
        lastTest := some { kind := run.kind, result := result, value := value } }
      else s.port p := by
  have keep : ∀ (x : State) (q : Fin 48), (x.unrequest q).port = x.port := fun _ _ => rfl
  unfold State.leftTest State.summarise State.detach
  by_cases hp : p = run.port
  · subst hp; simp [keep]
  · simp [keep, hp]

theorem leftTest_markSet (s : State) (run : TestRun) (result : TestResult) (value : Nat) :
    MarkSet run.port s (s.leftTest run result value) := by
  refine ⟨?_, rfl⟩
  have first : (s.detach run.port).path.dirty =
      if s.canMark then s.path.dirty.set run.port true else s.path.dirty := rfl
  have second : (s.leftTest run result value).path.dirty =
      if s.canMark then (s.detach run.port).path.dirty.set run.port true else (s.detach run.port).path.dirty := rfl
  rw [second, first]
  cases s.canMark
  · rfl
  · exact tab_set_set ..

theorem endTest_only (s : State) (run : TestRun) (result : TestResult) (value : Nat) (span : Option (Nat × Nat)) :
    Only [.ports, .gate, .test, .ev, .path] s (s.endTest run result value span false) := by
  rw [endTest_eq]
  have h : Only [.ports, .gate, .test, .path] s { s.leftTest run result value with
      test := (s.leftTest run result value).endedTest run result value span } :=
    (leftTest_marking s run result value).toOnly.next (Only.setTest _ _)
  exact h.next (raiseTagged_only ..)

/-- The test unit's fields are those of `s`: its port alone has changed before them. -/
theorem endTest_test (s : State) (run : TestRun) (result : TestResult) (value : Nat) (span : Option (Nat × Nat)) :
    (s.endTest run result value span false).test = s.endedTest run result value span := by
  have h := leftTest_marking s run result value
  show (s.leftTest run result value).endedTest run result value span = _
  unfold State.endedTest
  rw [h.test, header_congr h.store, h.store]

/-- The end of a test with a result, its steps 1 to 5 (R117). -/
theorem endTest_ended (s : State) (run : TestRun) (result : TestResult) (value : Nat)
    (span : Option (Nat × Nat)) : TestEnded run result value span s (s.endTest run result value span false) := by
  have left := leftTest_marking s run result value
  have port : ∀ p, (s.endTest run result value span false).port p = (s.leftTest run result value).port p :=
    fun _ => rfl
  have test := endTest_test s run result value span
  refine ⟨?port, fun q hq => ?others, rfl, ?test, fun hs => ?rotaOwner, fun hs hc => ?releasing,
    fun hs hc => ?held, fun i => ?counters, ?event, ⟨left.marks.1.trans ⟨rfl, rfl⟩,
      leftTest_markSet s run result value⟩, (endTest_only s run result value span).sameBut⟩
  case port => rw [port, leftTest_port, if_pos rfl]
  case others => rw [port, leftTest_port, if_neg hq]
  case test => rw [test]; rfl
  case rotaOwner => rw [test]; simp [State.endedTest, hs]
  case releasing => rw [test]; simp [State.endedTest, hs, hc]
  case held => rw [test]; simp [State.endedTest, hs, hc]
  case counters =>
    rw [test]
    unfold State.endedTest
    cases run.rota with
    | none => simp
    | some j =>
      dsimp only
      by_cases hj : j.val < s.header.rotaN
      · rw [if_pos hj, Tab.get_set]
        by_cases hi : i = j
        · subst hi; simp [hj]
        · rw [if_neg hi, if_neg]
          rintro ⟨e, -⟩
          exact hi (Option.some.inj e).symm
      · rw [if_neg hj, if_neg]
        rintro ⟨e, hi⟩
        exact hj (Option.some.inj e ▸ hi)
  case event =>
    rw [endTest_eq]
    exact (raiseTagged_raised _ .testResult run.port.val value result.eventCause _).congr left.ownq.symm
      left.ev.symm rfl rfl ⟨rfl, rfl, rfl, rfl, rfl⟩

theorem abortTest_some {s : State} {run : TestRun} (h : s.test.run = some run) (cause : AbortCause) :
    s.abortTest cause false = s.endTest run (.aborted cause) (run.elapsed s.clock) none false := by
  unfold State.abortTest; rw [h]

theorem abortTest_only (s : State) (cause : AbortCause) :
    Only [.ports, .gate, .test, .ev, .path] s (s.abortTest cause false) := by
  unfold State.abortTest
  split
  · exact endTest_only ..
  · exact .refl s

theorem abortTest_queueAndMarks (s : State) (cause : AbortCause) : QueueAndMarks s (s.abortTest cause false) := by
  unfold State.abortTest
  split
  · exact (endTest_ended ..).path.1
  · exact .refl s

theorem abortTest_run (s : State) (cause : AbortCause) : (s.abortTest cause false).test.run = none := by
  cases h : s.test.run with
  | none => rw [abortTest_none h]; exact h
  | some run => rw [abortTest_some h, (endTest_ended ..).test]

theorem abortTest_minute (s : State) (cause : AbortCause) :
    (s.abortTest cause false).test.minute = s.test.minute := by
  cases h : s.test.run with
  | none => rw [abortTest_none h]
  | some run => rw [abortTest_some h, (endTest_ended ..).test]

theorem abortTest_gate_of_empty {s : State} (h : s.gate.waiting = []) (cause : AbortCause) :
    (s.abortTest cause false).gate = s.gate := by
  cases hr : s.test.run with
  | none => rw [abortTest_none hr]
  | some run =>
    have hs : { s.gate with waiting := [] } = s.gate := by rw [← h]
    rw [abortTest_some hr, (endTest_ended ..).gate, h]
    exact hs

/-- An aborted test leaves no port feeding or waking that was not. -/
theorem abortTest_action {s : State} {p : Fin 48} (cause : AbortCause)
    (h : (s.port p).action ≠ .feeding ∧ (s.port p).action ≠ .waking) :
    ((s.abortTest cause false).port p).action ≠ .feeding ∧ ((s.abortTest cause false).port p).action ≠ .waking := by
  cases hr : s.test.run with
  | none => rwa [abortTest_none hr]
  | some run =>
    rw [abortTest_some hr]
    have ended := endTest_ended s run (.aborted cause) (run.elapsed s.clock) none
    by_cases hp : p = run.port
    · rw [hp, ended.port]; exact ⟨nofun, nofun⟩
    · rwa [ended.others p hp]

/-! ## The entries -/

/-- All work stopped and a test aborted: the effects that the entries to CUTOFF and RESTORE share (R9, R11). -/
def State.workEnded (s : State) : State := s.stopAll.abortTest .phase false

theorem workEnded_only (s : State) : Only [.ports, .gate, .sched, .test, .ev, .path] s s.workEnded :=
  (stopAll_marking s).toOnly.next (abortTest_only _ _)

theorem workEnded_queueAndMarks (s : State) : QueueAndMarks s s.workEnded :=
  (stopAll_marking s).marks.1.trans (abortTest_queueAndMarks _ _)

theorem workEnded_gate (s : State) : s.workEnded.gate = { s.gate with waiting := [] } := by
  unfold State.workEnded
  rw [abortTest_gate_of_empty (by rw [stopAll_gate]), stopAll_gate]

theorem workEnded_sched (s : State) : s.workEnded.sched = Sched.abandoned { s.sched with queue := [] } := by
  unfold State.workEnded
  rw [(abortTest_only _ _).sched, stopAll_sched]

theorem workEnded_minute (s : State) : s.workEnded.test.minute = s.test.minute := by
  unfold State.workEnded
  rw [abortTest_minute, (stopAll_marking s).test]

theorem workEnded_run (s : State) : s.workEnded.test.run = none := by
  unfold State.workEnded; exact abortTest_run _ _

theorem workEnded_idle {s : State} (h : s.test.run = none) : s.workEnded = s.stopAll :=
  abortTest_none (by rw [(stopAll_marking s).test]; exact h) ..

theorem workEnded_ended {s : State} {run : TestRun} (h : s.test.run = some run) :
    TestEnded run (.aborted .phase) (run.elapsed s.clock) none s.stopAll s.workEnded := by
  have hr : s.stopAll.test.run = some run := by rw [(stopAll_marking s).test]; exact h
  unfold State.workEnded
  rw [abortTest_some hr, (stopAll_marking s).clock]
  exact endTest_ended ..

theorem workEnded_port_action (s : State) (p : Fin 48) :
    (s.workEnded.port p).action ≠ .feeding ∧ (s.workEnded.port p).action ≠ .waking :=
  abortTest_action _ (by rw [stopAll_port]; exact workEnded_action_ne _)

/-- The entry to CUTOFF up to the bank switch that may be pending (R9, R76). -/
def State.cutoffReached (s : State) (cause : PhaseCause) : State :=
  (if cause = .undervoltage then (s.setPhase .cutoff).lowerQ else s.setPhase .cutoff).workEnded.raisePhase cause

theorem enterCutoff_eq (s : State) (cause : PhaseCause) :
    s.enterCutoff cause = (s.cutoffReached cause).applyTarget := by
  unfold State.enterCutoff State.cutoffReached State.workEnded; rfl

/-- The entry to RESTORE up to the bank switch that may be pending (R11). -/
def State.restoreReached (s : State) : State := (s.setPhase .restore).workEnded.raisePhase .mainsBack

theorem enterRestore_eq (s : State) : s.enterRestore = s.restoreReached.applyTarget := by
  unfold State.enterRestore State.restoreReached State.workEnded; rfl

/-- The entry to RESERVE up to its event (R8, R103). -/
def State.reserveReached (s : State) : State :=
  let s1 := s.setPhase .reserve
  let s2 := ((s1.sched.queue.map (·.port)).filter s1.lowClass).foldl State.dequeue s1
  (allPorts.filter s2.lowClass).foldl State.endWake s2.narrowSlots

theorem enterReserve_eq (s : State) (cause : PhaseCause) :
    s.enterReserve cause = (s.reserveReached.raisePhase cause).issueOn := by
  unfold State.enterReserve State.reserveReached; rfl

theorem raisePhase_only (s : State) (cause : PhaseCause) : Only [.ev, .path] s (s.raisePhase cause) := raise_only ..

theorem reserveReached_marking (s : State) :
    Marking [.phase, .ports, .gate, .sched, .path] s s.reserveReached := by
  unfold State.reserveReached
  dsimp only
  have h1 : Marking [.phase] s (s.setPhase .reserve) := (setPhase_only s _).marking
  generalize s.setPhase .reserve = s1 at h1 ⊢
  have h2 : Marking [.phase, .sched, .path] s
      (((s1.sched.queue.map (·.port)).filter s1.lowClass).foldl State.dequeue s1) :=
    h1.next (Marking.fold _ dequeue_marking s1)
  generalize ((s1.sched.queue.map (·.port)).filter s1.lowClass).foldl State.dequeue s1 = s2 at h2 ⊢
  have h3 : Marking [.phase, .gate, .sched, .path] s s2.narrowSlots := h2.next (narrowSlots_only s2).marking
  exact h3.next (Marking.fold _ endWake_marking _)

theorem reserveReached_phase (s : State) :
    s.reserveReached.phase = { s.phase with phase := .reserve, uv := 0 } := by
  unfold State.reserveReached
  dsimp only
  rw [(Marking.fold _ endWake_marking _).phase, (narrowSlots_only _).phase, (Marking.fold _ dequeue_marking _).phase]
  rfl

/-- A slot resolved changes no more of the scheduler than its slots. -/
theorem resolvePort_sched (s : State) (p : Fin 48) (o : SlotOutcome) :
    (s.resolvePort p o).sched = { s.sched with slots := (s.resolvePort p o).sched.slots } := by
  unfold State.resolvePort
  split <;> rfl

/-- A fold whose steps change of the scheduler the slots alone. -/
theorem foldl_slots {α : Type} {f : State → α → State}
    (h : ∀ s a, (f s a).sched = { s.sched with slots := (f s a).sched.slots }) (l : List α) (s : State) :
    (l.foldl f s).sched = { s.sched with slots := (l.foldl f s).sched.slots } := by
  induction l generalizing s with
  | nil => rfl
  | cons a rest ih => rw [List.foldl_cons, ih, h]

theorem narrowSlots_sched (s : State) : s.narrowSlots.sched = { s.sched with slots := s.narrowSlots.sched.slots } := by
  unfold State.narrowSlots
  refine foldl_slots (fun x p => ?_) _ s
  split
  · rw [resolvePort_sched]
    split <;> rfl
  · rfl

/-- The entry to RESERVE changes the scheduler in its queue and its slots alone (R103). -/
theorem reserveReached_sched (s : State) : ∃ queue slots,
    s.reserveReached.sched = { s.sched with queue := queue, slots := slots } := by
  unfold State.reserveReached
  dsimp only
  rw [(Marking.fold _ endWake_marking _).sched, narrowSlots_sched, dequeueAll_sched]
  exact ⟨_, _, rfl⟩

theorem cutoffReached_phase (s : State) (cause : PhaseCause) :
    (s.cutoffReached cause).phase = { s.phase with phase := .cutoff, uv := 0 } := by
  unfold State.cutoffReached
  rw [(raisePhase_only _ _).phase, (workEnded_only _).phase]
  split <;> rfl

/-! ## A pending bank switch left out of sight -/

/-- The state with another pending target. -/
def State.withTarget (s : State) (x : Option Bank) : State := { s with store := { s.store with target := x } }

/-- An operation that neither reads nor writes the pending target, alone or folded over a list. -/
theorem foldl_withTarget {α : Type} {f : State → α → State} {x : Option Bank}
    (h : ∀ s a, f (s.withTarget x) a = (f s a).withTarget x) (l : List α) (s : State) :
    l.foldl f (s.withTarget x) = (l.foldl f s).withTarget x := by
  induction l generalizing s with
  | nil => rfl
  | cons a rest ih => rw [List.foldl_cons, h, ih]; rfl

section
variable (s : State) (p : Fin 48) (x : Option Bank)

theorem markPortIf_withTarget (c : Bool) : (s.withTarget x).markPortIf c p = (s.markPortIf c p).withTarget x := by
  cases c <;> rfl

theorem dequeue_withTarget : (s.withTarget x).dequeue p = (s.dequeue p).withTarget x :=
  markPortIf_withTarget { s with sched := { s.sched with queue := s.sched.queue.filter fun e => e.port ≠ p } } p x
    (s.queued p)

theorem abandonRound_withTarget : (s.withTarget x).abandonRound = s.abandonRound.withTarget x := by
  have hr : (s.withTarget x).sched.running = s.sched.running := rfl
  unfold State.abandonRound
  rw [hr]
  cases s.sched.running <;> rfl

theorem endFeed_withTarget : (s.withTarget x).endFeed p = (s.endFeed p).withTarget x := by
  have hp : (s.withTarget x).port p = s.port p := rfl
  unfold State.endFeed
  rw [hp]
  by_cases h : (s.port p).action = .feeding
  · simp only [if_pos h]; rfl
  · simp only [if_neg h]

theorem endWake_withTarget : (s.withTarget x).endWake p = (s.endWake p).withTarget x := by
  have hp : (s.withTarget x).port p = s.port p := rfl
  unfold State.endWake
  rw [hp]
  by_cases h : (s.port p).action = .waking
  · simp only [if_pos h]; rfl
  · simp only [if_neg h]

theorem stopAll_withTarget : (s.withTarget x).stopAll = s.stopAll.withTarget x := by
  have hq : (s.withTarget x).emptyQueue = s.emptyQueue.withTarget x :=
    foldl_withTarget (fun s p => dequeue_withTarget s p x) _ s
  have hg : ∀ s : State, (s.withTarget x).clearGate = s.clearGate.withTarget x := fun _ => rfl
  have hf : ∀ s : State, (s.withTarget x).endFeeds = s.endFeeds.withTarget x :=
    foldl_withTarget (fun s p => endFeed_withTarget s p x) _
  have hw : ∀ s : State, (s.withTarget x).endWakes = s.endWakes.withTarget x :=
    foldl_withTarget (fun s p => endWake_withTarget s p x) _
  unfold State.stopAll
  rw [hq, abandonRound_withTarget, hg, hf, hw]

theorem workEnded_withTarget : (s.withTarget x).workEnded = s.workEnded.withTarget x := by
  have hr : ∀ s : State, (s.withTarget x).abortTest .phase false = (s.abortTest .phase false).withTarget x := by
    intro s
    have hrun : (s.withTarget x).test.run = s.test.run := rfl
    unfold State.abortTest
    rw [hrun]
    cases s.test.run <;> rfl
  unfold State.workEnded
  rw [stopAll_withTarget, hr]

theorem setPhase_withTarget (phase : Phase) :
    (s.withTarget x).setPhase phase = (s.setPhase phase).withTarget x := rfl

theorem raisePhase_withTarget (cause : PhaseCause) :
    (s.withTarget x).raisePhase cause = (s.raisePhase cause).withTarget x := rfl

theorem cutoffReached_withTarget {cause : PhaseCause} (h : cause ≠ .undervoltage) :
    (s.withTarget x).cutoffReached cause = (s.cutoffReached cause).withTarget x := by
  unfold State.cutoffReached
  rw [if_neg h, if_neg h, setPhase_withTarget, workEnded_withTarget, raisePhase_withTarget]

theorem restoreReached_withTarget : (s.withTarget x).restoreReached = s.restoreReached.withTarget x := by
  unfold State.restoreReached
  rw [setPhase_withTarget, workEnded_withTarget, raisePhase_withTarget]

end

/-- A state with its target taken away and put back. -/
theorem withTarget_restored {s v : State} (h : v.store = s.store) :
    { v.withTarget none with store := s.store } = v := by
  rw [← h]; rfl

end Sys2Proof.Machine
end

section
/-! PROOFS. The qualified loss, the qualified restore and the end of the settling (O17 to O19). -/

namespace Sys2Proof.Machine
open Sys2Proof

/-! ## An entry with no round and no test to end -/

/-- An entry to a phase with its event, all that it stopped having left marks alone (R4). -/
def QuietEntry (phase : Phase) (cause : PhaseCause) (timer : Option Nat) (s t : State) : Prop :=
  ∃ x, t = x.raisePhase cause ∧ Marking [.phase, .ports, .gate, .sched, .path] s x ∧
    x.phase = { s.phase with phase := phase, uv := 0 } ∧ x.sched.timer = timer

namespace QuietEntry

variable {phase : Phase} {cause : PhaseCause} {timer : Option Nat} {s t : State}

theorem only (h : QuietEntry phase cause timer s t) : Only [.phase, .ports, .gate, .sched, .ev, .path] s t := by
  obtain ⟨x, rfl, hx, -, -⟩ := h
  exact hx.toOnly.next (raisePhase_only x cause)

theorem phase_eq (h : QuietEntry phase cause timer s t) : t.phase = { s.phase with phase := phase, uv := 0 } := by
  obtain ⟨x, rfl, -, hp, -⟩ := h
  rw [(raisePhase_only x cause).phase, hp]

theorem timer_eq (h : QuietEntry phase cause timer s t) : t.sched.timer = timer := by
  obtain ⟨x, rfl, -, -, ht⟩ := h
  rw [(raisePhase_only x cause).sched, ht]

theorem queueAndMarks (h : QuietEntry phase cause timer s t) : QueueAndMarks s t := by
  obtain ⟨x, rfl, hx, -, -⟩ := h
  exact hx.marks.1.trans (raise_queueAndMarks ..)

/-- The one event of the entry carries the level the entry leaves (R4). -/
theorem raised (h : QuietEntry phase cause timer s t) (hp : phase ≠ .mains) :
    Raised .phase noSubject s.acct.level cause.code s.store.plan.tag s t := by
  obtain ⟨x, rfl, hx, hphase, -⟩ := h
  have hlevel : x.level = s.acct.level := by
    unfold State.level; rw [hphase, if_neg hp, hx.acct]
  have hr := raise_raised x .phase noSubject x.level cause.code
  rw [hlevel, hx.store] at hr
  exact hr.congr hx.ownq.symm hx.ev.symm (by rw [← hlevel]; rfl) (by rw [← hlevel]; rfl)
    ⟨rfl, rfl, rfl, rfl, rfl⟩

end QuietEntry

/-- The entry to RESERVE with no round running. -/
theorem enterReserve_quiet {s : State} (hrun : s.sched.running = false) (cause : PhaseCause) :
    QuietEntry .reserve cause s.sched.timer s (s.enterReserve cause) := by
  obtain ⟨queue, slots, hsched⟩ := reserveReached_sched s
  refine ⟨s.reserveReached, ?_, reserveReached_marking s, reserveReached_phase s, by rw [hsched]⟩
  rw [enterReserve_eq, issueOn_idle (by rw [(raisePhase_only _ _).sched, hsched]; exact hrun)]

/-- The entry to CUTOFF by the level or from RESTORE, with no test running and no switch to apply. -/
theorem enterCutoff_quiet {s : State} (htest : s.test.run = none)
    (hheld : s.store.target = none ∨ s.store.load ≠ none) {cause : PhaseCause} (hc : cause ≠ .undervoltage) :
    QuietEntry .cutoff cause none s (s.enterCutoff cause) := by
  have hp := setPhase_only s .cutoff
  have stop := stopAll_marking (s.setPhase .cutoff)
  have reached : s.cutoffReached cause = (s.setPhase .cutoff).stopAll.raisePhase cause := by
    unfold State.cutoffReached
    rw [if_neg hc, workEnded_idle (by rw [hp.test]; exact htest)]
  have hstore : (s.cutoffReached cause).store = s.store := by
    rw [reached, (raisePhase_only _ _).store, stop.store, hp.store]
  refine ⟨(s.setPhase .cutoff).stopAll, ?_, hp.marking.next stop, ?_, ?_⟩
  · rw [enterCutoff_eq, applyTarget_held (by rw [hstore]; exact hheld), reached]
  · rw [stop.phase]; rfl
  · rw [stopAll_sched]; rfl

/-! ## A loss that falls due -/

/-- A loss that falls due in READY is taken (R1 to R3). -/
theorem exec_lossQualified_due {τ t0 : Nat} {s : State} (hline : s.line = .released) (hready : s.store.ready = true)
    (hm : s.phase.mains = .losing) (hq : s.phase.qual = .running t0) (hdue : t0 + s.lossTime ≤ max s.clock τ) :
    exec (.lossQualified τ) s = .next (s.advance τ).takeLoss := by
  have time : (s.advance τ).qualifyTime = s.lossTime := by simp [State.qualifyTime, hm, State.lossTime]
  have taken : (s.advance τ).requalify = (s.advance τ).takeLoss := by
    unfold State.requalify
    rw [advance_phase, hq]
    dsimp only
    rw [time, advance_clock, if_pos hdue]
    simp [State.qualify, hready, hm]
  simp only [exec, execLossQualified, timed_released hline, advance_phase, if_pos hm, taken]

/-- The part at the moment a loss is taken. -/
def State.lost (s : State) (τ : Nat) : State :=
  { s.advance τ with phase := { s.phase with mains := .lost, qual := .stopped } }

theorem lost_only (s : State) (τ : Nat) : Only [.phase] (s.advance τ) (s.lost τ) := .setPhase _ _

theorem takeLoss_mains {s : State} (τ : Nat) (h : s.phase.phase = .mains) :
    (s.advance τ).takeLoss = (s.lost τ).outageStart := by
  unfold State.takeLoss
  rw [advance_phase, h]
  rfl

theorem takeLoss_restore {s : State} (τ : Nat) (h : s.phase.phase = .restore) :
    (s.advance τ).takeLoss = (s.lost τ).returnFromRestore := by
  unfold State.takeLoss
  rw [advance_phase, h]
  rfl

/-! ## The outage start (R5) -/

/-- The outage start up to its event. -/
def State.outageBegun (s : State) : State :=
  State.entryTimer (State.loadRota (State.startQ
    { s.setPhase .outage with phase := { (s.setPhase .outage).phase with outageTime := 0 } }))

theorem outageStart_eq (s : State) : s.outageStart = (s.outageBegun.raisePhase .mainsLost).levelTest := rfl

theorem outageBegun_only (s : State) : Only [.phase, .acct, .sched, .test] s s.outageBegun := by
  have h1 : Only [.phase] s
      { s.setPhase .outage with phase := { (s.setPhase .outage).phase with outageTime := 0 } } :=
    (setPhase_only s _).trans (.setPhase _ _)
  have h2 : Only [.phase, .acct] s _ := h1.next (startQ_only _)
  have h3 : Only [.phase, .acct, .test] s _ := h2.next (loadRota_only _)
  exact h3.next (entryTimer_only _)

theorem outageBegun_phase (s : State) :
    s.outageBegun.phase = { s.phase with phase := .outage, uv := 0, outageTime := 0 } := by
  unfold State.outageBegun
  rw [(entryTimer_only _).phase]
  rfl

/-- Q becomes the charge of the start level (R75). -/
theorem outageBegun_acct (s : State) :
    let q := s.acct.cap * s.phase.startLevel / 100
    s.outageBegun.acct = { s.acct with q := q, level := q * 100 / s.acct.cap } := by
  unfold State.outageBegun
  rw [(entryTimer_only _).acct]
  rfl

theorem outageBegun_test (s : State) :
    s.outageBegun.test = { s.test with counters := s.outageBegun.test.counters, minute := 0 } := by
  unfold State.outageBegun
  rw [(entryTimer_only _).test]
  rfl

/-- The rota counters are loaded (R119). -/
theorem outageBegun_counters (s : State) (i : Fin 16) : s.outageBegun.test.counters.get i =
    if i.val < s.header.rotaN then (s.store.plan.rota i).interval else s.test.counters.get i := by
  unfold State.outageBegun
  rw [(entryTimer_only _).test]
  exact Tab.get_ofFn ..

theorem entryTimer_sched (s : State) : s.entryTimer.sched = { s.sched with
    timer := if s.scan.latch then s.sched.timer else some (s.clock + s.header.period * Config.sec) } := by
  unfold State.entryTimer
  cases s.scan.latch <;> rfl

theorem outageBegun_sched (s : State) : s.outageBegun.sched = { s.sched with
    timer := if s.scan.latch then s.sched.timer else some (s.clock + s.header.period * Config.sec) } := by
  unfold State.outageBegun
  rw [entryTimer_sched]
  rfl

/-- The first event of an outage (R4, R5). -/
theorem outageBegun_raised (s : State) :
    let q := s.acct.cap * s.phase.startLevel / 100
    Raised .phase noSubject (q * 100 / s.acct.cap : Nat) PhaseCause.mainsLost.code s.store.plan.tag s
      (s.outageBegun.raisePhase .mainsLost) := by
  have only := outageBegun_only s
  have level : s.outageBegun.level = s.acct.cap * s.phase.startLevel / 100 * 100 / s.acct.cap := by
    unfold State.level
    rw [outageBegun_phase, outageBegun_acct]
    rfl
  have h := raise_raised s.outageBegun .phase noSubject s.outageBegun.level PhaseCause.mainsLost.code
  rw [level, only.store] at h
  exact h.congr (congrArg Path.ownq only.path.symm) only.ev.symm (by rw [← level]; rfl) (by rw [← level]; rfl)
    ⟨rfl, rfl, rfl, rfl, rfl⟩

/-- The level test of an outage start with no round, no test and no switch to apply: it stays in OUTAGE, or makes one
entry (R6). -/
theorem levelTest_outage {s : State} (hp : s.phase.phase = .outage) (hrun : s.sched.running = false)
    (htest : s.test.run = none) (hheld : s.store.target = none ∨ s.store.load ≠ none) :
    (s.acct.level < s.header.cutoff → QuietEntry .cutoff .level none s s.levelTest) ∧
    (s.header.cutoff ≤ s.acct.level → s.acct.level < s.header.reserve →
      QuietEntry .reserve .level s.sched.timer s s.levelTest) ∧
    (s.header.cutoff ≤ s.acct.level → s.header.reserve ≤ s.acct.level → s.levelTest = s) := by
  unfold State.levelTest
  dsimp only
  rw [if_pos hp]
  refine ⟨fun h => ?_, fun h1 h2 => ?_, fun h1 h2 => ?_⟩
  · rw [if_pos h]; exact enterCutoff_quiet htest hheld nofun
  · rw [if_neg (by omega), if_pos h2]; exact enterReserve_quiet hrun _
  · rw [if_neg (by omega), if_neg (by omega)]

/-- Settles O17: the outage start, then by its level test no entry or one. -/
theorem lossInMainsStartsOutage : Obligations.LossInMainsStartsOutage := by
  intro τ t0 s hline hready hphase hm hq hdue hheld hrun htest now q level
  have lost := lost_only s τ
  have begun := outageBegun_only (s.lost τ)
  have only : Only [.phase, .acct, .sched, .test, .ev, .path] (s.lost τ)
      ((s.lost τ).outageBegun.raisePhase .mainsLost) := begun.next (raisePhase_only _ _)
  have bphase := outageBegun_phase (s.lost τ)
  have bacct : (s.lost τ).outageBegun.acct = { s.acct with q := q, level := level } := outageBegun_acct (s.lost τ)
  have bsched := outageBegun_sched (s.lost τ)
  have btest := outageBegun_test (s.lost τ)
  have raised := outageBegun_raised (s.lost τ)
  have counters := outageBegun_counters (s.lost τ)
  refine ⟨(s.advance τ).takeLoss, exec_lossQualified_due hline hready hm hq hdue, ?_⟩
  rw [takeLoss_mains τ hphase, outageStart_eq]
  have event := raisePhase_only (s.lost τ).outageBegun .mainsLost
  generalize hmid : (s.lost τ).outageBegun.raisePhase .mainsLost = mid at only raised event ⊢
  have mphase : mid.phase = { s.phase with
      phase := .outage, mains := .lost, qual := .stopped, uv := 0, outageTime := 0 } := event.phase.trans bphase
  have macct : mid.acct = { s.acct with q := q, level := level } := event.acct.trans bacct
  have mstore : mid.store = s.store := only.store
  have msched : mid.sched = { s.sched with
      timer := if s.scan.latch then s.sched.timer else some (now + s.header.period * Config.sec) } :=
    event.sched.trans bsched
  have mtest : mid.test = { s.test with counters := mid.test.counters, minute := 0 } := by
    rw [event.test]; exact btest
  have mpath : mid.path = { s.path with ownq := mid.path.ownq } := by
    have h : mid.path = { (s.lost τ).outageBegun.path with ownq := mid.path.ownq } := by rw [← hmid]; rfl
    rw [begun.path] at h; exact h
  have mmarks : QueueAndMarks s mid := by
    rw [← hmid]
    exact (QueueAndMarks.of_path (s := s) (t := (s.lost τ).outageBegun) begun.path).trans (raise_queueAndMarks ..)
  have mhead : mid.header = s.header := header_congr mstore
  have mlevel : mid.acct.level = level := by rw [macct]
  obtain ⟨cut, reserve, stay⟩ := levelTest_outage (s := mid) (by rw [mphase]) (by rw [msched]; exact hrun)
    (by rw [mtest]; exact htest) (by rw [mstore]; exact hheld)
  rw [mhead, mlevel] at cut reserve stay
  have first : Raised .phase noSubject level PhaseCause.mainsLost.code s.store.plan.tag s mid :=
    raised.congr rfl rfl rfl rfl ⟨rfl, rfl, rfl, rfl, rfl⟩
  have midCounters : ∀ i, mid.test.counters.get i =
      if i.val < s.header.rotaN then (s.store.plan.rota i).interval else s.test.counters.get i := fun i => by
    rw [event.test]; exact counters i
  by_cases hlow : level < s.header.reserve ∨ level < s.header.cutoff
  case pos =>
    obtain ⟨phase, timer, entry, hph, htm⟩ : ∃ phase timer, QuietEntry phase .level timer mid mid.levelTest ∧
        phase = (if level < s.header.cutoff then .cutoff
          else if level < s.header.reserve then .reserve else .outage) ∧
        timer = (if level < s.header.cutoff then none
          else if s.scan.latch then s.sched.timer else some (now + s.header.period * Config.sec)) := by
      by_cases hc : level < s.header.cutoff
      · exact ⟨_, _, cut hc, by rw [if_pos hc], by rw [if_pos hc]⟩
      · have hr : level < s.header.reserve := by omega
        exact ⟨_, _, reserve (by omega) hr, by rw [if_neg hc, if_pos hr], by rw [if_neg hc, msched]⟩
    have hne : phase ≠ .mains := by rw [hph]; split <;> [nofun; (split <;> nofun)]
    have eo := entry.only
    have second := entry.raised hne
    rw [mlevel, mstore] at second
    have frame : Only [.phase, .ports, .gate, .acct, .sched, .test, .ev, .path] (s.advance τ) mid.levelTest :=
      (lost.next (n := [.phase, .acct, .sched, .test, .ev, .path]) only).next eo
    refine ⟨frame.clock, ?_, by rw [eo.acct, macct], by rw [eo.test]; exact mtest,
      fun i => by rw [eo.test]; exact midCounters i, ?_, frame.sameBut_advance, fun h1 h2 => ?_, fun _ => ?_⟩
    · rw [entry.phase_eq, mphase, ← hph]
    · rw [second.2]
    · omega
    · refine ⟨by rw [entry.timer_eq, htm], mmarks.trans entry.queueAndMarks, mid.ev, mid.path.ownq,
        first.congr rfl rfl rfl rfl ⟨?_, ?_, ?_, ?_, ?_⟩,
        second.congr rfl rfl rfl rfl ⟨rfl, rfl, rfl, rfl, rfl⟩⟩
      · rw [mstore]
      · rw [mstore]
      · rw [mpath]
      · rw [mphase]
      · rw [only.clock]; rfl
  case neg =>
    have hc : s.header.cutoff ≤ level := by omega
    have hr : s.header.reserve ≤ level := by omega
    rw [stay hc hr]
    have frame : Only [.phase, .ports, .gate, .acct, .sched, .test, .ev, .path] (s.advance τ) mid :=
      lost.next only
    refine ⟨frame.clock, ?_, macct, mtest, midCounters, by rw [first.2], frame.sameBut_advance, fun _ _ => ?_,
      fun h => absurd h hlow⟩
    · rw [mphase, if_neg (by omega), if_neg (by omega)]
    · exact ⟨only.ports, only.gate, msched, mpath, first⟩

/-! ## The return from RESTORE (R13) -/

/-- A timer started before the entry. -/
theorem QuietEntry.after_sched {phase : Phase} {cause : PhaseCause} {timer : Option Nat} {s s' t : State}
    (h : Only [.sched] s s') (k : QuietEntry phase cause timer s' t) : QuietEntry phase cause timer s t := by
  obtain ⟨x, ht, hx, hp, htm⟩ := k
  exact ⟨x, ht, h.marking.next hx, by rw [hp, h.phase], htm⟩

/-- The round timer at an entry to OUTAGE or RESERVE (R89). -/
def State.timerAtEntry (s : State) : Option Nat :=
  if s.scan.latch then s.sched.timer else some (s.clock + s.header.period * Config.sec)

theorem entryTimer_timer (s : State) : s.entryTimer.sched.timer = s.timerAtEntry := by rw [entryTimer_sched]; rfl

theorem returnFromRestore_quiet {s : State} (hrun : s.sched.running = false) (htest : s.test.run = none)
    (hheld : s.store.target = none ∨ s.store.load ≠ none) :
    QuietEntry
      (if s.acct.level < s.header.cutoff then .cutoff
        else if s.acct.level < s.header.reserve then .reserve else .outage)
      .mainsLost (if s.acct.level < s.header.cutoff then none else s.timerAtEntry) s s.returnFromRestore := by
  unfold State.returnFromRestore
  dsimp only
  by_cases hc : s.acct.level < s.header.cutoff
  · simp only [if_pos hc]
    exact enterCutoff_quiet htest hheld nofun
  · simp only [if_neg hc]
    by_cases hr : s.acct.level < s.header.reserve
    · simp only [if_pos hr]
      have h := enterReserve_quiet (s := s.entryTimer) (by rw [entryTimer_sched]; exact hrun) .mainsLost
      rw [entryTimer_timer] at h
      exact h.after_sched (entryTimer_only s)
    · simp only [if_neg hr]
      have hset := setPhase_only s .outage
      have htimer := entryTimer_only (s.setPhase .outage)
      refine ⟨_, rfl, (hset.next (n := [.phase, .sched]) htimer).marking.mono, ?_, ?_⟩
      · rw [htimer.phase]; rfl
      · rw [entryTimer_timer]; rfl

/-- Above both levels the return touches no port (R13). -/
theorem returnFromRestore_outage {s : State} (hc : s.header.cutoff ≤ s.acct.level)
    (hr : s.header.reserve ≤ s.acct.level) :
    s.returnFromRestore = ((s.setPhase .outage).entryTimer).raisePhase .mainsLost := by
  unfold State.returnFromRestore
  dsimp only
  rw [if_neg (by omega), if_neg (by omega)]

theorem cutoffReached_only {s : State} (cause : PhaseCause) :
    Only [.phase, .ports, .gate, .acct, .sched, .test, .ev, .path] s (s.cutoffReached cause) := by
  unfold State.cutoffReached
  have h : Only [.phase, .acct] s
      (if cause = .undervoltage then (s.setPhase .cutoff).lowerQ else s.setPhase .cutoff) := by
    split
    · exact (setPhase_only s _).next (lowerQ_only _)
    · exact (setPhase_only s _).mono
  exact (h.next (n := [.phase, .ports, .gate, .acct, .sched, .test, .ev, .path]) (workEnded_only _)).next
    (raisePhase_only _ _)

/-- An operation `pre` that leaves the plan store alone and does not see the pending target, followed by the target
applied: what a statement with the target taken away and put back says of it. -/
theorem applied_after {pre : State → State} {s : State} {target : Bank} (hstore : (pre s).store = s.store)
    (hpre : pre (s.withTarget none) = (pre s).withTarget none) (ht : s.store.target = some target)
    (hr : s.store.ready = true) (hl : s.store.load = none) :
    State.SwitchApplied target { (pre (s.withTarget none)).applyTarget with store := s.store }
      (pre s).applyTarget := by
  rw [hpre, applyTarget_none rfl, withTarget_restored hstore,
    applyTarget_some (by rw [hstore]; exact ht) (by rw [hstore]; exact hr) (by rw [hstore]; exact hl)]
  exact applySwitch_applied target (pre s)

/-- Settles O18: one entry by the last level, then the pending switch. -/
theorem lossInRestoreReturnsByLevel : Obligations.LossInRestoreReturnsByLevel := by
  intro τ t0 s hline hready hphase hm hq hdue hrun htest now level
  have lost := lost_only s τ
  have exec_eq : ∀ x, exec (.lossQualified τ) (s.withTarget x) =
      .next ((s.lost τ).withTarget x).returnFromRestore := fun x =>
    (exec_lossQualified_due (s := s.withTarget x) hline hready hm hq hdue).trans
      (congrArg _ (takeLoss_restore (s := s.withTarget x) τ hphase))
  refine ⟨fun target ht hl hlow => ?_, fun hheld => ?_⟩
  · have cut : ∀ x, ((s.lost τ).withTarget x).returnFromRestore =
        (((s.lost τ).withTarget x).cutoffReached .mainsLost).applyTarget := fun x => by
      have hlow' : ((s.lost τ).withTarget x).acct.level < ((s.lost τ).withTarget x).header.cutoff := hlow
      rw [State.returnFromRestore, ← enterCutoff_eq]
      exact if_pos hlow'
    refine ⟨_, _, (exec_eq none).trans (by rw [cut]), (exec_eq s.store.target).trans (congrArg _ (cut _)), ?_⟩
    exact applied_after (pre := (State.cutoffReached · .mainsLost)) (s := s.lost τ)
      (cutoffReached_only .mainsLost).store (cutoffReached_withTarget _ _ nofun) ht hready hl
  · have entry := returnFromRestore_quiet (s := s.lost τ) hrun htest hheld
    have eo := entry.only
    have frame : Only [.phase, .ports, .gate, .sched, .ev, .path] (s.advance τ) (s.lost τ).returnFromRestore :=
      lost.next eo
    have notMains : (if level < s.header.cutoff then Phase.cutoff
        else if level < s.header.reserve then .reserve else .outage) ≠ .mains := by
      split
      · nofun
      · split <;> nofun
    refine ⟨_, exec_eq s.store.target, frame.clock, entry.phase_eq, entry.timer_eq,
      QueueAndMarks.trans (t := s.lost τ) ⟨rfl, rfl⟩ entry.queueAndMarks,
      (entry.raised notMains).congr rfl rfl rfl rfl ⟨rfl, rfl, rfl, rfl, rfl⟩, frame.sameBut_advance,
      fun hr hc => ?_⟩
    have stay := returnFromRestore_outage (s := s.lost τ) hc hr
    have htimer := entryTimer_only ((s.lost τ).setPhase .outage)
    have raised := raisePhase_only ((s.lost τ).setPhase .outage).entryTimer .mainsLost
    have keep : ((s.lost τ).withTarget s.store.target).returnFromRestore = _ := stay
    rw [keep]
    refine ⟨raised.ports.trans htimer.ports, raised.gate.trans htimer.gate, ?_, ?_⟩
    · rw [raised.sched, entryTimer_sched]; rfl
    · have h : (State.raisePhase ((s.lost τ).setPhase .outage).entryTimer .mainsLost).path =
          { ((s.lost τ).setPhase .outage).entryTimer.path with
            ownq := (State.raisePhase ((s.lost τ).setPhase .outage).entryTimer .mainsLost).path.ownq } := rfl
      rw [htimer.path] at h
      exact h

/-! ## The qualified restore (R11) -/

/-- A restore that falls due in READY is taken (R1 to R3). -/
theorem exec_restoreQualified_due {τ t0 : Nat} {s : State} (hline : s.line = .released)
    (hready : s.store.ready = true) (hm : s.phase.mains = .returning) (hq : s.phase.qual = .running t0)
    (hdue : t0 + s.restoreTime ≤ max s.clock τ) :
    exec (.restoreQualified τ) s = .next (s.advance τ).takeRestore := by
  have time : (s.advance τ).qualifyTime = s.restoreTime := by simp [State.qualifyTime, hm, State.restoreTime]
  have taken : (s.advance τ).requalify = (s.advance τ).takeRestore := by
    unfold State.requalify
    rw [advance_phase, hq]
    dsimp only
    rw [time, advance_clock, if_pos hdue]
    simp [State.qualify, hready, hm]
  simp only [exec, execRestoreQualified, timed_released hline, advance_phase, if_pos hm, taken]

/-- The part at the moment a restore is taken. -/
def State.regained (s : State) (τ : Nat) : State :=
  { s.advance τ with phase := { s.phase with mains := .present, qual := .stopped } }

theorem takeRestore_outage {s : State} (τ : Nat) (h : s.phase.phase.active = true ∨ s.phase.phase = .cutoff) :
    (s.advance τ).takeRestore = (s.regained τ).enterRestore := by
  unfold State.takeRestore
  dsimp only
  rw [advance_phase, if_pos h]
  rfl

theorem restoreReached_only (s : State) :
    Only [.phase, .ports, .gate, .sched, .test, .ev, .path] s s.restoreReached := by
  unfold State.restoreReached
  exact ((setPhase_only s .restore).next (n := [.phase, .ports, .gate, .sched, .test, .ev, .path])
    (workEnded_only _)).next (raisePhase_only _ _)

theorem restoreReached_queueAndMarks (s : State) : QueueAndMarks s s.restoreReached := by
  unfold State.restoreReached
  exact (QueueAndMarks.trans (t := s.setPhase .restore) ⟨rfl, rfl⟩ (workEnded_queueAndMarks _)).trans
    (raise_queueAndMarks ..)

theorem restoreReached_port (s : State) (p : Fin 48) :
    s.restoreReached.port p = (s.setPhase .restore).workEnded.port p := by
  unfold State.restoreReached
  exact (raisePhase_only _ _).port p

/-- What the entry to RESTORE makes of a port's record (R9, R11): its work is over and its switch open, and a port
that had no work is as before. -/
structure Port.Rested (x y : Port) : Prop where
  idle : ¬y.Busy
  switch : y.switch = false
  kept : Port.WorkKept x y
  ended : x.Busy → y.action = .idle
  same : ¬x.Busy → y = x

theorem rested_of_not_testing {x : Port} (hok : x.SwitchOk) (ht : x.action ≠ .testing) :
    Port.Rested x x.workEnded := by
  by_cases hb : x.Busy
  · have hw : x.action = .feeding ∨ x.action = .waking := by
      rcases hb with h | h | h
      · exact .inl h
      · exact .inr h
      · exact absurd h ht
    obtain ⟨ha, hs⟩ := workEnded_busy hw
    exact ⟨by simp [Port.Busy, ha], hs, workEnded_kept x, fun _ => ha, fun hn => absurd hb hn⟩
  · have e := workEnded_not_busy hb
    refine ⟨by rwa [e], ?_, workEnded_kept x, fun h => absurd h hb, fun _ => e⟩
    rw [e]
    cases hsw : x.switch with
    | false => rfl
    | true =>
      exact absurd (by rcases hok hsw with h | h | h <;> simp [Port.Busy, h]) hb

theorem rested_of_testing {x : Port} (ht : x.action = .testing) (y : Option TestSummary) :
    Port.Rested x { x with action := .idle, switch := false, lastTest := y } :=
  ⟨by simp [Port.Busy], rfl, ⟨rfl, rfl, rfl, rfl, rfl⟩, fun _ => rfl, fun h => absurd (.inr (.inr ht)) h⟩

theorem restoreReached_rested {s : State} (hok : s.SwitchesOk) (hat : s.AttachOk) (p : Fin 48) :
    Port.Rested (s.port p) (s.restoreReached.port p) := by
  rw [restoreReached_port]
  have stopped : (s.setPhase .restore).stopAll.port p = (s.port p).workEnded := stopAll_port _ p
  cases hr : s.test.run with
  | none =>
    have ht : (s.port p).action ≠ .testing := fun h => by simpa [hr] using (hat p).mp h
    rw [workEnded_idle (s := s.setPhase .restore) hr, stopped]
    exact rested_of_not_testing (hok p) ht
  | some run =>
    have ended := workEnded_ended (s := s.setPhase .restore) hr
    by_cases hp : p = run.port
    · have ht : (s.port p).action = .testing := (hat p).mpr (by rw [hr, hp]; rfl)
      rw [workEnded_testing ht] at stopped
      subst hp
      rw [ended.port, stopped]
      exact rested_of_testing ht _
    · have ht : (s.port p).action ≠ .testing := fun h => by
        have := (hat p).mp h
        rw [hr] at this
        exact hp (Option.some.inj this).symm
      rw [ended.others p hp, stopped]
      exact rested_of_not_testing (hok p) ht

theorem restoreReached_phase (s : State) : s.restoreReached.phase = { s.phase with phase := .restore } := by
  unfold State.restoreReached
  rw [(raisePhase_only _ _).phase, (workEnded_only _).phase]
  rfl

theorem restoreReached_sched (s : State) :
    s.restoreReached.sched = Sched.abandoned { s.sched with queue := [] } := by
  unfold State.restoreReached
  rw [(raisePhase_only _ _).sched, workEnded_sched]
  rfl

theorem restoreReached_gate (s : State) : s.restoreReached.gate = { s.gate with waiting := [] } := by
  unfold State.restoreReached
  rw [(raisePhase_only _ _).gate, workEnded_gate]
  rfl

theorem restoreReached_test (s : State) :
    s.restoreReached.test = (s.setPhase .restore).workEnded.test := by
  unfold State.restoreReached
  exact (raisePhase_only _ _).test

/-- The event of the entry to RESTORE (R4). -/
theorem restoreReached_raised (s : State) :
    Raised .phase noSubject s.acct.level PhaseCause.mainsBack.code s.store.plan.tag (s.setPhase .restore).workEnded
      s.restoreReached := by
  have only := workEnded_only (s.setPhase .restore)
  have level : (s.setPhase .restore).workEnded.level = s.acct.level := by
    unfold State.level
    rw [only.phase, if_neg (by nofun), only.acct]
    rfl
  have h := raise_raised (s.setPhase .restore).workEnded .phase noSubject
    (s.setPhase .restore).workEnded.level PhaseCause.mainsBack.code
  rw [level, only.store] at h
  unfold State.restoreReached State.raisePhase
  rw [level]
  exact h

/-- A slot of an abandoned round in the last-round record (R100, R104). -/
theorem abandoned_recorded (x : Slot) : x.abandoned.recorded =
    { action := x.action, port := x.port, outcome := x.outcome.getD .abandoned } := by
  unfold Slot.abandoned
  cases h : x.outcome <;> simp [Slot.recorded, h]

theorem abandoned_record {x : Sched} (h : x.running = true) (i : Fin 4) :
    x.abandoned.record.number = x.number ∧ x.abandoned.record.slots.get i =
      { action := (x.slots.get i).action, port := (x.slots.get i).port
        outcome := (x.slots.get i).outcome.getD .abandoned } := by
  have hrec : x.abandoned.record =
      { number := x.number, slots := (x.slots.map Slot.abandoned).map Slot.recorded } := by
    unfold Sched.abandoned; rw [h]; rfl
  rw [hrec]
  refine ⟨rfl, ?_⟩
  rw [Tab.get_map, Tab.get_map, abandoned_recorded]

/-- Settles O19: the entry to RESTORE, then the pending switch. -/
theorem restoreEndsAllWork : Obligations.RestoreEndsAllWork := by
  intro τ t0 s hline hready hphase hm hq hdue hok hat now entered result
  have exec_eq : ∀ x, exec (.restoreQualified τ) (s.withTarget x) =
      .next ((s.regained τ).withTarget x).restoreReached.applyTarget := fun x =>
    (exec_restoreQualified_due (s := s.withTarget x) hline hready hm hq hdue).trans
      (congrArg _ ((takeRestore_outage (s := s.withTarget x) τ hphase).trans (enterRestore_eq _)))
  refine ⟨fun target ht hl => ?_, fun hheld => ?_⟩
  · exact ⟨_, _, exec_eq none, exec_eq s.store.target, applied_after (pre := State.restoreReached)
      (s := s.regained τ) (restoreReached_only _).store (restoreReached_withTarget _ _) ht hready hl⟩
  have only := restoreReached_only (s.regained τ)
  have held : (s.regained τ).restoreReached.applyTarget = (s.regained τ).restoreReached :=
    applyTarget_held (by rw [only.store]; exact hheld)
  have frame : Only [.phase, .ports, .gate, .sched, .test, .ev, .path] (s.advance τ) (s.regained τ).restoreReached :=
    Only.next (.setPhase (s.advance τ) _) only
  have sched : (s.regained τ).restoreReached.sched = Sched.abandoned { s.sched with queue := [] } :=
    restoreReached_sched _
  have test := restoreReached_test (s.regained τ)
  have rested : ∀ p, Port.Rested (s.port p) ((s.regained τ).restoreReached.port p) :=
    restoreReached_rested (s := s.regained τ) hok hat
  have raised := restoreReached_raised (s.regained τ)
  have wonly := workEnded_only ((s.regained τ).setPhase .restore)
  have situation : SameRaise ((s.regained τ).setPhase .restore).workEnded (s.regained τ).restoreReached := by
    have ro := raisePhase_only ((s.regained τ).setPhase .restore).workEnded .mainsBack
    have hinst : ((s.regained τ).restoreReached).path.inst =
        ((s.regained τ).setPhase .restore).workEnded.path.inst := (raise_queueAndMarks ..).path_inst
    exact ⟨congrArg Store.ready ro.store, congrArg (fun x => x.plan.tag) ro.store, hinst,
      congrArg PhaseCtl.phase ro.phase, ro.clock⟩
  refine ⟨_, (exec_eq s.store.target).trans (congrArg _ held), frame.clock, restoreReached_phase _,
    by rw [sched]; rfl, restoreReached_gate _, by rw [sched]; rfl, by rw [sched]; rfl, by rw [sched]; rfl,
    by rw [sched]; rfl, fun hrun => ?record, fun hrun => ?unrecorded, fun p => ?ports,
    by rw [test]; exact workEnded_run _, fun hr => ?idle, fun run hr => ?last, ?minute,
    QueueAndMarks.trans (t := s.regained τ) ⟨rfl, rfl⟩ (restoreReached_queueAndMarks _),
    fun hr => ?entered, fun run hr => ?both, frame.sameBut_advance⟩
  case record =>
    rw [sched]
    exact ⟨(abandoned_record (x := { s.sched with queue := [] }) hrun 0).1,
      fun i => (abandoned_record (x := { s.sched with queue := [] }) hrun i).2⟩
  case unrecorded =>
    rw [sched]
    unfold Sched.abandoned
    dsimp only
    rw [hrun]
    rfl
  case ports =>
    obtain ⟨idle, switch, kept, ended, same⟩ := rested p
    exact ⟨idle, switch, kept.deficit, kept.u, kept.trips, kept.attempts, kept.feedSecs, ended, same⟩
  case idle =>
    rw [test, workEnded_idle (s := (s.regained τ).setPhase .restore) hr, (stopAll_marking _).test]
    rfl
  case last =>
    rw [test, (workEnded_ended (s := (s.regained τ).setPhase .restore) hr).test]
    rfl
  case minute =>
    rw [test, workEnded_minute]
    rfl
  case entered =>
    have stop := stopAll_marking ((s.regained τ).setPhase .restore)
    have idle := workEnded_idle (s := (s.regained τ).setPhase .restore) hr
    rw [idle] at raised
    exact .of_one (raised.congr stop.ownq.symm stop.ev.symm rfl rfl ⟨rfl, rfl, rfl, rfl, rfl⟩)
  case both =>
    have stop := stopAll_marking ((s.regained τ).setPhase .restore)
    have ended := workEnded_ended (s := (s.regained τ).setPhase .restore) hr
    exact .of_two (ended.event.congr stop.ownq.symm stop.ev.symm rfl rfl ⟨rfl, rfl, rfl, rfl, rfl⟩) raised
      situation

end Sys2Proof.Machine
end

section
/-! PROOFS. The end of the settling (O20). -/

namespace Sys2Proof.Machine
open Sys2Proof

theorem countPorts_eq_zero {s : State} {f : Port → Bool} (h : ∀ p, f (s.port p) = false) : s.countPorts f = 0 := by
  unfold State.countPorts
  rw [ports_list, List.countP_eq_zero]
  intro x hx
  obtain ⟨p, -, rfl⟩ := List.mem_map.mp hx
  simp [h p]

theorem dirty_any_eq_false {t : Tab Bool 48} (h : ∀ p, t.get p = false) : t.val.any id = false := by
  rw [List.any_eq_false]
  intro x hx
  obtain ⟨i, hi, rfl⟩ := List.mem_iff_getElem.mp hx
  have hi' : i < 48 := by rw [← t.property]; exact hi
  have : t.val[i] = false := h ⟨i, hi'⟩
  simp [this]

/-- The three settling conditions (R12), each as the rule words it. -/
theorem settled_of {s : State} (hready : s.store.ready = true) (hphase : s.phase.phase = .restore)
    (hrun : s.test.run = none) (hbusy : ∀ p, ¬(s.port p).Busy)
    (hmarks : s.unconfigured = true ∨ s.path.dirtyInst = false ∧ ∀ p, s.path.dirty.get p = false) :
    s.settled = true := by
  have work : s.countPorts (fun x => x.action = .feeding || x.action = .waking || x.action = .testing) = 0 :=
    countPorts_eq_zero fun p => by
      have h := hbusy p
      simp only [Port.Busy, not_or] at h
      simp [h]
  have marks : (s.unconfigured || !s.anyDirty) = true := by
    rcases hmarks with h | ⟨hi, hd⟩
    · rw [h]; rfl
    · unfold State.anyDirty
      rw [hi, dirty_any_eq_false hd]
      simp
  unfold State.settled
  rw [hready, hphase, hrun, work, marks]
  rfl

theorem clearCharge_marking (s : State) : Marking [.ports, .path] s s.clearCharge :=
  (Only.setPorts s _).marking.next (Marking.fold _ (fun x p => markPortIf_marking x _ p) _)

theorem clearCharge_port (s : State) (p : Fin 48) : s.clearCharge.port p = (s.port p).noCharge := by
  unfold State.clearCharge
  rw [(Marking.fold _ (fun x p => markPortIf_marking x _ p) _).port p]
  exact Tab.get_map ..

/-- A port whose deficit was not 0 is marked (R43). -/
theorem clearCharge_dirty (s : State) (p : Fin 48) : s.clearCharge.path.dirty.get p =
    (s.path.dirty.get p || (s.canMark && decide ((s.port p).deficit ≠ 0))) := by
  have hcan : State.canMark { s with ports := s.ports.map Port.noCharge } = s.canMark := rfl
  unfold State.clearCharge
  rw [fold_markPortIf_dirty (fun p => (s.port p).deficit != 0), hcan]
  simp only [mem_allPorts, decide_true, Bool.true_and, Bool.and_comm]
  cases s.canMark <;> simp [bne, Bool.beq_eq_decide_eq]

/-- The entry to MAINS up to its event. -/
def State.settling (s : State) : State :=
  { s.clearCharge.setPhase .mains with phase := { (s.clearCharge.setPhase .mains).phase with outageTime := 0 } }

theorem settle_eq (s : State) : s.settle = s.settling.raisePhase .settled := rfl

theorem settling_marking (s : State) : Marking [.phase, .ports, .path] s s.settling := by
  have h : Only [.phase] s.clearCharge s.settling := (setPhase_only _ _).trans (.setPhase _ _)
  exact (clearCharge_marking s).next h.marking

theorem settling_phase (s : State) :
    s.settling.phase = { s.phase with phase := .mains, uv := 0, outageTime := 0 } := by
  have h : s.settling.phase = { s.clearCharge.phase with phase := .mains, uv := 0, outageTime := 0 } := rfl
  rw [h, (clearCharge_marking s).phase]

/-- In MAINS the level reported is the start level (R77). -/
theorem settling_level (s : State) : s.settling.level = s.phase.startLevel := by
  unfold State.level
  rw [settling_phase, if_pos rfl]

/-- Settles O20: the charge figures cleared, then the event with the start level. -/
theorem settlingReturnsToMains : Obligations.SettlingReturnsToMains := by
  intro τ s hline hready hphase hrun hbusy hmarks
  have settled : (s.advance τ).settled = true := settled_of (s := s.advance τ) hready hphase hrun hbusy hmarks
  have eq : exec (.settlingComplete τ) s = .next ((s.advance τ).settling.raisePhase .settled) := by
    simp only [exec, execSettlingComplete, timed_released hline, if_pos settled, settle_eq]
  have mk := settling_marking (s.advance τ)
  have level := settling_level (s.advance τ)
  have ro := raisePhase_only (s.advance τ).settling .settled
  have frame : Only [.phase, .ports, .ev, .path] (s.advance τ) ((s.advance τ).settling.raisePhase .settled) :=
    mk.toOnly.next ro
  have raised : Raised .phase noSubject s.phase.startLevel PhaseCause.settled.code s.store.plan.tag s
      ((s.advance τ).settling.raisePhase .settled) := by
    have h := raise_raised (s.advance τ).settling .phase noSubject (s.advance τ).settling.level
      PhaseCause.settled.code
    unfold State.raisePhase
    rw [level, mk.store] at h
    rw [level]
    exact h.congr mk.ownq.symm mk.ev.symm rfl rfl ⟨rfl, rfl, rfl, rfl, rfl⟩
  refine ⟨_, eq, frame.clock, ?_, fun p => ?_, fun p => ?_, ?_,
    QueueAndMarks.trans (t := (s.advance τ).settling) mk.marks.1 (raise_queueAndMarks ..), ?_, raised,
    frame.sameBut_advance⟩
  · rw [ro.phase, settling_phase]; rfl
  · rw [ro.port]; exact clearCharge_port (s.advance τ) p
  · exact clearCharge_dirty (s.advance τ) p
  · unfold State.level
    rw [ro.phase]
    exact level
  · exact mk.dirtyInst

end Sys2Proof.Machine
end

section
/-! PROOFS. What goes on inside a period end: issuing in a running round, the narrowing of a round, deferred retries,
notices and alarm events (R32, R72, R97, R103, R127). -/

namespace Sys2Proof.Machine
open Sys2Proof

/-! ## Fields that a round and a plan change keep -/

section
variable {s t : State} (h : Calm s t)
include h

theorem Calm.phase_eq : t.phase = s.phase := congrArg (fun v => v.1) h.calm

theorem Calm.acct_eq : { t.acct with hold := false } = { s.acct with hold := false } :=
  congrArg (fun v => v.2.1) h.calm

theorem Calm.ages_eq : t.scan.ages = s.scan.ages := congrArg (fun v => v.2.2.2.2.2.1.2.1) h.calm

theorem Calm.minute_eq : t.test.minute = s.test.minute := congrArg (fun v => v.2.2.2.2.2.2.1.2.2.2.2) h.calm

theorem Calm.clock_eq : t.clock = s.clock := congrArg (fun v => v.2.1) h.view

theorem Calm.line_eq : t.line = s.line := congrArg (fun v => v.1) h.view

theorem Calm.lastEnd_eq : t.acct.lastEnd = s.acct.lastEnd := by
  have e := congrArg Acct.lastEnd h.acct_eq
  exact e

end

/-! ## Issuing in a running round (R97) -/

/-- Slot `i` is not resolved yet. -/
def State.SlotOpen (s : State) (i : Fin 4) : Prop := (s.sched.slots.get i).outcome = none

/-- Port `p` stands in an unresolved slot. -/
def State.InOpenSlot (s : State) (p : Fin 48) : Prop := ∃ i, (s.sched.slots.get i).port = some p ∧ s.SlotOpen i

/-- What issuing can do (R97, R98): slots that are resolved stay so, ports outside the open slots keep their records
and come by no request, no entry joins the queue, and of the test unit a test may have started. -/
structure Issued (s t : State) : Prop where
  slotPort : ∀ i, (t.sched.slots.get i).port = (s.sched.slots.get i).port
  resolved : ∀ i, ¬s.SlotOpen i → (t.sched.slots.get i).outcome = (s.sched.slots.get i).outcome
  port : ∀ p, ¬s.InOpenSlot p → t.port p = s.port p
  request : ∀ r ∈ t.gate.waiting, (∃ q ∈ s.gate.waiting, q.port = r.port) ∨ s.InOpenSlot r.port
  queue : ∀ e ∈ t.sched.queue, e ∈ s.sched.queue
  test : t.test = { s.test with run := t.test.run, owner := t.test.owner }

namespace Issued

variable {s t u : State}

theorem refl (s : State) : Issued s s :=
  ⟨fun _ => rfl, fun _ _ => rfl, fun _ _ => rfl, fun r hr => .inl ⟨r, hr, rfl⟩, fun _ => id, rfl⟩

theorem slotOpen (h : Issued s t) {i : Fin 4} (hi : t.SlotOpen i) : s.SlotOpen i := by
  by_contra hn
  exact hn (by unfold State.SlotOpen; rw [← h.resolved i hn]; exact hi)

theorem inOpenSlot (h : Issued s t) {p : Fin 48} (hp : t.InOpenSlot p) : s.InOpenSlot p := by
  obtain ⟨i, hi, ho⟩ := hp
  exact ⟨i, h.slotPort i ▸ hi, h.slotOpen ho⟩

theorem trans (h : Issued s t) (k : Issued t u) : Issued s u where
  slotPort i := (k.slotPort i).trans (h.slotPort i)
  resolved i hi := (k.resolved i fun ho => hi (h.slotOpen ho)).trans (h.resolved i hi)
  port p hp := (k.port p fun ho => hp (h.inOpenSlot ho)).trans (h.port p hp)
  request r hr := by
    rcases k.request r hr with ⟨q, hq, hqr⟩ | ho
    · rw [← hqr]; exact h.request q hq
    · exact .inr (h.inOpenSlot ho)
  queue e he := h.queue e (k.queue e he)
  test := by rw [k.test, h.test]

/-- A change of the gate that brings in requests of ports in open slots alone. -/
theorem setGate (s : State) {x : Gate}
    (h : ∀ r ∈ x.waiting, (∃ q ∈ s.gate.waiting, q.port = r.port) ∨ s.InOpenSlot r.port) :
    Issued s { s with gate := x } :=
  ⟨fun _ => rfl, fun _ _ => rfl, fun _ _ => rfl, h, fun _ => id, rfl⟩

theorem unrequest (s : State) (p : Fin 48) : Issued s (s.unrequest p) :=
  setGate s fun r hr => .inl ⟨r, (List.mem_filter.mp hr).1, rfl⟩

theorem request_of_open (h : Issued s t) {p : Fin 48} (hp : s.InOpenSlot p) (k : ReqKind) :
    Issued s (t.request p k) := by
  refine ⟨h.slotPort, h.resolved, h.port, fun r hr => ?_, h.queue, h.test⟩
  change r ∈ if t.gateClosed then t.gate.waiting else _ at hr
  split at hr
  · exact h.request r hr
  · rcases List.mem_append.mp hr with hr | hr
    · exact h.request r hr
    · rw [List.mem_singleton.mp hr]; exact .inr hp

/-- A slot that was open resolved, whatever has happened since. -/
theorem resolve (h : Issued s t) {i : Fin 4} (hi : s.SlotOpen i) (o : SlotOutcome) : Issued s (t.resolve i o) := by
  refine ⟨fun j => ?_, fun j hj => ?_, h.port, h.request, h.queue, h.test⟩
  · show ((t.sched.slots.set i _).get j).port = _
    rw [Tab.get_set]
    split
    · next e => subst e; exact h.slotPort j
    · exact h.slotPort j
  · show ((t.sched.slots.set i _).get j).outcome = _
    rw [Tab.get_set, if_neg (by rintro rfl; exact hj hi)]
    exact h.resolved j hj

end Issued

theorem openSlot_spec {s : State} {p : Fin 48} {i : Fin 4} (h : s.openSlot p = some i) :
    (s.sched.slots.get i).port = some p ∧ s.SlotOpen i := by
  unfold State.openSlot at h
  split at h
  · have := List.find?_some h
    simp only [Bool.and_eq_true, decide_eq_true_eq, Option.isNone_iff_eq_none] at this
    exact this
  · cases h

theorem resolvePort_issued (s : State) (p : Fin 48) (o : SlotOutcome) : Issued s (s.resolvePort p o) := by
  unfold State.resolvePort
  split
  · next i hi => exact (Issued.refl s).resolve (openSlot_spec hi).2 o
  · exact .refl s

theorem checkHead_issued (s : State) : Issued s s.checkHead := by
  unfold State.checkHead
  split
  · exact .refl s
  · split
    · exact .refl s
    · split
      · exact .refl s
      · split
        · exact (Issued.unrequest s _).trans (resolvePort_issued _ _ _)
        · refine Issued.setGate s fun r hr => ?_
          obtain ⟨q, hq, rfl⟩ := List.mem_map.mp hr
          exact .inl ⟨q, hq, by split <;> rfl⟩

theorem dequeue_issued (s : State) (p : Fin 48) : Issued s (s.dequeue p) := by
  have h := dequeue_marking s p
  have hs := dequeue_sched s p
  exact ⟨fun i => by rw [hs], fun i _ => by rw [hs], fun q _ => h.port q,
    fun r hr => .inl ⟨r, by rwa [h.gate] at hr, rfl⟩,
    fun e he => by rw [hs] at he; exact (List.mem_filter.mp he).1, by rw [h.test]⟩

theorem setPort_issued {s : State} {p : Fin 48} (hp : s.InOpenSlot p) (x : Port) : Issued s (s.setPort p x) :=
  ⟨fun _ => rfl, fun _ _ => rfl, fun q hq => port_setPort_ne s p q x fun e => hq (e ▸ hp),
    fun r hr => .inl ⟨r, hr, rfl⟩, fun _ => id, rfl⟩

theorem markPort_issued (s : State) (p : Fin 48) : Issued s (s.markPort p) :=
  ⟨fun _ => rfl, fun _ _ => rfl, fun _ _ => rfl, fun r hr => .inl ⟨r, hr, rfl⟩, fun _ => id, rfl⟩

theorem attach_issued {s : State} {p : Fin 48} (hp : s.InOpenSlot p) (kind : TestKind) :
    Issued s (s.attach p kind) := by
  unfold State.attach
  dsimp only
  have left : ∀ x, Issued s (((s.setPort p x).markPort p).dequeue p) := fun x =>
    ((setPort_issued hp x).trans (markPort_issued _ p)).trans (dequeue_issued _ p)
  split
  · exact ((left _).trans (.unrequest _ p)).trans (resolvePort_issued _ _ _)
  · exact left _

/-- A test start from an open slot, the slot resolved after it (R99). -/
theorem startTest_issued {s : State} {i : Fin 4} {p : Fin 48} (hi : s.SlotOpen i)
    (hp : (s.sched.slots.get i).port = some p) (kind : TestKind) (sup : Bool) (minutes : Nat)
    (rota : Option (Fin 16)) (o : SlotOutcome) :
    Issued s ((s.startTest p kind sup minutes rota).resolve i o) := by
  have inSlot : s.InOpenSlot p := ⟨i, hp, hi⟩
  have started : ∀ run owner, Issued s { s.attach p kind with test :=
      { (s.attach p kind).test with run := run, owner := owner } } := fun run owner =>
    have h := attach_issued inSlot kind
    ⟨h.slotPort, h.resolved, h.port, h.request, h.queue, by dsimp only; rw [h.test]⟩
  unfold State.startTest
  dsimp only
  split
  · refine Issued.resolve ?_ hi o
    exact Issued.request_of_open (started _ _) inSlot .pulse
  · exact (started _ _).resolve hi o

theorem issueSlot_issued {s : State} {i : Fin 4} {p : Fin 48} (hi : s.SlotOpen i)
    (hp : (s.sched.slots.get i).port = some p) : Issued s (s.issueSlot i p) := by
  have resolved : ∀ o, Issued s (s.resolve i o) := (Issued.refl s).resolve hi
  unfold State.issueSlot
  dsimp only
  split
  · exact resolved _
  · split
    · split
      · split
        · exact startTest_issued hi hp ..
        · exact resolved _
      · exact resolved _
    · split
      · exact resolved _
      · split
        · exact resolved _
        · exact ((Issued.refl s).request_of_open ⟨i, hp, hi⟩ _).trans (checkHead_issued _)

theorem firstOpen_spec {s : State} {i : Fin 4} (h : s.firstOpen = some i) : s.SlotOpen i := by
  unfold State.firstOpen at h
  have := List.find?_some h
  rwa [Option.isNone_iff_eq_none] at this

theorem issueSlots_issued (n : Nat) (s : State) : Issued s (State.issueSlots n s) := by
  induction n generalizing s with
  | zero => exact .refl s
  | succ n ih =>
    unfold State.issueSlots
    split
    · exact .refl s
    · next i hi =>
      split
      · exact ((Issued.refl s).resolve (firstOpen_spec hi) _).trans (ih _)
      · next p hp =>
        split
        · exact .refl s
        · exact (issueSlot_issued (firstOpen_spec hi) hp).trans (ih _)

theorem finishRound_issued (s : State) : Issued s s.finishRound := by
  unfold State.finishRound
  split
  · exact ⟨fun _ => rfl, fun _ _ => rfl, fun _ _ => rfl, fun r hr => .inl ⟨r, hr, rfl⟩, fun _ => id, rfl⟩
  · exact .refl s

theorem issueOn_issued (s : State) : Issued s s.issueOn := by
  unfold State.issueOn
  split
  · exact ((checkHead_issued s).trans (issueSlots_issued 9 _)).trans (finishRound_issued _)
  · exact .refl s

theorem openSlot_eq_none_iff {s : State} {p : Fin 48} :
    s.openSlot p = none ↔ (s.sched.running = true → ¬s.InOpenSlot p) := by
  unfold State.openSlot State.InOpenSlot State.SlotOpen
  cases s.sched.running <;> simp [List.find?_eq_none, Option.isNone_iff_eq_none]

/-- Issuing changes no port outside the open slots of the running round. -/
theorem issueOn_port {s : State} {p : Fin 48} (h : s.openSlot p = none) : s.issueOn.port p = s.port p := by
  cases hr : s.sched.running with
  | false => rw [issueOn_idle hr]
  | true => exact (issueOn_issued s).port p (openSlot_eq_none_iff.mp h hr)

theorem issueOn_request {s : State} {p : Fin 48} (h : s.openSlot p = none) (hg : ∀ r ∈ s.gate.waiting, r.port ≠ p) :
    ∀ r ∈ s.issueOn.gate.waiting, r.port ≠ p := by
  cases hr : s.sched.running with
  | false => rwa [issueOn_idle hr]
  | true =>
    rintro r hmem rfl
    rcases (issueOn_issued s).request r hmem with ⟨q, hq, hqr⟩ | ho
    · exact hg q hq hqr
    · exact openSlot_eq_none_iff.mp h hr ho

/-! ## The narrowing of a round (R103) -/

/-- One port's part of the narrowing. -/
def State.narrowSlot (x : State) (p : Fin 48) : State :=
  if x.lowClass p && (x.openSlot p).isSome then
    (if x.slotWaits p then x.unrequest p else x).resolvePort p .phase
  else x

theorem narrowSlots_eq (s : State) : s.narrowSlots = allPorts.foldl State.narrowSlot s := rfl

theorem narrowSlot_only (s : State) (p : Fin 48) : Only [.gate, .sched] s (s.narrowSlot p) := by
  unfold State.narrowSlot
  split
  · refine Only.next (l := [.gate]) ?_ (resolvePort_only _ _ _)
    split
    · exact unrequest_only s p
    · exact .refl s
  · exact .refl s

theorem narrowSlot_issued (s : State) (p : Fin 48) : Issued s (s.narrowSlot p) := by
  unfold State.narrowSlot
  split
  · refine Issued.trans ?_ (resolvePort_issued _ _ _)
    split
    · exact .unrequest s p
    · exact .refl s
  · exact .refl s

theorem narrowSlots_issued (s : State) : Issued s s.narrowSlots := by
  rw [narrowSlots_eq]
  exact fold_keeps Issued.refl Issued.trans _ _ narrowSlot_issued s

theorem narrowSlot_sched {s : State} {p : Fin 48} {i : Fin 4} (hl : s.lowClass p = true)
    (hi : s.openSlot p = some i) : (s.narrowSlot p).sched = (s.resolve i .phase).sched := by
  have ho : ∀ x : State, x.sched = s.sched → (x.resolvePort p .phase).sched = (s.resolve i .phase).sched := by
    intro x hx
    unfold State.resolvePort
    rw [openSlot_congr hx, hi]
    unfold State.resolve
    dsimp only
    rw [hx]
  unfold State.narrowSlot
  rw [hl, hi]
  simp only [Option.isSome_some, Bool.and_self, if_true]
  split
  · exact ho _ rfl
  · exact ho _ rfl

/-- The narrowing of another port leaves a port's open slot open. -/
theorem narrowSlot_openSlot {s : State} {p q : Fin 48} (h : p ≠ q) : (s.narrowSlot q).openSlot p = s.openSlot p := by
  cases hq : s.openSlot q with
  | none => unfold State.narrowSlot; rw [hq]; simp
  | some i =>
    cases hl : s.lowClass q with
    | false => unfold State.narrowSlot; rw [hl]; simp
    | true =>
      rw [openSlot_congr (t := s.narrowSlot q) (s := s.resolve i .phase) (narrowSlot_sched hl hq)]
      have hi := (openSlot_spec hq).1
      have same : ∀ j, (decide (((s.resolve i .phase).sched.slots.get j).port = some p) &&
            ((s.resolve i .phase).sched.slots.get j).outcome.isNone) =
          (decide ((s.sched.slots.get j).port = some p) && (s.sched.slots.get j).outcome.isNone) := fun j => by
        show (decide (((s.sched.slots.set i _).get j).port = some p) &&
          ((s.sched.slots.set i _).get j).outcome.isNone) = _
        rw [Tab.get_set]
        split
        · next e =>
          subst e
          have hne : ¬(some q = some p) := fun e => h (Option.some.inj e).symm
          simp [hi, hne]
        · rfl
      unfold State.openSlot
      simp only [same]
      rfl

theorem lowClass_congr {s t : State} (h : t.store = s.store) (p : Fin 48) : t.lowClass p = s.lowClass p := by
  unfold State.lowClass; rw [policy_congr h]

/-- R103: the open slots of class 1 and 2 ports are resolved PHASE. -/
theorem narrowSlots_phase {s : State} {p : Fin 48} {i : Fin 4} (hl : s.lowClass p = true)
    (hi : s.openSlot p = some i) : (s.narrowSlots.sched.slots.get i).outcome = some .phase := by
  rw [narrowSlots_eq]
  have hmem := mem_allPorts p
  generalize allPorts = l at hmem ⊢
  induction l generalizing s with
  | nil => cases hmem
  | cons q rest ih =>
    rw [List.foldl_cons]
    by_cases hq : p = q
    · subst hq
      have now : ((s.narrowSlot p).sched.slots.get i).outcome = some .phase := by
        rw [narrowSlot_sched hl hi]
        show ((s.sched.slots.set i _).get i).outcome = _
        rw [Tab.get_set_same]
      have later : Issued (s.narrowSlot p) (rest.foldl State.narrowSlot (s.narrowSlot p)) :=
        fold_keeps Issued.refl Issued.trans _ _ narrowSlot_issued _
      rw [later.resolved i (by unfold State.SlotOpen; rw [now]; nofun), now]
    · exact ih (by rw [lowClass_congr (narrowSlot_only s q).store]; exact hl)
        (by rw [narrowSlot_openSlot hq]; exact hi) ((List.mem_cons.mp hmem).resolve_left hq)

end Sys2Proof.Machine
end

section
/-! PROOFS. The accounting period end taken apart: what it counts, the two tests of its phase entries, and what it
hands on (R6, R7, R14, R58, R67, R119; O22). -/

namespace Sys2Proof.Machine
open Sys2Proof

/-! ## The steps of a period end in READY -/

/-- The accounting unit's own work at a period end: the charge of every port and of the string, and the load. -/
@[irreducible] def State.counted (s : State) : State :=
  State.accountPeriod { s with acct := { s.acct with lastEnd := s.acct.lastEnd + Config.sec } }

/-- The undervoltage test and then the level test (R6, R7; log 12). -/
@[irreducible] def State.levelTested (s : State) : State := s.undervoltage.levelTest

/-- The outage time, the channel ages and the rota minute advanced (R14, R58, R119). -/
@[irreducible] def State.ticked (s : State) : State := s.outageTick.ageChannels.rotaTick

/-- The deferred retries requested and the notices sent (R32, R72). -/
@[irreducible] def State.offered (s : State) : State := s.placeAllDeferred.notices

/-- A period end in READY up to the scanner's tick. -/
@[irreducible] def State.periodUntilTick (s : State) : State := s.counted.levelTested.ticked.offered.evalAlarms

/-- The part of a period end before a running round goes on. -/
@[irreducible] def State.periodPart (s : State) : State := s.periodUntilTick.trigger .tick

theorem ticked_eq (s : State) : s.ticked = s.outageTick.ageChannels.rotaTick := by unfold State.ticked; rfl

theorem offered_eq (s : State) : s.offered = s.placeAllDeferred.notices := by unfold State.offered; rfl

theorem periodUntilTick_eq (s : State) :
    s.periodUntilTick = s.counted.levelTested.ticked.offered.evalAlarms := by unfold State.periodUntilTick; rfl

theorem periodPart_eq (s : State) : s.periodPart = s.periodUntilTick.trigger .tick := by unfold State.periodPart; rfl

theorem periodEnd_ready {s : State} (h : s.store.ready = true) : s.periodEnd = s.periodPart.runRound := by
  unfold State.periodEnd State.handOn
  rw [if_pos h]
  unfold State.periodPart State.periodUntilTick State.offered State.ticked State.levelTested State.counted
  rfl

theorem exec_accountingPeriodEnd_due {τ : Nat} {s : State} (hline : s.line = .released)
    (hdue : s.acct.lastEnd + Config.sec ≤ max s.clock τ) :
    exec (.accountingPeriodEnd τ) s = .next (s.advance τ).periodEnd := by
  have h : (s.advance τ).acct.lastEnd + Config.sec ≤ (s.advance τ).clock := hdue
  simp only [exec, execAccountingPeriodEnd, timed_released hline, if_pos h]

theorem exec_accountingPeriodEnd_early {τ : Nat} {s : State} (hline : s.line = .released)
    (hearly : max s.clock τ < s.acct.lastEnd + Config.sec) :
    exec (.accountingPeriodEnd τ) s = .next (s.advance τ) := by
  have h : ¬(s.advance τ).acct.lastEnd + Config.sec ≤ (s.advance τ).clock := Nat.not_le.mpr hearly
  simp only [exec, execAccountingPeriodEnd, timed_released hline, if_neg h]

theorem exec_periodPart {τ : Nat} {s : State} (hline : s.line = .released) (hready : s.store.ready = true)
    (hdue : s.acct.lastEnd + Config.sec ≤ max s.clock τ) :
    exec (.accountingPeriodEnd τ) s = .next (s.advance τ).periodPart.runRound := by
  rw [exec_accountingPeriodEnd_due hline hdue, periodEnd_ready (s := s.advance τ) hready]

/-! ## What is counted (R67 to R80) -/

theorem counted_marking (s : State) : Marking [.ports, .acct, .path] s s.counted := by
  unfold State.counted State.accountPeriod
  have h1 : Marking [.ports, .acct, .path] s _ :=
    ((Only.setAcct s { s.acct with lastEnd := s.acct.lastEnd + Config.sec }).marking.next
      (n := [.ports, .acct, .path]) (feedSeconds_only _).marking).next (accountPorts_marking _)
  have h2 := (accountQ_only (State.accountPorts (State.feedSeconds
    { s with acct := { s.acct with lastEnd := s.acct.lastEnd + Config.sec } }))).next (n := [.acct])
    ((accountLoad_only _).next (n := [.acct]) (reHold_only _))
  exact h1.next h2.marking

theorem counted_lastEnd (s : State) : s.counted.acct.lastEnd = s.acct.lastEnd + Config.sec := by
  unfold State.counted State.accountPeriod State.reHold State.accountLoad State.accountQ
  rw [(accountPorts_marking _).acct, (feedSeconds_only _).acct]
  dsimp only
  split <;> rfl

/-- The charge and its level after the period's step 3, outside MAINS (R75). -/
theorem counted_charge {s : State} (h : s.phase.phase ≠ .mains) :
    let q := (clampI 0 s.acct.cap (s.acct.q - s.value 49)).toNat
    s.counted.acct.cap = s.acct.cap ∧ s.counted.acct.q = q ∧ s.counted.acct.level = q * 100 / s.acct.cap := by
  have hp := accountPorts_marking (State.feedSeconds
    { s with acct := { s.acct with lastEnd := s.acct.lastEnd + Config.sec } })
  have hf := feedSeconds_only { s with acct := { s.acct with lastEnd := s.acct.lastEnd + Config.sec } }
  unfold State.counted State.accountPeriod State.reHold State.accountLoad State.accountQ State.value
  dsimp only
  rw [hp.acct, hf.acct, hp.phase, hf.phase, hp.scan, hf.scan]
  dsimp only
  rw [if_neg h]
  exact ⟨rfl, rfl, rfl⟩

/-- A port's accounting leaves its feed, its wake and its test alone. -/
def Port.ChargeCounted (x y : Port) : Prop :=
  y = { x with deficit := y.deficit, u := y.u, key := y.key, taper := y.taper, feedSecs := y.feedSecs, fed := y.fed }

theorem account_counted (pol : Policy) (inMains : Bool) (i : Nat) (x : Port) :
    Port.ChargeCounted x (pol.account inMains i x.fedSecond) := by
  have reckoned : ∀ y : Port, Port.ChargeCounted x y → Port.ChargeCounted x (y.reckon pol) := fun y h => by
    unfold Port.ChargeCounted at h ⊢
    rw [h]
    rfl
  have fed : Port.ChargeCounted x x.fedSecond := by
    unfold Port.fedSecond; split <;> rfl
  unfold Policy.account
  split
  · exact fed
  · split
    · exact reckoned _ (by unfold Port.ChargeCounted at fed ⊢; rw [fed])
    · exact reckoned _ (by unfold Port.ChargeCounted at fed ⊢; rw [fed])

theorem counted_port (s : State) (p : Fin 48) : Port.ChargeCounted (s.port p) (s.counted.port p) := by
  unfold State.counted State.accountPeriod
  rw [(reHold_only _).port p, (accountLoad_only _).port p, (accountQ_only _).port p]
  unfold State.accountPorts
  rw [(Marking.fold _ (fun x p => markPortIf_marking x _ p) _).port p]
  refine (congrArg (Port.ChargeCounted (s.port p)) (Tab.get_ofFn ..)).mpr ?_
  have hfed : (State.feedSeconds { s with acct := { s.acct with lastEnd := s.acct.lastEnd + Config.sec } }).port p =
    (s.port p).fedSecond := Tab.get_map ..
  rw [hfed]
  exact account_counted _ _ _ _

/-! ## The two tests (R6, R7) -/

/-- The undervoltage count after this period end, before it is judged (R7). -/
def State.uvCount (s : State) : Nat := if s.value 48 < (s.busFloor : Int) then s.phase.uv + 1 else 0

/-- The undervoltage count taken. -/
def State.uvCounted (s : State) : State := { s with phase := { s.phase with uv := s.uvCount } }

theorem uvCounted_only (s : State) : Only [.phase] s s.uvCounted := .setPhase s _

/-- What the two tests of a period end can do. -/
inductive Judgement (s : State) : State → Prop
  | inactive (h : s.phase.phase.active = false) : Judgement s s
  | undervoltage (h : s.phase.phase.active = true) (huv : 5 ≤ s.uvCount) :
      Judgement s (s.enterCutoff .undervoltage)
  | cutoff (h : s.phase.phase.active = true) (huv : s.uvCount < 5) (hl : s.acct.level < s.header.cutoff) :
      Judgement s (s.uvCounted.enterCutoff .level)
  | reserve (h : s.phase.phase = .outage) (huv : s.uvCount < 5) (hc : s.header.cutoff ≤ s.acct.level)
      (hl : s.acct.level < s.header.reserve) : Judgement s (s.uvCounted.enterReserve .level)
  | stay (h : s.phase.phase.active = true) (huv : s.uvCount < 5) (hc : s.header.cutoff ≤ s.acct.level)
      (hl : s.phase.phase = .outage → s.header.reserve ≤ s.acct.level) : Judgement s s.uvCounted

theorem active_iff (x : Phase) : x.active = true ↔ x = .outage ∨ x = .reserve := by cases x <;> decide

theorem levelTest_of_not_active {s : State} (h : s.phase.phase.active = false) : s.levelTest = s := by
  have hn : ¬(s.phase.phase = .outage ∨ s.phase.phase = .reserve) := by rw [← active_iff, h]; nofun
  rw [not_or] at hn
  unfold State.levelTest
  rw [if_neg hn.1, if_neg hn.2]

/-- Every entry to CUTOFF leaves CUTOFF. -/
theorem enterCutoff_phase (s : State) (cause : PhaseCause) :
    (s.enterCutoff cause).phase = { s.phase with phase := .cutoff, uv := 0 } := by
  rw [enterCutoff_eq, (applyTarget_inner _).toCalm.phase_eq, cutoffReached_phase]

theorem enterReserve_phase (s : State) (cause : PhaseCause) :
    (s.enterReserve cause).phase = { s.phase with phase := .reserve, uv := 0 } := by
  rw [enterReserve_eq, (issueOn_marking _).phase, (raisePhase_only _ _).phase, reserveReached_phase]

theorem levelTested_judgement (s : State) : Judgement s s.levelTested := by
  unfold State.levelTested
  cases ha : s.phase.phase.active with
  | false =>
    have hu : s.undervoltage = s := by unfold State.undervoltage; rw [ha]; rfl
    rw [hu, levelTest_of_not_active ha]
    exact .inactive ha
  | true =>
    by_cases huv : 5 ≤ s.uvCount
    · have hu : s.undervoltage = s.enterCutoff .undervoltage := by
        unfold State.undervoltage
        rw [if_pos ha]
        exact if_pos huv
      rw [hu, levelTest_of_not_active (by rw [enterCutoff_phase]; rfl)]
      exact .undervoltage ha huv
    · have hu : s.undervoltage = s.uvCounted := by
        unfold State.undervoltage
        rw [if_pos ha]
        exact if_neg huv
      have huv' : s.uvCount < 5 := Nat.not_le.mp huv
      rw [hu]
      unfold State.levelTest
      show Judgement s (if s.phase.phase = .outage then
          if s.acct.level < s.header.cutoff then s.uvCounted.enterCutoff .level
          else if s.acct.level < s.header.reserve then s.uvCounted.enterReserve .level else s.uvCounted
        else if s.phase.phase = .reserve then
          if s.acct.level < s.header.cutoff then s.uvCounted.enterCutoff .level else s.uvCounted
        else s.uvCounted)
      by_cases ho : s.phase.phase = .outage
      · rw [if_pos ho]
        split
        · next hl => exact .cutoff ha huv' hl
        · next hc =>
          split
          · next hl => exact .reserve ho huv' (Nat.not_lt.mp hc) hl
          · next hl => exact .stay ha huv' (Nat.not_lt.mp hc) fun _ => Nat.not_lt.mp hl
      · have hr : s.phase.phase = .reserve := ((active_iff _).mp ha).resolve_left ho
        rw [if_neg ho, if_pos hr]
        split
        · next hl => exact .cutoff ha huv' hl
        · next hc => exact .stay ha huv' (Nat.not_lt.mp hc) fun h => absurd h ho

end Sys2Proof.Machine
end

section
/-! PROOFS. What a period end advances (R14, R20, R49, R58, R67, R119; O22). -/

namespace Sys2Proof.Machine
open Sys2Proof

/-! ## What the two tests leave alone -/

/-- No time, no age and no counter of the rota has moved from `s` to `t`, and of the phase controller the phase and the
undervoltage count alone. -/
structure ClocksKept (s t : State) : Prop where
  line : t.line = s.line
  clock : t.clock = s.clock
  phase : t.phase = { s.phase with phase := t.phase.phase, uv := t.phase.uv }
  ages : t.scan.ages = s.scan.ages
  lastEnd : t.acct.lastEnd = s.acct.lastEnd
  minute : t.test.minute = s.test.minute

theorem ClocksKept.refl (s : State) : ClocksKept s s := ⟨rfl, rfl, rfl, rfl, rfl, rfl⟩

theorem ClocksKept.trans {s t u : State} (h : ClocksKept s t) (k : ClocksKept t u) : ClocksKept s u :=
  ⟨k.line.trans h.line, k.clock.trans h.clock, by rw [k.phase, h.phase], k.ages.trans h.ages,
    k.lastEnd.trans h.lastEnd, k.minute.trans h.minute⟩

theorem Calm.clocksKept {s t : State} (h : Calm s t) : ClocksKept s t :=
  ⟨h.line_eq, h.clock_eq, by rw [h.phase_eq], h.ages_eq, h.lastEnd_eq, h.minute_eq⟩

theorem cutoffReached_acct (s : State) (cause : PhaseCause) :
    (s.cutoffReached cause).acct = if cause = .undervoltage then s.lowerQ.acct else s.acct := by
  unfold State.cutoffReached
  rw [(raisePhase_only _ _).acct, (workEnded_only _).acct]
  split <;> rfl

theorem cutoffReached_minute (s : State) (cause : PhaseCause) :
    (s.cutoffReached cause).test.minute = s.test.minute := by
  unfold State.cutoffReached
  rw [(raisePhase_only _ _).test, workEnded_minute]
  split <;> rfl

theorem cutoffReached_clocksKept (s : State) (cause : PhaseCause) : ClocksKept s (s.cutoffReached cause) where
  line := (cutoffReached_only cause).line
  clock := (cutoffReached_only cause).clock
  phase := by rw [cutoffReached_phase]
  ages := by rw [(cutoffReached_only cause).scan]
  lastEnd := by rw [cutoffReached_acct]; split <;> rfl
  minute := cutoffReached_minute s cause

theorem enterCutoff_clocksKept (s : State) (cause : PhaseCause) : ClocksKept s (s.enterCutoff cause) := by
  rw [enterCutoff_eq]
  exact (cutoffReached_clocksKept s cause).trans (applyTarget_inner _).toCalm.clocksKept

/-- An entry to CUTOFF that applies no bank switch (log 25). -/
theorem enterCutoff_only {s : State} (hheld : s.store.target = none ∨ s.store.load ≠ none) (cause : PhaseCause) :
    Only [.phase, .ports, .gate, .acct, .sched, .test, .ev, .path] s (s.enterCutoff cause) := by
  rw [enterCutoff_eq, applyTarget_held (by rwa [(cutoffReached_only cause).store])]
  exact cutoffReached_only cause

theorem enterReserve_only (s : State) (cause : PhaseCause) :
    Only [.phase, .ports, .gate, .sched, .test, .ev, .path] s (s.enterReserve cause) := by
  rw [enterReserve_eq]
  have h : Only [.phase, .ports, .gate, .sched, .ev, .path] s (s.reserveReached.raisePhase cause) :=
    (reserveReached_marking s).toOnly.next (raisePhase_only _ cause)
  exact h.next (issueOn_marking _).toOnly

/-- An entry to RESERVE may start a test in the running round, and changes nothing else of the test unit. -/
theorem enterReserve_test (s : State) (cause : PhaseCause) : (s.enterReserve cause).test =
    { s.test with run := (s.enterReserve cause).test.run, owner := (s.enterReserve cause).test.owner } := by
  rw [enterReserve_eq]
  have h := (issueOn_issued (s.reserveReached.raisePhase cause)).test
  rw [(raisePhase_only _ _).test, (reserveReached_marking s).test] at h
  exact h

theorem enterReserve_clocksKept (s : State) (cause : PhaseCause) : ClocksKept s (s.enterReserve cause) where
  line := (enterReserve_only s cause).line
  clock := (enterReserve_only s cause).clock
  phase := by rw [enterReserve_phase]
  ages := by rw [(enterReserve_only s cause).scan]
  lastEnd := by rw [(enterReserve_only s cause).acct]
  minute := by rw [enterReserve_test]

theorem uvCounted_clocksKept (s : State) : ClocksKept s s.uvCounted := ⟨rfl, rfl, rfl, rfl, rfl, rfl⟩

/-- The two tests move no clock, whatever they enter. -/
theorem Judgement.clocksKept {s t : State} (h : Judgement s t) : ClocksKept s t := by
  cases h with
  | inactive => exact .refl s
  | undervoltage => exact enterCutoff_clocksKept s _
  | cutoff => exact (uvCounted_clocksKept s).trans (enterCutoff_clocksKept _ _)
  | reserve => exact (uvCounted_clocksKept s).trans (enterReserve_clocksKept _ _)
  | stay => exact uvCounted_clocksKept s

/-- What `PlanStays` says of an entry to CUTOFF. -/
theorem State.PlanStays.held {s t : State} (stays : s.PlanStays t) (ha : s.phase.phase.active = true)
    (hc : t.phase.phase = .cutoff) : s.store.target = none ∨ s.store.load ≠ none := by
  rcases stays with h | h | h | h
  · exact .inl h
  · exact .inr h
  · exact absurd hc h
  · rw [ha] at h; cases h

/-- Where no bank switch is applied the two tests leave the scanner and the plan store alone. -/
theorem Judgement.only {s t : State} (h : Judgement s t) (stays : s.PlanStays t) :
    Only [.phase, .ports, .gate, .acct, .sched, .test, .ev, .path] s t := by
  have held := stays.held
  cases h with
  | inactive => exact .refl s
  | undervoltage ha => exact enterCutoff_only (held ha (by rw [enterCutoff_phase])) _
  | cutoff ha => exact (uvCounted_only s).next (enterCutoff_only (s := s.uvCounted) (held ha (by rw [enterCutoff_phase])) _)
  | reserve => exact (uvCounted_only s).next (enterReserve_only _ _)
  | stay => exact (uvCounted_only s).mono

/-- In OUTAGE and RESERVE the two tests leave the rota counters alone. -/
theorem Judgement.counters {s t : State} (h : Judgement s t) (ha : t.phase.phase.active = true) :
    t.test.counters = s.test.counters := by
  cases h with
  | inactive => rfl
  | undervoltage => rw [enterCutoff_phase] at ha; cases ha
  | cutoff => rw [enterCutoff_phase] at ha; cases ha
  | reserve => rw [enterReserve_test]; rfl
  | stay => rfl

/-! ## What is advanced -/

theorem ticked_marking (s : State) : Marking [.phase, .scan, .test, .path] s s.ticked := by
  have h : Marking [.phase, .scan, .path] s s.outageTick.ageChannels :=
    (outageTick_only s).marking.next (ageChannels_marking _)
  rw [ticked_eq]
  exact h.next (rotaTick_only _).marking

/-- The outage time advances outside MAINS (R14). -/
theorem ticked_phase (s : State) : s.ticked.phase = { s.phase with
    outageTime := if s.phase.phase = .mains then s.phase.outageTime else min max32 (s.phase.outageTime + 1) } := by
  rw [ticked_eq, (rotaTick_only _).phase, (ageChannels_marking _).phase]
  rfl

theorem ageChannels_scan (s : State) :
    s.ageChannels.scan = { s.scan with ages := s.scan.ages.map fun n => min 255 (n + 1) } := by
  unfold State.ageChannels
  rw [(Marking.fold _ (fun x p => markPortIf_marking x _ p) _).scan]

theorem ticked_scan (s : State) :
    s.ticked.scan = { s.scan with ages := s.scan.ages.map fun n => min 255 (n + 1) } := by
  rw [ticked_eq, (rotaTick_only _).scan, ageChannels_scan]
  rfl

/-- The rota minute and its counters (R119). -/
theorem ticked_test (s : State) : s.ticked.test =
    if s.phase.phase.active then
      if s.test.minute + 1 < 60 then { s.test with minute := s.test.minute + 1 }
      else { s.test with minute := 0, counters := s.test.counters.map fun n => n - 1 }
    else s.test := by
  have h : Marking [.phase, .scan, .path] s s.outageTick.ageChannels :=
    (outageTick_only s).marking.next (ageChannels_marking _)
  have hp : s.outageTick.ageChannels.phase.phase = s.phase.phase := by rw [(ageChannels_marking _).phase]; rfl
  rw [ticked_eq]
  unfold State.rotaTick
  rw [hp, h.test]
  split
  · split <;> rfl
  · exact h.test

theorem offered_marking (s : State) : Marking [.ports, .gate, .sched, .path] s s.offered := by
  rw [offered_eq]
  exact (placeAllDeferred_marking s).next (notices_marking _)

/-- What comes after the clocks, up to the tick, leaves them alone. -/
theorem periodUntilTick_only (s : State) :
    Only [.ports, .gate, .sched, .ev, .path] s.counted.levelTested.ticked s.periodUntilTick := by
  rw [periodUntilTick_eq]
  exact (offered_marking _).toOnly.next (evalAlarms_only _)

theorem periodPart_only (s : State) :
    Only [.ports, .gate, .scan, .sched, .ev, .path] s.counted.levelTested.ticked s.periodPart := by
  rw [periodPart_eq]
  exact (periodUntilTick_only s).next (trigger_only _ _)

/-- The phase is the one the two tests leave. -/
theorem periodPart_phase (s : State) : s.periodPart.phase = { s.counted.levelTested.phase with
    outageTime := if s.counted.levelTested.phase.phase = .mains then s.counted.levelTested.phase.outageTime
      else min max32 (s.counted.levelTested.phase.outageTime + 1) } := by
  rw [(periodPart_only s).phase, ticked_phase]

theorem periodPart_store (s : State) : s.periodPart.store = s.counted.levelTested.store := by
  rw [(periodPart_only s).store, (ticked_marking _).store]

/-- MAINS is neither entered nor left by the two tests. -/
theorem Judgement.mains_iff {s t : State} (h : Judgement s t) : t.phase.phase = .mains ↔ s.phase.phase = .mains := by
  have left : s.phase.phase.active = true → s.phase.phase ≠ .mains := by rintro ha hm; rw [hm] at ha; cases ha
  cases h with
  | inactive => rfl
  | undervoltage ha => rw [enterCutoff_phase]; exact ⟨nofun, fun h => absurd h (left ha)⟩
  | cutoff ha => rw [enterCutoff_phase]; exact ⟨nofun, fun h => absurd h (left ha)⟩
  | reserve ho => rw [enterReserve_phase]; exact ⟨nofun, fun h => by rw [ho] at h; cases h⟩
  | stay => rfl

theorem counted_judgement (s : State) : Judgement s.counted s.counted.levelTested := levelTested_judgement _

/-- `PlanStays` told of the moment of the two tests. -/
theorem planStays_counted {s : State} (h : s.PlanStays s.periodPart) :
    s.counted.PlanStays s.counted.levelTested := by
  unfold State.PlanStays at h ⊢
  rw [(counted_marking s).store, (counted_marking s).phase]
  rwa [periodPart_phase] at h

/-! ## LOADING -/

/-- No marks are set in LOADING (R43). -/
theorem markPortIf_of_loading {s : State} (h : s.store.ready = false) (c : Bool) (p : Fin 48) :
    s.markPortIf c p = s := by
  unfold State.markPortIf State.markPort State.canMark
  rw [h]
  cases c <;> rfl

theorem ageChannels_of_loading {s : State} (h : s.store.ready = false) :
    s.ageChannels = { s with scan := { s.scan with ages := s.scan.ages.map fun n => min 255 (n + 1) } } := by
  have idle : ∀ (c : Fin 48 → Bool) (l : List (Fin 48)) (x : State), x.store.ready = false →
      l.foldl (fun x p => x.markPortIf (c p) p) x = x := by
    intro c l x hx
    induction l with
    | nil => rfl
    | cons p rest ih => rw [List.foldl_cons, markPortIf_of_loading hx, ih]
  unfold State.ageChannels
  exact idle _ _ _ h

theorem periodEnd_loading {s : State} (h : s.store.ready = false) : s.periodEnd =
    { s with
      acct := { s.acct with lastEnd := s.acct.lastEnd + Config.sec }
      phase := { s.phase with outageTime :=
        if s.phase.phase = .mains then s.phase.outageTime else min max32 (s.phase.outageTime + 1) }
      scan := { s.scan with ages := s.scan.ages.map fun n => min 255 (n + 1) } } := by
  unfold State.periodEnd
  rw [if_neg (by rw [h]; decide)]
  exact ageChannels_of_loading h

/-! ## O22 -/

/-- A tick trigger that comes at the part's own moment. -/
theorem exec_scanTrigger_tick {τ : Nat} {s : State} (hline : s.line = .released) (h : τ ≤ s.clock) :
    exec (.scanTrigger τ .tick) s = .next (s.trigger .tick) := by
  have now : s.advance τ = s := by unfold State.advance; rw [Nat.max_eq_left h]
  simp only [exec, execScanTrigger, timed_released hline, now]
  rfl

theorem periodUntilTick_clocks (s : State) :
    s.periodUntilTick.line = s.line ∧ s.periodUntilTick.clock = s.clock := by
  have kept := (counted_judgement s).clocksKept
  constructor
  · rw [(periodUntilTick_only s).line, (ticked_marking _).line, kept.line, (counted_marking s).line]
  · rw [(periodUntilTick_only s).clock, (ticked_marking _).clock, kept.clock, (counted_marking s).clock]

/-- What a period end in READY has advanced before a running round goes on. -/
theorem periodPart_advanced (s : State) :
    s.periodPart.clock = s.clock ∧
    s.periodPart.acct.lastEnd = s.acct.lastEnd + Config.sec ∧
    s.periodPart.phase.outageTime =
      (if s.phase.phase = .mains then s.phase.outageTime else min max32 (s.phase.outageTime + 1)) ∧
    ∀ c, s.periodPart.scan.ages.get c = min 255 (s.scan.ages.get c + 1) := by
  have judged := counted_judgement s
  have kept := judged.clocksKept
  have outage : s.counted.levelTested.phase.outageTime = s.phase.outageTime := by
    rw [kept.phase, (counted_marking s).phase]
  refine ⟨?_, ?_, ?_, fun c => ?_⟩
  · rw [periodPart_eq, (trigger_only _ _).clock, (periodUntilTick_clocks s).2]
  · rw [(periodPart_only s).acct, (ticked_marking _).acct, kept.lastEnd, counted_lastEnd]
  · rw [periodPart_phase]
    dsimp only
    rw [outage]
    simp only [judged.mains_iff, (counted_marking s).phase]
  · rw [periodPart_eq, (trigger_inner _ _).toCalm.ages_eq, (periodUntilTick_only s).scan, ticked_scan]
    dsimp only
    rw [Tab.get_map, kept.ages, (counted_marking s).scan]

/-- The rota minute and its counters at a period end in READY (R119). -/
theorem periodPart_rota (s : State) :
    (s.periodPart.phase.phase.active = true →
      s.periodPart.test.minute = (if s.test.minute + 1 < 60 then s.test.minute + 1 else 0) ∧
      ∀ i, s.periodPart.test.counters.get i = if s.test.minute + 1 < 60 then s.test.counters.get i
        else s.test.counters.get i - 1) ∧
    (s.periodPart.phase.phase.active = false → s.periodPart.test.minute = s.test.minute) := by
  have judged := counted_judgement s
  have minute : s.counted.levelTested.test.minute = s.test.minute := by
    rw [judged.clocksKept.minute, (counted_marking s).test]
  rw [periodPart_phase, (periodPart_only s).test, ticked_test]
  dsimp only
  refine ⟨fun ha => ?_, fun ha => ?_⟩
  · have counters : s.counted.levelTested.test.counters = s.test.counters := by
      rw [judged.counters ha, (counted_marking s).test]
    rw [if_pos ha, minute, ← counters]
    split
    · exact ⟨rfl, fun i => rfl⟩
    · exact ⟨rfl, fun i => Tab.get_map ..⟩
  · rw [ha, ← minute]; rfl

theorem periodPart_sameBut {s : State} (h : s.PlanStays s.periodPart) :
    Only [.phase, .ports, .gate, .scan, .acct, .sched, .test, .ev, .path] s s.periodPart := by
  have h1 : Only [.phase, .ports, .gate, .acct, .sched, .test, .ev, .path] s s.counted.levelTested :=
    (counted_marking s).toOnly.next ((counted_judgement s).only (planStays_counted h))
  have h2 : Only [.phase, .ports, .gate, .scan, .acct, .sched, .test, .ev, .path] s s.counted.levelTested.ticked :=
    h1.next (ticked_marking _).toOnly
  exact h2.next (periodPart_only s)

/-- Settles O22: in READY the two tests and what is handed on keep the clocks, which `ticked` alone advances; in
LOADING the period end is one equation. -/
theorem periodEndAdvancesClocks : Obligations.PeriodEndAdvancesClocks := by
  intro τ s hline now
  rcases Nat.lt_or_ge now (s.acct.lastEnd + Config.sec) with hearly | hdue
  · exact ⟨s.advance τ, exec_accountingPeriodEnd_early hline hearly, rfl,
      fun _ => (Only.refl (s.advance τ)).sameBut_advance, fun h => absurd hearly (Nat.not_lt.mpr h)⟩
  cases hready : s.store.ready with
  | false =>
    refine ⟨_, (exec_accountingPeriodEnd_due hline hdue).trans (congrArg _ (periodEnd_loading hready)), rfl,
      fun h => absurd hdue (Nat.not_le.mpr h), fun _ => ⟨rfl, rfl, fun c => Tab.get_map .., fun _ => ?_, nofun⟩⟩
    exact ⟨rfl, rfl, rfl, rfl, fun b hb => by cases b <;> simp_all [Part.Same, State.advance]⟩
  | true =>
    have calm := runRound_calm (s.advance τ).periodPart
    obtain ⟨clock, lastEnd, outageTime, ages⟩ := periodPart_advanced (s.advance τ)
    refine ⟨_, exec_periodPart hline hready hdue, calm.clock_eq.trans clock,
      fun h => absurd hdue (Nat.not_le.mpr h),
      fun _ => ⟨calm.lastEnd_eq.trans lastEnd, ?_, fun c => ?_, nofun, fun _ => ?_⟩⟩
    · rw [calm.phase_eq]; exact outageTime
    · rw [calm.ages_eq]; exact ages c
    obtain ⟨hl, hc⟩ := periodUntilTick_clocks (s.advance τ)
    refine ⟨(s.advance τ).periodUntilTick, (s.advance τ).periodPart, rfl, hl.trans hline, hc,
      (exec_scanTrigger_tick (hl.trans hline) (by rw [hc]; exact Nat.le_max_right ..)).trans (by rw [periodPart_eq]),
      fun stays => ?_⟩
    have only := periodPart_sameBut (s := s.advance τ) stays
    have judged := (counted_judgement (s.advance τ)).only (planStays_counted (s := s.advance τ) stays)
    have scan : (s.advance τ).periodUntilTick.scan =
        { s.scan with ages := (s.advance τ).periodUntilTick.scan.ages } := by
      rw [(periodUntilTick_only _).scan, ticked_scan, judged.scan, (counted_marking _).scan]
      rfl
    obtain ⟨active, passive⟩ := periodPart_rota (s.advance τ)
    refine ⟨?_, ?_, active, passive, only.sameBut_advance⟩
    · rw [scan, State.periodPart, (trigger_inner _ _).toCalm.ages_eq]
    · rw [(periodUntilTick_only _).store, (ticked_marking _).store, judged.store, (counted_marking _).store]
      rfl

end Sys2Proof.Machine
end

section
/-! PROOFS. Unanswered pulses, due retries and deferred retries (R31, R32; O34). -/

namespace Sys2Proof.Machine
open Sys2Proof

/-- R17: retries are permitted in OUTAGE for every class and in RESERVE for class 0. -/
theorem permitted_iff (s : State) (p : Fin 48) : s.permitted p = true ↔
    s.phase.phase = .outage ∨ s.phase.phase = .reserve ∧ (s.policy p).cls = 0 := by
  unfold State.permitted Phase.permits
  cases s.phase.phase <;> simp

/-! ## Deferred retries (R32) -/

/-- A port's record after the deferred retries have been looked at. -/
def Port.retried (permitted hold : Bool) (x : Port) : Port :=
  if x.action = .waking ∧ x.step = some .deferred ∧ hold = false then
    if permitted then { x with step := some .queued, retry := none } else x.wakeEnded
  else x

theorem wakeEnded_of_waking {x : Port} (h : x.action = .waking) :
    x.wakeEnded = { x.clearTimers with action := .idle, switch := false } := if_pos h

theorem retried_of_not {permitted hold : Bool} {x : Port}
    (h : ¬(x.action = .waking ∧ x.step = some .deferred ∧ hold = false)) : x.retried permitted hold = x := if_neg h

/-- A port that has been looked at is DEFERRED no more while the hold is off. -/
theorem retried_settled (permitted hold : Bool) (x : Port) :
    ¬((x.retried permitted hold).action = .waking ∧ (x.retried permitted hold).step = some .deferred ∧
      hold = false) := by
  unfold Port.retried
  split
  · next h =>
    split
    · rintro ⟨-, hs, -⟩; cases hs
    · rw [wakeEnded_of_waking h.1]; rintro ⟨ha, -, -⟩; cases ha
  · assumption

theorem retried_idem (permitted hold : Bool) (x : Port) :
    (x.retried permitted hold).retried permitted hold = x.retried permitted hold :=
  retried_of_not (retried_settled permitted hold x)

theorem placeDeferred_port (s : State) (p q : Fin 48) : (s.placeDeferred p).port q =
    if q = p then (s.port q).retried (s.permitted q) s.acct.hold else s.port q := by
  unfold State.placeDeferred Port.retried
  by_cases hq : q = p
  · subst hq
    rw [if_pos rfl]
    split
    · cases hp : s.permitted q with
      | true => rw [askRetry_permitted hp]; exact port_setPort_same ..
      | false => rw [askRetry_barred hp, endWake_port, if_pos rfl, if_neg nofun]
    · rfl
  · rw [if_neg hq]
    split
    · cases hp : s.permitted p with
      | true => rw [askRetry_permitted hp]; exact port_setPort_ne _ _ _ _ hq
      | false => rw [askRetry_barred hp, endWake_port, if_neg hq]
    · rfl

theorem placeAllDeferred_port (s : State) (p : Fin 48) :
    s.placeAllDeferred.port p = (s.port p).retried (s.permitted p) s.acct.hold := by
  have h := foldl_port (f := State.placeDeferred) (g := fun q => Port.retried (s.permitted q) s.acct.hold)
    (R := fun x => x.phase = s.phase ∧ x.acct = s.acct ∧ x.store = s.store)
    (fun x q hx => by
      have hm := placeDeferred_marking x q
      rw [hm.phase, hm.acct, hm.store]; exact hx)
    (fun x q r hx => by
      obtain ⟨hp, ha, hs⟩ := hx
      rw [placeDeferred_port, permitted_congr hs (by rw [hp]), ha])
    (fun _ => retried_idem _ _) allPorts s ⟨rfl, rfl, rfl⟩ p
  rwa [if_pos (mem_allPorts p)] at h

/-- Port `p` waits DEFERRED with the hold off. -/
def State.RetryDeferred (s : State) (p : Fin 48) : Prop :=
  (s.port p).action = .waking ∧ (s.port p).step = some .deferred ∧ s.acct.hold = false

/-- The request `r` stands at the gate once the deferred retries have been looked at. -/
def State.RequestLeft (s : State) (r : Request) : Prop :=
  (s.RetryDeferred r.port → s.permitted r.port = true) ∧
    (r ∈ s.gate.waiting ∨ s.RetryDeferred r.port ∧ s.gateClosed = false ∧
      r = { port := r.port, kind := .retry, placed := s.clock })

theorem requestLeft_of_not {s : State} {r : Request} (h : ¬s.RetryDeferred r.port) :
    s.RequestLeft r ↔ r ∈ s.gate.waiting :=
  ⟨fun ⟨_, hr⟩ => hr.resolve_right fun hd => h hd.1, fun hr => ⟨fun hd => absurd hd h, .inl hr⟩⟩

theorem mem_request_waiting (s : State) (p : Fin 48) (k : ReqKind) (r : Request) :
    r ∈ (s.request p k).gate.waiting ↔
      r ∈ s.gate.waiting ∨ s.gateClosed = false ∧ r = { port := p, kind := k, placed := s.clock } := by
  unfold State.request
  cases s.gateClosed <;> simp

theorem mem_endWake_waiting (s : State) (p : Fin 48) (r : Request) :
    r ∈ (s.endWake p).gate.waiting ↔ r ∈ s.gate.waiting ∧ ((s.port p).action = .waking → r.port ≠ p) := by
  rw [endWake_gate]
  split
  · next h => simp [h]
  · next h => simp [h]

/-- What looking at one port's deferred retry does to the requests at the gate. -/
theorem placeDeferred_request (s : State) (p : Fin 48) (r : Request) :
    r ∈ (s.placeDeferred p).gate.waiting ↔ if r.port = p then s.RequestLeft r else r ∈ s.gate.waiting := by
  by_cases hd : s.RetryDeferred p
  · have placed : s.placeDeferred p = s.askRetry p := if_pos hd
    rw [placed]
    cases hp : s.permitted p with
    | true =>
      rw [askRetry_permitted hp, mem_request_waiting]
      split
      · next e =>
        subst e
        exact ⟨fun h => ⟨fun _ => hp, h.imp id fun ⟨hg, hr⟩ => ⟨hd, hg, hr⟩⟩,
          fun ⟨_, h⟩ => h.imp id fun ⟨_, hg, hr⟩ => ⟨hg, hr⟩⟩
      · next e =>
        refine ⟨fun h => h.resolve_right ?_, .inl⟩
        rintro ⟨-, rfl⟩
        exact e rfl
    | false =>
      rw [askRetry_barred hp, mem_endWake_waiting]
      split
      · next e => subst e; simp [State.RequestLeft, hd, hp, hd.1]
      · next e => simp [e]
  · have placed : s.placeDeferred p = s := if_neg hd
    rw [placed]
    split
    · next e => subst e; exact (requestLeft_of_not hd).symm
    · rfl

/-- What `RequestLeft` reads of the state. -/
theorem requestLeft_congr {s t : State} {r : Request} (hx : t.port r.port = s.port r.port)
    (hw : r ∈ t.gate.waiting ↔ r ∈ s.gate.waiting) (hp : t.phase.phase = s.phase.phase)
    (ha : t.acct.hold = s.acct.hold) (hs : t.store = s.store) (hc : t.clock = s.clock) (hl : t.scan.latch = s.scan.latch) :
    t.RequestLeft r ↔ s.RequestLeft r := by
  have closed : t.gateClosed = s.gateClosed := by simp [State.gateClosed, hp, hl]
  unfold State.RequestLeft State.RetryDeferred
  rw [hx, hw, ha, hc, closed, permitted_congr hs hp]

theorem foldl_placeDeferred_request (l : List (Fin 48)) (s : State) (r : Request) :
    r ∈ (l.foldl State.placeDeferred s).gate.waiting ↔
      if r.port ∈ l then s.RequestLeft r else r ∈ s.gate.waiting := by
  induction l generalizing s with
  | nil => simp
  | cons q rest ih =>
    have only := placeDeferred_marking s q
    rw [List.foldl_cons, ih]
    by_cases hq : r.port = q
    · have now : r ∈ (s.placeDeferred q).gate.waiting ↔ s.RequestLeft r := by
        rw [placeDeferred_request, if_pos hq]
      have settled : ¬(s.placeDeferred q).RetryDeferred r.port := by
        unfold State.RetryDeferred
        rw [placeDeferred_port, if_pos hq, only.acct]
        exact retried_settled _ _ _
      rw [requestLeft_of_not settled, now, ite_self, if_pos (by simp [hq])]
    · have now : r ∈ (s.placeDeferred q).gate.waiting ↔ r ∈ s.gate.waiting := by
        rw [placeDeferred_request, if_neg hq]
      have left : (s.placeDeferred q).RequestLeft r ↔ s.RequestLeft r :=
        requestLeft_congr (by rw [placeDeferred_port, if_neg hq]) now (by rw [only.phase]) (by rw [only.acct]) only.store
          only.clock (by rw [only.scan])
      simp only [left, now, List.mem_cons, hq, false_or]

theorem placeAllDeferred_request (s : State) (r : Request) :
    r ∈ s.placeAllDeferred.gate.waiting ↔ s.RequestLeft r := by
  unfold State.placeAllDeferred
  rw [foldl_placeDeferred_request, if_pos (mem_allPorts _)]

/-! ## Ports and requests at a period end -/

/-- What follows the deferred retries at a period end leaves ports and gate alone. -/
theorem periodPart_ports_gate (s : State) :
    Only [.scan, .sched, .ev, .path] s.counted.levelTested.ticked.placeAllDeferred s.periodPart := by
  have h := (notices_marking s.counted.levelTested.ticked.placeAllDeferred).toOnly.next
    (n := [.sched, .ev, .path]) (evalAlarms_only _)
  rw [periodPart_eq, periodUntilTick_eq, offered_eq]
  exact h.next (trigger_only _ _)

theorem periodPart_port (s : State) (p : Fin 48) : s.periodPart.port p =
    (s.counted.levelTested.port p).retried (s.counted.levelTested.permitted p) s.counted.levelTested.acct.hold := by
  have only := ticked_marking s.counted.levelTested
  rw [(periodPart_ports_gate s).port p, placeAllDeferred_port, only.port p, only.acct,
    permitted_congr only.store (by rw [ticked_phase])]

theorem periodPart_request (s : State) (r : Request) :
    r ∈ s.periodPart.gate.waiting ↔ s.counted.levelTested.RequestLeft r := by
  have only := ticked_marking s.counted.levelTested
  rw [(periodPart_ports_gate s).gate, placeAllDeferred_request]
  exact requestLeft_congr (only.port _) (by rw [only.gate]) (by rw [ticked_phase]) (by rw [only.acct]) only.store
    only.clock (by rw [ticked_scan])

theorem periodPart_acct (s : State) : s.periodPart.acct = s.counted.levelTested.acct := by
  rw [(periodPart_only s).acct, (ticked_marking _).acct]

/-- Where the two tests enter no phase they move the undervoltage count alone. -/
theorem Judgement.stays {s t : State} (h : Judgement s t) (hp : t.phase.phase = s.phase.phase) : Only [.phase] s t := by
  have left : ∀ c : Phase, s.phase.phase.active = true → c.active = false → c ≠ s.phase.phase := by
    rintro c ha hc rfl; rw [ha] at hc; cases hc
  cases h with
  | inactive => exact .refl s
  | undervoltage ha => rw [enterCutoff_phase] at hp; exact absurd hp (left _ ha rfl)
  | cutoff ha => rw [enterCutoff_phase] at hp; exact absurd hp (left _ ha rfl)
  | reserve ho => rw [enterReserve_phase, ho] at hp; cases hp
  | stay => exact uvCounted_only s

/-! ## O34 -/

theorem bar_only (s : State) (p : Fin 48) (cause : Nat) : Only [.ports, .ev, .path] s (s.bar p cause) := by
  unfold State.bar
  have h := (setPort_only s p { (s.port p).clearTimers with action := .barred, switch := false }).marking.next
    (n := [.ports, .path]) (markPort_marking _ p)
  exact h.toOnly.next (raise_only ..)

/-- A port barred after its wake has failed (R31). -/
theorem wakeFailed_bar (s : State) (p : Fin 48) :
    let x := s.port p
    let mid := s.raise .wakeFailed p.val x.attempts 0
    let t := mid.bar p 1
    t.port p = { x.clearTimers with action := .barred, switch := false } ∧ OtherPorts p s t ∧
      t.ev.lastKind = some .portBarred ∧ QueueAndMarks s t ∧ MarkSet p s t ∧
      mid.path = { s.path with ownq := mid.path.ownq } ∧
      Raised .wakeFailed p.val x.attempts 0 s.store.plan.tag s { t with ev := mid.ev, path := mid.path } ∧
      Raised .portBarred p.val x.trips 1 s.store.plan.tag mid t ∧ Only [.ports, .ev, .path] s t := by
  intro x mid t
  refine ⟨port_setPort_same .., fun q hq => port_setPort_ne _ _ _ _ hq, rfl, ?_, ⟨rfl, rfl⟩, rfl, ?_, ?_, ?_⟩
  · have hm : QueueAndMarks mid t :=
      ((setPort_only mid p { x.clearTimers with action := .barred, switch := false }).marking.next
        (n := [.ports, .path]) (markPort_marking _ p)).marks.1.trans (raise_queueAndMarks ..)
    exact (raise_queueAndMarks ..).trans hm
  · exact (raise_raised s ..).congr rfl rfl rfl rfl ⟨rfl, rfl, rfl, rfl, rfl⟩
  · exact (raise_raised ((mid.setPort p { x.clearTimers with action := .barred, switch := false }).markPort p) ..).congr
      rfl rfl rfl rfl ⟨rfl, rfl, rfl, rfl, rfl⟩
  · exact (raise_only s ..).next (bar_only mid p 1)

theorem exec_answerTimerExpiry_due {τ since : Nat} {p : Fin 48} {s : State} (hline : s.line = .released)
    (ha : (s.port p).action = .waking) (hx : (s.port p).answer = some since)
    (hdue : since + Config.answerTime ≤ max s.clock τ) :
    exec (.answerTimerExpiry τ p) s = .next ((s.advance τ).unanswered p) := by
  have h : ((s.advance τ).port p).action = .waking ∧
      hasRun ((s.advance τ).port p).answer Config.answerTime (s.advance τ).clock = true := by
    simpa [ha, hx, hasRun] using hdue
  simp only [exec, execAnswerTimerExpiry, timed_released hline, if_pos h]

theorem exec_retryTimerExpiry_due {τ since : Nat} {p : Fin 48} {s : State} (hline : s.line = .released)
    (ha : (s.port p).action = .waking) (hx : (s.port p).retry = some since)
    (hdue : since + Config.retryTime ≤ max s.clock τ) :
    exec (.retryTimerExpiry τ p) s = .next ((s.advance τ).retryDue p) := by
  have h : ((s.advance τ).port p).action = .waking ∧
      hasRun ((s.advance τ).port p).retry Config.retryTime (s.advance τ).clock = true := by
    simpa [ha, hx, hasRun] using hdue
  simp only [exec, execRetryTimerExpiry, timed_released hline, if_pos h]

/-- A wake that ends without failure (R26, R31). -/
theorem endWake_of_waking {s : State} {p : Fin 48} (ha : (s.port p).action = .waking) :
    (s.endWake p).port p = { (s.port p).clearTimers with action := .idle, switch := false } ∧
    OtherPorts p s (s.endWake p) ∧
    (s.endWake p).gate = { s.gate with waiting := s.gate.waiting.filter fun r => r.port ≠ p } ∧
    MarkSet p s (s.endWake p) := by
  refine ⟨?_, fun q hq => ?_, ?_, ?_⟩
  · rw [endWake_port, if_pos rfl, wakeEnded_of_waking ha]
  · rw [endWake_port, if_neg hq]
  · rw [endWake_gate, if_pos ha]
  · unfold State.endWake
    dsimp only
    rw [if_pos ha]
    exact ⟨rfl, rfl⟩

/-- R31: the three outcomes of an unanswered pulse. -/
theorem unanswered_outcomes {s : State} {p : Fin 48} (ha : (s.port p).action = .waking) :
    let x := s.port p
    let t := s.unanswered p
    t.clock = s.clock ∧
    (t.port p).switch = false ∧ (t.port p).attempts = x.attempts ∧ (t.port p).trips = x.trips ∧
    (t.port p).pulse = none ∧ (t.port p).answer = none ∧ OtherPorts p s t ∧
    (x.attempts < 1 + (s.policy p).retries → s.permitted p = true →
      (t.port p).action = .waking ∧ (t.port p).step = some .retryWait ∧
      (t.port p).retry = some s.clock ∧ Only [.ports] s t) ∧
    (x.attempts < 1 + (s.policy p).retries → s.permitted p = false → t = s.endWake p) ∧
    (1 + (s.policy p).retries ≤ x.attempts → t = (s.raise .wakeFailed p.val x.attempts 0).bar p 1) := by
  intro x t
  by_cases hn : x.attempts < 1 + (s.policy p).retries
  · have late : ¬1 + (s.policy p).retries ≤ x.attempts := Nat.not_le.mpr hn
    cases hp : s.permitted p with
    | true =>
      have ht : t = s.setPort p
          { x.clearTimers with switch := false, step := some .retryWait, retry := some s.clock } := by
        show State.unanswered s p = _
        unfold State.unanswered
        rw [if_pos hn, if_pos hp]
      have hport : t.port p =
          { x.clearTimers with switch := false, step := some .retryWait, retry := some s.clock } := by
        rw [ht]; exact port_setPort_same ..
      have only : Only [.ports] s t := by rw [ht]; exact setPort_only ..
      rw [hport]
      exact ⟨only.clock, rfl, rfl, rfl, rfl, rfl, fun q hq => by rw [ht]; exact port_setPort_ne _ _ _ _ hq,
        fun _ _ => ⟨ha, rfl, rfl, only⟩, nofun, fun h => absurd h late⟩
    | false =>
      have ht : t = s.endWake p := by
        show State.unanswered s p = _
        unfold State.unanswered
        rw [if_pos hn, if_neg (by rw [hp]; nofun)]
      obtain ⟨hport, others, -, -⟩ := endWake_of_waking ha
      rw [ht, hport]
      exact ⟨(endWake_marking s p).clock, rfl, rfl, rfl, rfl, rfl, others, nofun, fun _ _ => rfl,
        fun h => absurd h late⟩
  · have ht : t = (s.raise .wakeFailed p.val x.attempts 0).bar p 1 := by
      show State.unanswered s p = _
      unfold State.unanswered
      rw [if_neg hn]
    obtain ⟨hport, others, -, -, -, -, -, -, only⟩ := wakeFailed_bar s p
    rw [ht, hport]
    exact ⟨only.clock, rfl, rfl, rfl, rfl, rfl, others, fun h => absurd h hn, fun h => absurd h hn, fun _ => rfl⟩

/-- R32: a due retry is deferred under the hold, else requested or its wake ended. -/
theorem retryDue_outcomes {s : State} {p : Fin 48} (ha : (s.port p).action = .waking) :
    let x := s.port p
    let t := s.retryDue p
    t.clock = s.clock ∧ OtherPorts p s t ∧
    (s.acct.hold = true → t.port p = { x with step := some .deferred, retry := none } ∧ Only [.ports] s t) ∧
    (s.acct.hold = false → s.permitted p = true →
      t.port p = { x with step := some .queued, retry := none } ∧
      t.gate = { s.gate with waiting := if s.gateClosed then s.gate.waiting
        else s.gate.waiting ++ [{ port := p, kind := .retry, placed := s.clock }] } ∧
      Only [.ports, .gate] s t) ∧
    (s.acct.hold = false → s.permitted p = false → t = s.endWake p) := by
  intro x t
  cases hh : s.acct.hold with
  | true =>
    have ht : t = s.setPort p { x with step := some .deferred, retry := none } := if_pos hh
    have only : Only [.ports] s t := by rw [ht]; exact setPort_only ..
    exact ⟨only.clock, fun q hq => by rw [ht]; exact port_setPort_ne _ _ _ _ hq,
      fun _ => ⟨by rw [ht]; exact port_setPort_same .., only⟩, nofun, nofun⟩
  | false =>
    have ht : t = s.askRetry p := if_neg (by rw [hh]; nofun)
    cases hp : s.permitted p with
    | true =>
      rw [askRetry_permitted hp] at ht
      have only : Only [.ports, .gate] s t := by
        rw [ht]; exact (setPort_only ..).next (request_only ..)
      exact ⟨only.clock, fun q hq => by rw [ht]; exact port_setPort_ne _ _ _ _ hq, nofun,
        fun _ _ => ⟨by rw [ht]; exact port_setPort_same .., by rw [ht]; rfl, only⟩, nofun⟩
    | false =>
      rw [askRetry_barred hp] at ht
      obtain ⟨-, others, -, -⟩ := endWake_of_waking ha
      exact ⟨by rw [ht]; exact (endWake_marking s p).clock, by rw [ht]; exact others, nofun, nofun, fun _ _ => ht⟩

/-- R32 at a period end that enters no phase: a DEFERRED port. -/
theorem periodPart_deferred {s : State} {p : Fin 48} (ha : (s.port p).action = .waking)
    (hd : (s.port p).step = some .deferred) (hp : s.periodPart.phase.phase = s.phase.phase) :
    let t := s.periodPart
    (t.acct.hold = true → (t.port p).action = .waking ∧ (t.port p).step = some .deferred) ∧
    (t.acct.hold = false → s.permitted p = true →
      (t.port p).action = .waking ∧ (t.port p).step = some .queued ∧
      (s.gateClosed = false → { port := p, kind := .retry, placed := s.clock } ∈ t.gate.waiting)) ∧
    (t.acct.hold = false → s.permitted p = false →
      (t.port p).action = .idle ∧ (t.port p).step = none ∧ (t.port p).switch = false ∧
      (t.port p).attempts = (s.port p).attempts ∧ ∀ r ∈ t.gate.waiting, r.port ≠ p) := by
  intro t
  have counted := counted_marking s
  have samePhase : s.counted.levelTested.phase.phase = s.phase.phase := by
    rw [periodPart_phase] at hp; exact hp
  have judged : Only [.phase] s.counted s.counted.levelTested :=
    (counted_judgement s).stays (by rw [samePhase, counted.phase])
  have store : s.counted.levelTested.store = s.store := judged.store.trans counted.store
  have permitted := permitted_congr store samePhase p
  have closed : s.counted.levelTested.gateClosed = s.gateClosed := by
    simp [State.gateClosed, samePhase, judged.scan, counted.scan]
  have clock : s.counted.levelTested.clock = s.clock := judged.clock.trans counted.clock
  have hport := periodPart_port s p
  have hgate := periodPart_request s
  have hacct : t.acct.hold = s.counted.levelTested.acct.hold := congrArg Acct.hold (periodPart_acct s)
  rw [permitted, ← hacct, judged.port p] at hport
  have charged := counted_port s p
  have action : (s.counted.port p).action = .waking := by rw [charged]; exact ha
  have step : (s.counted.port p).step = some .deferred := by rw [charged]; exact hd
  refine ⟨fun hh => ?_, fun hh hm => ?_, fun hh hm => ?_⟩
  · rw [hport, retried_of_not (by rw [hh]; rintro ⟨-, -, h⟩; cases h)]
    exact ⟨action, step⟩
  · have deferred : s.counted.levelTested.RetryDeferred p := ⟨by rw [judged.port p]; exact action,
      by rw [judged.port p]; exact step, by rw [← hacct]; exact hh⟩
    rw [hport]
    unfold Port.retried
    rw [if_pos ⟨action, step, hh⟩, if_pos hm]
    refine ⟨action, rfl, fun hg => (hgate _).mpr ⟨fun _ => by rw [permitted]; exact hm, .inr ⟨deferred, ?_, ?_⟩⟩⟩
    · rw [closed]; exact hg
    · rw [clock]
  · have deferred : s.counted.levelTested.RetryDeferred p := ⟨by rw [judged.port p]; exact action,
      by rw [judged.port p]; exact step, by rw [← hacct]; exact hh⟩
    rw [hport]
    unfold Port.retried
    rw [if_pos ⟨action, step, hh⟩, if_neg (by rw [hm]; nofun), wakeEnded_of_waking action]
    refine ⟨rfl, rfl, rfl, by rw [charged]; rfl, ?_⟩
    rintro r hr rfl
    have := ((hgate r).mp hr).1 deferred
    rw [permitted, hm] at this
    cases this

/-- Settles O34: the unanswered pulse and the due retry by cases on the attempts, the phase and the hold; the period
end through the fold over the DEFERRED ports. -/
theorem unansweredWakeRetriesOrBars : Obligations.UnansweredWakeRetriesOrBars := by
  intro τ since p s hline ha now x may ended
  have may_iff : may ↔ (s.advance τ).permitted p = true := (permitted_iff (s.advance τ) p).symm
  have not_may : ¬may → (s.advance τ).permitted p = false := fun h => by
    rw [may_iff] at h; exact Bool.eq_false_iff.mpr h
  have wakeEnds : ∀ {t : State}, t = (s.advance τ).endWake p → t.port p = ended ∧
      t.gate = { s.gate with waiting := s.gate.waiting.filter fun r => r.port ≠ p } ∧
      MarksOnly s t ∧ MarkSet p s t ∧ SameBut [.ports, .gate, .path] s t := by
    rintro t rfl
    obtain ⟨hport, -, hgate, marked⟩ := endWake_of_waking (s := s.advance τ) ha
    have marking := endWake_marking (s.advance τ) p
    exact ⟨hport, hgate, marking.marks, marked, marking.toOnly.sameBut_advance⟩
  refine ⟨fun hx hdue => ?_, fun hx hdue => ?_, fun hx hready hdue => ?_⟩
  · obtain ⟨clock, switch, attempts, trips, pulse, answer, others, waits, ends, bars⟩ :=
      unanswered_outcomes (s := s.advance τ) ha
    refine ⟨_, exec_answerTimerExpiry_due hline ha hx hdue, clock, switch, attempts, trips, pulse, answer, others,
      fun hn hm => ?_, fun hn hm => wakeEnds (ends hn (not_may hm)), fun hn => ?_⟩
    · obtain ⟨action, step, retry, only⟩ := waits hn (may_iff.mp hm)
      exact ⟨action, step, retry, only.sameBut_advance⟩
    · rw [bars hn]
      obtain ⟨hport, -, last, marks, marked, mid, failed, barred, only⟩ := wakeFailed_bar (s.advance τ) p
      rw [hport]
      exact ⟨rfl, rfl, rfl, last, marks, marked, ⟨_, mid, failed, barred⟩, only.sameBut_advance⟩
  · obtain ⟨clock, others, held, asked, ends⟩ := retryDue_outcomes (s := s.advance τ) ha
    refine ⟨_, exec_retryTimerExpiry_due hline ha hx hdue, clock, others, fun hh => ?_, fun hh hm => ?_,
      fun hh hm => wakeEnds (ends hh (not_may hm))⟩
    · obtain ⟨hport, only⟩ := held hh
      exact ⟨hport, only.sameBut_advance⟩
    · obtain ⟨hport, hgate, only⟩ := asked hh (may_iff.mp hm)
      exact ⟨hport, hgate, only.sameBut_advance⟩
  · refine ⟨_, exec_periodPart hline hready hdue, (periodPart_advanced _).1, fun _ hphase => ?_⟩
    obtain ⟨held, asked, ends⟩ := periodPart_deferred (s := s.advance τ) ha hx hphase
    exact ⟨held, fun hh hm => asked hh (may_iff.mp hm), fun hh hm => ends hh (not_may hm)⟩

end Sys2Proof.Machine
end

section
/-! PROOFS. What the phase entries of a period end stop, and what follows them at the queue and the events (R8, R9,
R72, R103, R127). -/

namespace Sys2Proof.Machine
open Sys2Proof

/-! ## Work at rest (R9) -/

/-- No work that an entry to CUTOFF stops is left. -/
structure State.AtRest (s : State) : Prop where
  queue : s.sched.queue = []
  waiting : s.gate.waiting = []
  timer : s.sched.timer = none
  run : s.test.run = none
  work : ∀ p, (s.port p).action ≠ .feeding ∧ (s.port p).action ≠ .waking

theorem State.AtRest.congr {s t : State} (rest : s.AtRest) (hs : t.sched = s.sched) (hg : t.gate = s.gate)
    (ht : t.test = s.test) (hp : t.ports = s.ports) : t.AtRest := by
  obtain ⟨queue, waiting, timer, run, work⟩ := rest
  exact ⟨by rwa [hs], by rwa [hg], by rwa [hs], by rwa [ht], fun p => by
    have : t.port p = s.port p := congrArg (Tab.get · p) hp
    rw [this]; exact work p⟩

theorem workEnded_atRest (s : State) : s.workEnded.AtRest where
  queue := by rw [workEnded_sched]; rfl
  waiting := by rw [workEnded_gate]
  timer := by rw [workEnded_sched]; rfl
  run := workEnded_run s
  work := workEnded_port_action s

theorem cutoffReached_atRest (s : State) (cause : PhaseCause) : (s.cutoffReached cause).AtRest := by
  unfold State.cutoffReached
  have raised := raisePhase_only (State.workEnded
    (if cause = .undervoltage then (s.setPhase .cutoff).lowerQ else s.setPhase .cutoff)) cause
  exact (workEnded_atRest _).congr raised.sched raised.gate raised.test raised.ports

/-- A plan carried to the blocks starts no work. -/
theorem PlanCarried.atRest {s t : State} (h : PlanCarried s t) (hg : t.gate = s.gate) (rest : s.AtRest) : t.AtRest where
  queue := List.eq_nil_iff_forall_not_mem.mpr fun e he => by
    obtain ⟨⟨d, hd, -⟩, -⟩ := (h.queue e).mp he
    rw [rest.queue] at hd
    cases hd
  waiting := by rw [hg, rest.waiting]
  timer := by rw [h.sched]; exact rest.timer
  run := by rw [h.test]; exact rest.run
  work p := by
    by_cases hoff : (s.port p).action = .off
    · rw [h.off p hoff]; exact rest.work p
    · rcases h.kept p hoff with hk | ⟨hf, -⟩
      · rw [hk]; exact rest.work p
      · exact absurd hf (rest.work p).1

theorem SwitchApplied.atRest {target : Bank} {s t : State} (h : State.SwitchApplied target s t) (rest : s.AtRest) :
    t.AtRest := by
  obtain ⟨-, -, -, -, same, other⟩ := h
  by_cases ht : target = s.store.active
  · rw [same ht]
    exact rest.congr rfl rfl rfl rfl
  · obtain ⟨bank, -, refused, taken⟩ := other ht
    rw [← bank] at refused taken
    by_cases hv : (t.bank target).validity = .valid
    · obtain ⟨-, -, -, carried, -, -, -, -, same⟩ := taken hv
      exact carried.atRest (same.2 .gate (by decide)) rest
    · obtain ⟨-, -, -, -, same⟩ := refused hv
      exact rest.congr (same.2 .sched (by decide)) (same.2 .gate (by decide)) (same.2 .test (by decide))
        (same.2 .ports (by decide))

theorem applyTarget_atRest {s : State} (rest : s.AtRest) : s.applyTarget.AtRest := by
  unfold State.applyTarget
  split
  · split
    · exact SwitchApplied.atRest (applySwitch_applied _ s) rest
    · exact rest
  · exact rest

theorem enterCutoff_atRest (s : State) (cause : PhaseCause) : (s.enterCutoff cause).AtRest := by
  rw [enterCutoff_eq]
  exact applyTarget_atRest (cutoffReached_atRest s cause)

/-! ## The entry to RESERVE, port by port (R8, R103) -/

/-- Requests of ports whose wakes end are withdrawn. -/
theorem foldl_endWake_request (l : List (Fin 48)) (s : State) (r : Request)
    (h : r ∈ (l.foldl State.endWake s).gate.waiting) :
    r ∈ s.gate.waiting ∧ (r.port ∈ l → (s.port r.port).action ≠ .waking) := by
  induction l generalizing s with
  | nil => exact ⟨h, nofun⟩
  | cons q rest ih =>
    obtain ⟨hmem, hrest⟩ := ih _ h
    obtain ⟨hs, hq⟩ := (mem_endWake_waiting s q r).mp hmem
    refine ⟨hs, fun hl hw => ?_⟩
    by_cases e : r.port = q
    · exact hq (e ▸ hw) e
    · refine hrest ((List.mem_cons.mp hl).resolve_left e) ?_
      rw [endWake_port, if_neg e]
      exact hw

/-- A class 1 or 2 port at the entry to RESERVE. -/
theorem reserveReached_low {s : State} {p : Fin 48} (hl : s.lowClass p = true) :
    let t := s.reserveReached
    (∀ e ∈ t.sched.queue, e.port ≠ p) ∧
    (∀ i, s.openSlot p = some i → (t.sched.slots.get i).outcome = some .phase) ∧
    (s.openSlot p = none → t.openSlot p = none) ∧
    t.port p = (s.port p).wakeEnded ∧
    ((s.port p).action = .waking → ∀ r ∈ t.gate.waiting, r.port ≠ p) := by
  have low1 : (s.setPhase .reserve).lowClass p = true := hl
  have queue1 : (s.setPhase .reserve).sched = s.sched := rfl
  have port1 : (s.setPhase .reserve).port p = s.port p := rfl
  have slot1 : (s.setPhase .reserve).openSlot p = s.openSlot p := rfl
  unfold State.reserveReached
  dsimp only
  generalize s.setPhase .reserve = s1 at low1 queue1 port1 slot1 ⊢
  have dequeued : Marking [.sched, .path] s1
      (((s1.sched.queue.map (·.port)).filter s1.lowClass).foldl State.dequeue s1) := Marking.fold _ dequeue_marking s1
  have sched2 := dequeueAll_sched ((s1.sched.queue.map (·.port)).filter s1.lowClass) s1
  generalize ((s1.sched.queue.map (·.port)).filter s1.lowClass).foldl State.dequeue s1 = s2 at dequeued sched2 ⊢
  have low2 : s2.lowClass p = true := by rw [lowClass_congr dequeued.store]; exact low1
  have slot2 : s2.openSlot p = s.openSlot p := by
    rw [← slot1]; unfold State.openSlot; rw [sched2]
  have narrowed := narrowSlots_only s2
  have ended : Marking [.ports, .gate, .path] s2.narrowSlots
      ((allPorts.filter s2.lowClass).foldl State.endWake s2.narrowSlots) := Marking.fold _ endWake_marking _
  have listed : p ∈ allPorts.filter s2.lowClass := List.mem_filter.mpr ⟨mem_allPorts p, low2⟩
  have port3 : s2.narrowSlots.port p = s.port p := by rw [narrowed.port p, dequeued.port p, port1]
  refine ⟨fun e he => ?_, fun i hi => ?_, fun hn => ?_, ?_, fun hw r hr => ?_⟩
  · rw [ended.sched, narrowSlots_sched, sched2] at he
    rintro rfl
    obtain ⟨hmem, hout⟩ := List.mem_filter.mp he
    have : e.port ∈ (s1.sched.queue.map (·.port)).filter s1.lowClass :=
      List.mem_filter.mpr ⟨List.mem_map.mpr ⟨e, hmem, rfl⟩, low1⟩
    simp [this] at hout
  · rw [ended.sched]
    exact narrowSlots_phase low2 (slot2.trans hi)
  · rw [openSlot_congr ended.sched]
    rw [← slot2] at hn
    rw [openSlot_eq_none_iff] at hn ⊢
    intro hr ho
    rw [narrowSlots_sched] at hr
    exact hn hr ((narrowSlots_issued s2).inOpenSlot ho)
  · rw [foldl_endWake_port, if_pos listed, port3]
  · rintro rfl
    exact (foldl_endWake_request _ _ r hr).2 listed (by rw [port3]; exact hw)

/-- A class 1 or 2 port after the entry to RESERVE, the running round having gone on. -/
theorem enterReserve_low {s : State} {p : Fin 48} (hl : s.lowClass p = true) (cause : PhaseCause) :
    let t := s.enterReserve cause
    (∀ e ∈ t.sched.queue, e.port ≠ p) ∧
    (∀ i, s.openSlot p = some i → (t.sched.slots.get i).outcome = some .phase) ∧
    (s.openSlot p = none → t.port p = (s.port p).wakeEnded ∧
      ((s.port p).action = .waking → ∀ r ∈ t.gate.waiting, r.port ≠ p)) := by
  obtain ⟨queue, slots, closed, port, requests⟩ := reserveReached_low hl
  have raised := raisePhase_only s.reserveReached cause
  have issued := issueOn_issued (s.reserveReached.raisePhase cause)
  rw [enterReserve_eq]
  refine ⟨fun e he => ?_, fun i hi => ?_, fun hn => ?_⟩
  · have := issued.queue e he
    rw [raised.sched] at this
    exact queue e this
  · have done : ((s.reserveReached.raisePhase cause).sched.slots.get i).outcome = some .phase := by
      rw [raised.sched]; exact slots i hi
    rw [issued.resolved i (by unfold State.SlotOpen; rw [done]; nofun), done]
  · have hc : (s.reserveReached.raisePhase cause).openSlot p = none := by
      rw [openSlot_congr raised.sched]; exact closed hn
    refine ⟨?_, fun hw => issueOn_request hc ?_⟩
    · rw [issueOn_port hc, raised.port p, port]
    · rw [raised.gate]; exact requests hw

/-! ## Notices and alarm events -/

/-- What the notices of a period end can do (R72, R85). -/
structure Noticed (s t : State) : Prop where
  store : t.store = s.store
  phase : t.phase = s.phase
  sched : t.sched = { s.sched with queue := t.sched.queue }
  queue : ∀ e ∈ t.sched.queue, e ∈ s.sched.queue ∨ s.permitted e.port = true

theorem Noticed.refl (s : State) : Noticed s s := ⟨rfl, rfl, rfl, fun _ => .inl⟩

theorem Noticed.trans {s t u : State} (h : Noticed s t) (k : Noticed t u) : Noticed s u where
  store := k.store.trans h.store
  phase := k.phase.trans h.phase
  sched := by rw [k.sched, h.sched]
  queue e he := by
    rcases k.queue e he with ht | hp
    · exact h.queue e ht
    · exact .inr (by rwa [permitted_congr h.store (by rw [h.phase])] at hp)

theorem Noticed.markPortIf {s t : State} (h : Noticed s t) (c : Bool) (p : Fin 48) :
    Noticed s (t.markPortIf c p) := by
  have marked := markPortIf_marking t c p
  exact ⟨marked.store.trans h.store, marked.phase.trans h.phase, by rw [marked.sched]; exact h.sched,
    by rw [marked.sched]; exact h.queue⟩

theorem notice_noticed (s : State) (p : Fin 48) : Noticed s (s.notice p) := by
  unfold State.notice
  dsimp only
  split
  · next h =>
    refine Noticed.markPortIf ?_ _ _
    refine ⟨rfl, rfl, rfl, fun e he => ?_⟩
    rcases (mem_queueInsert ..).mp he with rfl | hq
    · exact .inr h.2.1
    · exact .inl (List.mem_filter.mp hq).1
  · exact .refl s

theorem notices_noticed (s : State) : Noticed s s.notices :=
  fold_keeps Noticed.refl Noticed.trans _ _
    (fun x p => by split; exacts [notice_noticed x p, .refl x]) s

/-- An event that is no refusal joins the queue behind the others, or stays out of it (R130). -/
theorem place_prefix (ringOpen : Bool) (marker e : Event) (x : Spool) (he : e.kind ≠ .writeRefused) :
    x.queue <+: (x.place ringOpen marker e).queue := by
  unfold Spool.place
  rw [if_neg he, if_neg he]
  split
  · exact List.prefix_rfl
  · dsimp only
    split
    · exact List.prefix_append ..
    · split <;> exact List.prefix_rfl

theorem raiseTagged_prefix (s : State) {kind : EventKind} (h : kind ≠ .writeRefused) (subject : Nat) (value : Int)
    (cause tag : Nat) : s.path.ownq <+: (s.raiseTagged kind subject value cause tag).path.ownq :=
  place_prefix s.ringOpen (s.entry .lost noSubject kind.code 0 s.store.plan.tag)
    (s.entry kind subject value cause tag) ⟨s.path.ownq, s.ev.staging, s.ev.unkept⟩ h

/-- Alarm rules add events behind those that wait; a plan without rules changes nothing. -/
structure Alarmed (s t : State) : Prop where
  ownq : s.path.ownq <+: t.path.ownq
  none : s.header.alarmN = 0 → t = s

theorem evalRule_alarmed (s : State) (i : Fin 16) : Alarmed s (s.evalRule i) := by
  unfold State.evalRule
  split
  · next h =>
    refine ⟨?_, fun hn => absurd h (by omega)⟩
    dsimp only
    split
    · exact raiseTagged_prefix { s with ev := _ } (by decide) ..
    · exact List.prefix_rfl
  · exact ⟨List.prefix_rfl, fun _ => rfl⟩

theorem evalAlarms_alarmed (s : State) : Alarmed s s.evalAlarms :=
  fold_keeps (R := Alarmed) (fun _ => ⟨List.prefix_rfl, fun _ => rfl⟩)
    (fun h k => ⟨h.ownq.trans k.ownq, fun hn => by have e := h.none hn; rw [k.none (by rw [e]; exact hn), e]⟩)
    _ _ evalRule_alarmed s

/-! ## The queue and the events at a period end -/

/-- At the end of a period the scheduler has changed in its queue alone, and only by ports that the phase permits. -/
theorem periodPart_queue (s : State) :
    s.periodPart.sched = { s.counted.levelTested.sched with queue := s.periodPart.sched.queue } ∧
    ∀ e ∈ s.periodPart.sched.queue,
      e ∈ s.counted.levelTested.sched.queue ∨ s.counted.levelTested.permitted e.port = true := by
  have ticked := ticked_marking s.counted.levelTested
  have placed := placeAllDeferred_marking s.counted.levelTested.ticked
  have h := notices_noticed s.counted.levelTested.ticked.placeAllDeferred
  have before : s.counted.levelTested.ticked.placeAllDeferred.sched = s.counted.levelTested.sched := by
    rw [placed.sched, ticked.sched]
  have after : s.periodPart.sched = s.counted.levelTested.ticked.placeAllDeferred.notices.sched := by
    rw [periodPart_eq, (trigger_only _ _).sched, periodUntilTick_eq, (evalAlarms_only _).sched, offered_eq]
  rw [after]
  refine ⟨by rw [← before]; exact h.sched, fun e he => (h.queue e he).imp (by rw [before]; exact id) fun hp => ?_⟩
  have permitted := permitted_congr (s := s.counted.levelTested)
    (t := s.counted.levelTested.ticked.placeAllDeferred) (by rw [placed.store, ticked.store])
    (by rw [placed.phase, ticked_phase]) e.port
  exact permitted.symm.trans hp

/-- The alarm rules' events come after every other event of a period end. -/
theorem periodPart_events (s : State) :
    s.counted.levelTested.path.ownq <+: s.periodPart.path.ownq ∧
    (s.counted.levelTested.header.alarmN = 0 → s.periodPart.ev = s.counted.levelTested.ev ∧
      s.periodPart.path.ownq = s.counted.levelTested.path.ownq) := by
  have before : Marking [.phase, .ports, .gate, .scan, .sched, .test, .path] s.counted.levelTested
      s.counted.levelTested.ticked.offered := (ticked_marking _).next (offered_marking _)
  have alarms := evalAlarms_alarmed s.counted.levelTested.ticked.offered
  have after : s.periodPart.path = s.counted.levelTested.ticked.offered.evalAlarms.path := by
    rw [periodPart_eq, (trigger_only _ _).path, periodUntilTick_eq]
  rw [after, ← before.ownq]
  refine ⟨alarms.ownq, fun hn => ?_⟩
  have idle := alarms.none (by rw [header_congr before.store]; exact hn)
  have ev : s.periodPart.ev = s.counted.levelTested.ticked.offered.evalAlarms.ev := by
    rw [periodPart_eq, (trigger_only _ _).ev, periodUntilTick_eq]
  rw [ev, idle]
  exact ⟨before.ev, rfl⟩

/-- Work at rest after an entry to CUTOFF stays at rest to the end of the period. -/
theorem periodPart_atRest {s : State} (hp : s.counted.levelTested.phase.phase = .cutoff)
    (rest : s.counted.levelTested.AtRest) : s.periodPart.AtRest := by
  obtain ⟨sched, queue⟩ := periodPart_queue s
  refine ⟨?_, ?_, ?_, ?_, fun p => ?_⟩
  · refine List.eq_nil_iff_forall_not_mem.mpr fun e he => ?_
    rcases queue e he with hq | hperm
    · rw [rest.queue] at hq; cases hq
    · have := (permitted_iff _ _).mp hperm
      rw [hp] at this
      simp at this
  · refine List.eq_nil_iff_forall_not_mem.mpr fun r hr => ?_
    have left := (periodPart_request s r).mp hr
    rw [requestLeft_of_not fun hd => (rest.work r.port).2 hd.1, rest.waiting] at left
    cases left
  · rw [sched]; exact rest.timer
  · rw [(periodPart_only s).test, ticked_test]
    split
    · split <;> exact rest.run
    · exact rest.run
  · rw [periodPart_port, retried_of_not fun h => (rest.work p).2 h.1]
    exact rest.work p

end Sys2Proof.Machine
end

section
/-! PROOFS. The undervoltage test and the level test of a period end (R6, R7, R76; O25). -/

namespace Sys2Proof.Machine
open Sys2Proof

/-! ## The phase, the count and the charge that the two tests leave -/

theorem charge_of_hold_aside {x y : Acct} (h : { x with hold := false } = { y with hold := false }) :
    x.q = y.q ∧ x.level = y.level := by
  have hq := congrArg Acct.q h
  have hlevel := congrArg Acct.level h
  exact ⟨hq, hlevel⟩

/-- The charge after an entry to CUTOFF: that of the entry's own effects, a bank switch leaves it alone. -/
theorem enterCutoff_charge (s : State) (cause : PhaseCause) :
    let acct := if cause = .undervoltage then s.lowerQ.acct else s.acct
    (s.enterCutoff cause).acct.q = acct.q ∧ (s.enterCutoff cause).acct.level = acct.level := by
  have h := (applyTarget_inner (s.cutoffReached cause)).toCalm.acct_eq
  rw [← enterCutoff_eq, cutoffReached_acct] at h
  exact charge_of_hold_aside h

/-- The outcome of the two tests in OUTAGE and RESERVE, by the count and the level. -/
theorem Judgement.outcome {s t : State} (h : Judgement s t) (ha : s.phase.phase.active = true)
    (hl : s.acct.level = s.acct.q * 100 / s.acct.cap) :
    t.acct.level = t.acct.q * 100 / s.acct.cap ∧
    (5 ≤ s.uvCount → t.phase.phase = .cutoff ∧ t.phase.uv = 0 ∧
      t.acct.q = min s.acct.q (s.acct.cap * s.header.cutoff / 100)) ∧
    (s.uvCount < 5 → s.acct.level < s.header.cutoff →
      t.phase.phase = .cutoff ∧ t.phase.uv = 0 ∧ t.acct.q = s.acct.q) ∧
    (s.uvCount < 5 → s.header.cutoff ≤ s.acct.level → s.phase.phase = .outage →
      s.acct.level < s.header.reserve → t.phase.phase = .reserve ∧ t.phase.uv = 0 ∧ t.acct.q = s.acct.q) ∧
    (s.uvCount < 5 → s.header.cutoff ≤ s.acct.level → s.phase.phase = .outage →
      s.header.reserve ≤ s.acct.level → t.phase.phase = .outage ∧ t.phase.uv = s.uvCount) ∧
    (s.uvCount < 5 → s.header.cutoff ≤ s.acct.level → s.phase.phase = .reserve →
      t.phase.phase = .reserve ∧ t.phase.uv = s.uvCount) := by
  cases h with
  | inactive hn => rw [ha] at hn; cases hn
  | undervoltage _ huv =>
    have early : ¬s.uvCount < 5 := Nat.not_lt.mpr huv
    obtain ⟨hq, hlevel⟩ := enterCutoff_charge s .undervoltage
    rw [enterCutoff_phase, hq, hlevel]
    exact ⟨rfl, fun _ => ⟨rfl, rfl, rfl⟩, fun h => absurd h early, fun h => absurd h early, fun h => absurd h early,
      fun h => absurd h early⟩
  | cutoff _ huv hlow =>
    have late : ¬5 ≤ s.uvCount := Nat.not_le.mpr huv
    have high : ¬s.header.cutoff ≤ s.acct.level := Nat.not_le.mpr hlow
    obtain ⟨hq, hlevel⟩ := enterCutoff_charge s.uvCounted .level
    rw [enterCutoff_phase, hq, hlevel]
    exact ⟨hl, fun h => absurd h late, fun _ _ => ⟨rfl, rfl, rfl⟩, fun _ h => absurd h high, fun _ h => absurd h high,
      fun _ h => absurd h high⟩
  | reserve ho huv hc hlow =>
    have late : ¬5 ≤ s.uvCount := Nat.not_le.mpr huv
    have acct : (s.uvCounted.enterReserve .level).acct = s.acct := (enterReserve_only s.uvCounted .level).acct
    rw [enterReserve_phase, acct]
    exact ⟨hl, fun h => absurd h late, fun _ h => absurd h (Nat.not_lt.mpr hc), fun _ _ _ _ => ⟨rfl, rfl, rfl⟩,
      fun _ _ _ h => absurd h (Nat.not_le.mpr hlow), fun _ _ h => by rw [ho] at h; cases h⟩
  | stay _ huv hc hhigh =>
    have late : ¬5 ≤ s.uvCount := Nat.not_le.mpr huv
    exact ⟨hl, fun h => absurd h late, fun _ h => absurd h (Nat.not_lt.mpr hc),
      fun _ _ ho h => absurd (hhigh ho) (Nat.not_le.mpr h), fun _ _ ho _ => ⟨ho, rfl⟩, fun _ _ hr => ⟨hr, rfl⟩⟩

theorem Judgement.eq_of_inactive {s t : State} (h : Judgement s t) (hn : s.phase.phase.active = false) : t = s := by
  cases h with
  | inactive => rfl
  | undervoltage ha => rw [hn] at ha; cases ha
  | cutoff ha => rw [hn] at ha; cases ha
  | reserve ho => rw [ho] at hn; cases hn
  | stay ha => rw [hn] at ha; cases ha

/-- CUTOFF is reached from OUTAGE or RESERVE by an entry alone, after no more than the count has moved. -/
theorem Judgement.cutoff_entered {s t : State} (h : Judgement s t) (ha : s.phase.phase.active = true)
    (hc : t.phase.phase = .cutoff) : ∃ x cause, t = x.enterCutoff cause ∧ Only [.phase] s x := by
  cases h with
  | inactive hn => rw [ha] at hn; cases hn
  | undervoltage => exact ⟨s, _, rfl, .refl s⟩
  | cutoff => exact ⟨s.uvCounted, _, rfl, uvCounted_only s⟩
  | reserve => rw [enterReserve_phase] at hc; cases hc
  | stay =>
    have hs : s.phase.phase = .cutoff := hc
    rw [hs] at ha; cases ha

/-- RESERVE is reached from OUTAGE by an entry alone. -/
theorem Judgement.reserve_entered {s t : State} (h : Judgement s t) (ho : s.phase.phase = .outage)
    (hr : t.phase.phase = .reserve) : t = s.uvCounted.enterReserve .level := by
  cases h with
  | inactive hn => rw [ho] at hn; cases hn
  | undervoltage => rw [enterCutoff_phase] at hr; cases hr
  | cutoff => rw [enterCutoff_phase] at hr; cases hr
  | reserve => rfl
  | stay =>
    have hs : s.phase.phase = .reserve := hr
    rw [ho] at hs; cases hs

/-! ## The event of an entry (R4) -/

/-- The part `v` just before the PHASE event of an entry from `s`. -/
structure Entering (s v : State) : Prop where
  store : v.store = s.store
  clock : v.clock = s.clock
  marks : QueueAndMarks s v
  quiet : s.test.run = none ∨ v.phase.phase = .reserve → v.path.ownq = s.path.ownq ∧ v.ev = s.ev
  outside : v.phase.phase ≠ .mains

theorem workEnded_entering {s x : State} (h : Only [.phase, .acct] s x) (hp : x.phase.phase = .cutoff) :
    Entering s x.workEnded where
  store := by rw [(workEnded_only x).store, h.store]
  clock := by rw [(workEnded_only x).clock, h.clock]
  marks := (QueueAndMarks.of_path h.path).trans (workEnded_queueAndMarks x)
  quiet hq := by
    have run : x.test.run = none := by
      rw [h.test]
      refine hq.resolve_right fun hr => ?_
      rw [(workEnded_only x).phase, hp] at hr
      cases hr
    have stopped := stopAll_marking x
    rw [workEnded_idle run, stopped.ownq, stopped.ev, h.path, h.ev]
    exact ⟨rfl, rfl⟩
  outside := by rw [(workEnded_only x).phase, hp]; nofun

theorem cutoffReached_entering (s : State) (cause : PhaseCause) :
    ∃ v, s.cutoffReached cause = v.raisePhase cause ∧ Entering s v ∧ v.phase.phase = .cutoff := by
  unfold State.cutoffReached
  have h : Only [.phase, .acct] s
      (if cause = .undervoltage then (s.setPhase .cutoff).lowerQ else s.setPhase .cutoff) := by
    split
    · exact (setPhase_only s _).next (lowerQ_only _)
    · exact (setPhase_only s _).mono
  have hp : (if cause = .undervoltage then (s.setPhase .cutoff).lowerQ else s.setPhase .cutoff).phase.phase =
      .cutoff := by split <;> rfl
  exact ⟨_, rfl, workEnded_entering h hp, by rw [(workEnded_only _).phase, hp]⟩

theorem reserveReached_entering (s : State) : Entering s s.reserveReached := by
  have h := reserveReached_marking s
  exact ⟨h.store, h.clock, h.marks.1, fun _ => ⟨h.ownq, h.ev⟩, by rw [reserveReached_phase]; nofun⟩

theorem uvCounted_entering {s v : State} (h : Entering s.uvCounted v) : Entering s v :=
  ⟨h.store, h.clock, h.marks, h.quiet, h.outside⟩

/-- The cause of an entry made by the two tests (R6, R7). -/
def State.entryCause (s : State) : PhaseCause := if 5 ≤ s.uvCount then .undervoltage else .level

/-- From `s` to `t` an entry has been made with its one PHASE event, `v` being the part just before the event. -/
structure EntryEvent (cause : PhaseCause) (s v t : State) : Prop extends Entering s v where
  phase : t.phase.phase = v.phase.phase
  level : t.acct.level = v.acct.level
  ownq : t.path.ownq = (v.raisePhase cause).path.ownq
  ev : t.ev = (v.raisePhase cause).ev

/-- An entry to CUTOFF that applies no bank switch. -/
theorem enterCutoff_event {s x : State} (cause : PhaseCause) (lift : ∀ v, Entering x v → Entering s v)
    (held : x.store.target = none ∨ x.store.load ≠ none) : ∃ v, EntryEvent cause s v (x.enterCutoff cause) := by
  obtain ⟨v, hv, entering, -⟩ := cutoffReached_entering x cause
  have reached : x.enterCutoff cause = v.raisePhase cause := by
    rw [enterCutoff_eq, applyTarget_held (by rwa [(cutoffReached_only cause).store]), hv]
  have raised := raisePhase_only v cause
  rw [reached]
  exact ⟨v, lift v entering, by rw [raised.phase], by rw [raised.acct], rfl, rfl⟩

/-- An entry to RESERVE, after whose event the running round goes on. -/
theorem enterReserve_event (s : State) (cause : PhaseCause) :
    EntryEvent cause s s.reserveReached (s.enterReserve cause) := by
  have raised := raisePhase_only s.reserveReached cause
  have issued := issueOn_marking (s.reserveReached.raisePhase cause)
  rw [enterReserve_eq]
  exact ⟨reserveReached_entering s, by rw [issued.phase, raised.phase], by rw [issued.acct, raised.acct], issued.ownq,
    issued.ev⟩

/-- A phase entered by the two tests, with no bank switch applied. -/
theorem Judgement.event {s t : State} (h : Judgement s t) (hp : t.phase.phase ≠ s.phase.phase)
    (stays : s.PlanStays t) : ∃ v, EntryEvent s.entryCause s v t := by
  have held := stays.held
  cases h with
  | inactive => exact absurd rfl hp
  | undervoltage ha huv =>
    have cause : s.entryCause = .undervoltage := if_pos huv
    rw [cause]
    exact enterCutoff_event _ (fun _ => id) (held ha (by rw [enterCutoff_phase]))
  | cutoff ha huv =>
    have cause : s.entryCause = .level := if_neg (Nat.not_le.mpr huv)
    rw [cause]
    exact enterCutoff_event (x := s.uvCounted) _ (fun _ => uvCounted_entering) (held ha (by rw [enterCutoff_phase]))
  | reserve _ huv =>
    have cause : s.entryCause = .level := if_neg (Nat.not_le.mpr huv)
    obtain ⟨entering, phase, level, ownq, ev⟩ := enterReserve_event s.uvCounted .level
    rw [cause]
    exact ⟨_, uvCounted_entering entering, phase, level, ownq, ev⟩
  | stay => exact absurd rfl hp

/-- The PHASE event of an entry, told of a later state with the same level, phase, time and plan store. -/
theorem Entering.raised {s v u : State} (h : Entering s v) (cause : PhaseCause) (hacct : u.acct.level = v.acct.level)
    (hphase : u.phase.phase = v.phase.phase) (hclock : u.clock = s.clock) (hstore : u.store = s.store) :
    Raised .phase noSubject u.acct.level cause.code s.store.plan.tag v
      { u with ev := (v.raisePhase cause).ev, path := (v.raisePhase cause).path } := by
  have level : v.level = u.acct.level := by rw [hacct]; exact if_neg h.outside
  have raised := raise_raised v .phase noSubject v.level cause.code
  have same : SameRaise (v.raisePhase cause)
      { u with ev := (v.raisePhase cause).ev, path := (v.raisePhase cause).path } :=
    ⟨(congrArg Store.ready (hstore.trans h.store.symm) :), by
      show u.store.plan.tag = v.store.plan.tag
      rw [hstore, h.store], rfl, hphase, hclock.trans h.clock.symm⟩
  rw [h.store, level] at raised
  exact raised.congr rfl rfl (by rw [← level]; rfl) (by rw [← level]; rfl) (by rw [← level]; exact same)

/-! ## O25 -/

theorem counted_uvCount (s : State) : s.counted.uvCount = s.uvCount := by
  have h := counted_marking s
  unfold State.uvCount State.value State.busFloor
  rw [h.scan, h.inst, h.phase]

/-- The PHASE event of an entry at a period end comes before the alarm rules' events (log 35). -/
theorem periodPart_entry {s : State} (hp : s.periodPart.phase.phase ≠ s.phase.phase)
    (stays : s.PlanStays s.periodPart) :
    ∃ v w : State, QueueAndMarks s { s with path := w.path } ∧
      Raised .phase noSubject s.periodPart.acct.level
        (if 5 ≤ s.uvCount then PhaseCause.undervoltage.code else PhaseCause.level.code) s.store.plan.tag v
        { s.periodPart with ev := w.ev, path := w.path } ∧
      (s.test.run = none ∨ s.periodPart.phase.phase = .reserve → v.path.ownq = s.path.ownq ∧ v.ev = s.ev) ∧
      w.path.ownq <+: s.periodPart.path.ownq ∧
      (s.header.alarmN = 0 → s.periodPart.ev = w.ev ∧ s.periodPart.path.ownq = w.path.ownq) := by
  have counted := counted_marking s
  have judged := counted_judgement s
  have staysC := planStays_counted stays
  have phase : s.periodPart.phase.phase = s.counted.levelTested.phase.phase := by rw [periodPart_phase]
  have changed : s.counted.levelTested.phase.phase ≠ s.counted.phase.phase := by
    rw [counted.phase, ← phase]; exact hp
  obtain ⟨v, entering, hv, level, ownq, ev⟩ := judged.event changed staysC
  obtain ⟨pref, alarms⟩ := periodPart_events s
  have store : s.counted.levelTested.store = s.store := (judged.only staysC).store.trans counted.store
  have acct : s.periodPart.acct.level = v.acct.level := by rw [periodPart_acct, level]
  have code : s.counted.entryCause.code =
      if 5 ≤ s.uvCount then PhaseCause.undervoltage.code else PhaseCause.level.code := by
    unfold State.entryCause; rw [counted_uvCount]; split <;> rfl
  have ustore : s.periodPart.store = s.store := (periodPart_store s).trans store
  refine ⟨v, v.raisePhase s.counted.entryCause, ?_, ?_, fun hq => ?_, ?_, fun hn => ?_⟩
  · exact (counted.marks.1.trans entering.marks).trans (raise_queueAndMarks ..)
  · have raised := entering.raised s.counted.entryCause acct (phase.trans hv)
      (by rw [(periodPart_advanced s).1, counted.clock]) (by rw [ustore, counted.store])
    rwa [code, counted.store] at raised
  · obtain ⟨hown, hev⟩ := entering.quiet (by rw [counted.test, ← hv, ← phase]; exact hq)
    exact ⟨hown.trans counted.ownq, hev.trans counted.ev⟩
  · rw [← ownq]; exact pref
  · obtain ⟨hev, hown⟩ := alarms (by rw [header_congr store]; exact hn)
    exact ⟨hev.trans ev, hown.trans ownq⟩

/-- A class 1 or 2 port at a period end that enters RESERVE. -/
theorem periodPart_low {s : State} (ho : s.phase.phase = .outage) (hr : s.periodPart.phase.phase = .reserve)
    {p : Fin 48} (hcls : (s.policy p).cls ≠ 0) :
    s.periodPart.queued p = false ∧
    (∀ i, s.openSlot p = some i → (s.periodPart.sched.slots.get i).outcome = some .phase) ∧
    ((s.port p).action = .waking → s.openSlot p = none →
      (s.periodPart.port p).action = .idle ∧ (s.periodPart.port p).switch = false ∧
      (s.periodPart.port p).attempts = (s.port p).attempts ∧ ∀ r ∈ s.periodPart.gate.waiting, r.port ≠ p) ∧
    ((s.port p).action = .feeding → s.openSlot p = none → (s.periodPart.port p).action = .feeding) := by
  have counted := counted_marking s
  have phase : s.periodPart.phase.phase = s.counted.levelTested.phase.phase := by rw [periodPart_phase]
  rw [phase] at hr
  have entered := (counted_judgement s).reserve_entered (by rw [counted.phase]; exact ho) hr
  have low : s.counted.uvCounted.lowClass p = true := by
    rw [lowClass_congr ((uvCounted_only _).store.trans counted.store)]
    simpa [State.lowClass] using hcls
  obtain ⟨queue, slots, work⟩ := enterReserve_low low .level
  have slot : s.counted.uvCounted.openSlot p = s.openSlot p := openSlot_congr counted.sched p
  have port : Port.ChargeCounted (s.port p) (s.counted.uvCounted.port p) := counted_port s p
  have action : (s.counted.uvCounted.port p).action = (s.port p).action := by rw [port]
  have attempts : (s.counted.uvCounted.port p).attempts = (s.port p).attempts := by rw [port]
  rw [slot, action, ← entered] at work
  rw [slot, ← entered] at slots
  rw [← entered] at queue
  obtain ⟨sched, offered⟩ := periodPart_queue s
  have barred : s.counted.levelTested.permitted p = false := by
    have store : s.counted.levelTested.store = s.store := by
      rw [entered, (enterReserve_only _ _).store, (uvCounted_only _).store, counted.store]
    rw [Bool.eq_false_iff, ne_eq, permitted_iff, hr, policy_congr store]
    simpa using hcls
  refine ⟨?_, fun i hi => ?_, fun hw hn => ?_, fun hf hn => ?_⟩
  · unfold State.queued
    rw [List.any_eq_false]
    intro e he hep
    have hp : e.port = p := of_decide_eq_true hep
    rcases offered e he with hq | hperm
    · exact queue e hq hp
    · rw [hp, barred] at hperm; cases hperm
  · rw [sched]; exact slots i hi
  · obtain ⟨hport, hgate⟩ := work hn
    have ended : s.counted.levelTested.port p =
        { (s.counted.uvCounted.port p).clearTimers with action := .idle, switch := false } := by
      rw [hport]; exact wakeEnded_of_waking (by rw [action]; exact hw)
    have idle : (s.counted.levelTested.port p).action = .idle := by rw [ended]
    rw [periodPart_port, retried_of_not (by rw [idle]; rintro ⟨h, -, -⟩; cases h), ended]
    refine ⟨rfl, rfl, attempts, ?_⟩
    rintro r hmem rfl
    have left := (periodPart_request s r).mp hmem
    rw [requestLeft_of_not (by rintro ⟨h, -, -⟩; rw [idle] at h; cases h)] at left
    exact hgate hw r left rfl
  · have feeding : (s.counted.levelTested.port p).action = .feeding := by
      rw [(work hn).1]
      unfold Port.wakeEnded
      rw [if_neg (by rw [action, hf]; nofun), action, hf]
    rw [periodPart_port, retried_of_not (by rw [feeding]; rintro ⟨h, -, -⟩; cases h)]
    exact feeding

/-- An entry to CUTOFF at a period end with a bank switch to apply (R147). -/
theorem periodPart_switch {s : State} {target : Bank} (hready : s.store.ready = true)
    (ht : s.store.target = some target) (hl : s.store.load = none) (ha : s.phase.phase.active = true)
    (hc : s.periodPart.phase.phase = .cutoff) :
    ∃ v w : State, v.store = s.store ∧ v.phase.phase = .cutoff ∧ v.path.inst = s.path.inst ∧
      v.path.txn = s.path.txn ∧ v.populated = s.populated ∧ State.SwitchApplied target v w ∧
      s.periodPart.store = w.store ∧ s.periodPart.header = w.header := by
  have counted := counted_marking s
  have phase : s.periodPart.phase.phase = s.counted.levelTested.phase.phase := by rw [periodPart_phase]
  obtain ⟨x, cause, entered, only⟩ :=
    (counted_judgement s).cutoff_entered (by rw [counted.phase]; exact ha) (phase ▸ hc)
  obtain ⟨v, hv, entering, -⟩ := cutoffReached_entering x cause
  have store : (x.cutoffReached cause).store = s.store := by
    rw [(cutoffReached_only cause).store, only.store, counted.store]
  have marks : QueueAndMarks s (x.cutoffReached cause) := by
    rw [hv]
    exact ((counted.marks.1.trans (.of_path only.path)).trans entering.marks).trans (raise_queueAndMarks ..)
  have applied : s.counted.levelTested = (x.cutoffReached cause).applySwitch target := by
    rw [entered, enterCutoff_eq,
      applyTarget_some (by rw [store]; exact ht) (by rw [store]; exact hready) (by rw [store]; exact hl)]
  have same : s.periodPart.store = s.counted.levelTested.store := periodPart_store s
  exact ⟨x.cutoffReached cause, s.counted.levelTested, store, by rw [cutoffReached_phase], marks.path_inst,
    marks.path_txn, populated_congr marks.path_inst, by rw [applied]; exact applySwitch_applied .., same,
    header_congr same⟩

/-- Settles O25: the two tests on the period's own charge, by cases on what they enter. -/
theorem periodEndTestsLevelAndVoltage : Obligations.PeriodEndTestsLevelAndVoltage := by
  intro τ s hline hready hdue q level uv
  have counted := counted_marking (s.advance τ)
  have judged := counted_judgement (s.advance τ)
  have phase := periodPart_phase (s.advance τ)
  have acct := periodPart_acct (s.advance τ)
  have kept := judged.clocksKept
  have count : (s.advance τ).counted.uvCount = uv := counted_uvCount _
  have cphase : (s.advance τ).counted.phase = s.phase := counted.phase
  refine ⟨(s.advance τ).periodPart, exec_periodPart hline hready hdue, fun hn => ?_, fun ha => ?_, fun hp stays => ?_,
    fun hc ha => ?_, fun hr ho p hcls => periodPart_low (s := s.advance τ) ho hr hcls,
    fun target ht hc ha hl => periodPart_switch (s := s.advance τ) hready ht hl ha hc, fun stays => ?_, ?_, ?_, ?_⟩
  · have still := judged.eq_of_inactive (by rw [cphase]; exact hn)
    rw [phase, still, cphase]
    exact ⟨rfl, rfl⟩
  · have charge := counted_charge (s := s.advance τ) (by rintro hm; rw [advance_phase] at hm; rw [hm] at ha; cases ha)
    obtain ⟨hcap, hq, hlevel⟩ := charge
    have header : (s.advance τ).counted.header = s.header := header_congr counted.store
    have outcome := judged.outcome (by rw [cphase]; exact ha) (by rw [hlevel, hq, hcap])
    rw [count, hcap, hlevel, hq, header, cphase] at outcome
    rw [acct, phase]
    exact outcome
  · exact periodPart_entry (s := s.advance τ) hp stays
  · obtain ⟨x, cause, entered, -⟩ := judged.cutoff_entered (by rw [cphase]; exact ha) (by rw [phase] at hc; exact hc)
    obtain ⟨queue, waiting, timer, run, work⟩ := periodPart_atRest (s := s.advance τ) (by rw [phase] at hc; exact hc)
      (by rw [entered]; exact enterCutoff_atRest x cause)
    exact ⟨queue, waiting, timer, run, work⟩
  · rw [periodPart_store, (judged.only (planStays_counted (s := s.advance τ) stays)).store, counted.store]
    rfl
  · rw [phase, kept.phase, cphase]
  · rw [phase, kept.phase, cphase]
  · rw [phase, kept.phase, cphase]

end Sys2Proof.Machine
end

section
/-! PROOFS. What every command but a reset keeps, and the switches of the ports at every step (R26; O5). -/

namespace Sys2Proof.Machine
open Sys2Proof

/-! ## A condition under which a command acts -/

theorem ite_kept {s t : State} {c : Prop} [Decidable c] (h : c → Kept s t) : Kept s (if c then t else s) := by
  split
  · next hc => exact h hc
  · exact .refl s

theorem liveRow_kept {act : State → State} (h : ∀ s, Kept s (act s)) (s : State) : Kept s (s.liveRow act) := by
  unfold State.liveRow
  exact ite_kept fun _ => (touchRow_outer s).kept.trans (h _)

/-- The end of an own access of a kind, where one of that kind is under way. -/
theorem ownDone_kept {act : State → Own → State} (h : ∀ s o, Kept s (act s o)) (isKind : OwnKind → Bool) (s : State) :
    Kept s (match s.ownDone isKind with
      | some o => act s o
      | none => s) := by
  split
  · exact h s _
  · exact .refl s

/-- What a test under way does at a moment of its own, where one is under way. -/
theorem testRun_kept {act : State → TestRun → State} (h : ∀ s run, Kept s (act s run)) (s : State) :
    Kept s (match s.test.run with
      | some run => act s run
      | none => s) := by
  split
  · exact h s _
  · exact .refl s

/-- A test that ends, and the running round that goes on. -/
theorem endTest_runRound_kept (s : State) (run : TestRun) (result : TestResult) (value : Nat)
    (span : Option (Nat × Nat)) : Kept s (s.endTest run result value span false).runRound :=
  (endTest_outer ..).kept.trans (runRound_calm _).outer.kept

theorem setPort_kept (s : State) (p : Fin 48) {x : Port} (h : (s.port p).SwitchOk → x.SwitchOk) :
    Kept s (s.setPort p x) := (setPort_outer h).kept

theorem setPort_open_kept (s : State) (p : Fin 48) {x : Port} (h : x.switch = false) : Kept s (s.setPort p x) :=
  setPort_kept s p fun _ => SwitchOk.of_open h

theorem conversionFailed_kept (s : State) : Kept s { s with scan := (
    if s.scan.startUp then s.scan.afterStartUp s.header s.clock else s.scan.afterChannel s.header s.clock) } := by
  refine (setScan_inner s ?_).outer.kept
  split
  · exact Scan.afterStartUp_view ..
  · exact Scan.afterChannel_view ..

/-- A switch that is allowed on a TRIPPED port is open. -/
theorem SwitchOk.open_of_tripped {x : Port} (h : x.SwitchOk) (ha : x.action = .tripped) : x.switch = false := by
  refine Bool.eq_false_iff.mpr fun hs => ?_
  have := h hs
  rw [ha] at this
  simp at this

/-- A command that happens in time keeps what its effect keeps. -/
theorem kept_of_timed {τ : Nat} {f : State → State} {s t : State} (h : timed τ f s = .next t)
    (hf : ∀ s, Kept s (f s)) : Kept s t := timed_kept hf h

/-! ## The commands -/

/-- Every command but a reset keeps the line of the reset, the waiting commands, the canonical memory, the bounds of
the event queues, the latch, the map lock, the start level's bound and the switches open that have to be. -/
theorem exec_kept {c : Instr} {s t : State} (hc : c.isReset = false) (h : exec c s = .next t) : Kept s t := by
  cases c
  all_goals dsimp only [exec, execLossQualified, execRestoreQualified, execSettlingComplete, execAccountingPeriodEnd,
    execStartLevelWrite, execTerminalStatusReading, execStatusDebounceExpiry, execAbsenceTimerExpiry,
    execTripReport, execCoolOffExpiry, execPulseTimerExpiry, execAnswerTimerExpiry, execRetryTimerExpiry,
    execBarClear, execGateGrant, execConversionComplete, execConversionFailed, execScanTrigger, execScanStop,
    execRoundTimerExpiry, execClaimAttempt, execClaimRelease, execClaimLapse, execTestRequest, execTestAbort,
    execHoldupTimeExpiry, execTestPulseEnd, execTestAnswerTimerExpiry, execDrawSamplingEnd, execReadIndexWrite,
    execBankSwitchWrite, execArrayRead, execArrayWrite, execOtherCommand, execMapLockWrite,
    execLiveWriteAbsorbed, execLinkStuck, execOwnAccessStart, execPlanLoadReadComplete,
    execMeasRecordWriteComplete, execEventRecordWriteComplete, execPortImageWriteComplete,
    execInstallationWriteComplete] at h
  case powerOnReset => cases hc
  case warmReset _ => cases hc
  case nresetRelease => cases hc
  case powerOnResetRelease => cases hc
  case mainsOkChange τ high =>
    cases h
    split
    · exact (advance_kept τ s).trans (mainsSample_kept _ high)
    · exact .of_same rfl rfl rfl rfl rfl rfl rfl rfl rfl
  case lossQualified _ => exact kept_of_timed h (fun s => ite_kept fun _ => (requalify_outer s).kept)
  case restoreQualified _ => exact kept_of_timed h (fun s => ite_kept fun _ => (requalify_outer s).kept)
  case settlingComplete _ => exact kept_of_timed h (fun s => ite_kept fun _ => (settle_outer s).kept)
  case accountingPeriodEnd _ => exact kept_of_timed h (fun s => ite_kept fun _ => (periodEnd_outer s).kept)
  case startLevelWrite _ v => exact kept_of_timed h (liveRow_kept fun s => (writeStartLevel_outer s v).kept)
  case terminalStatusReading _ p reading => exact kept_of_timed h (fun s => setPort_kept s p id)
  case statusDebounceExpiry _ p =>
    refine kept_of_timed h fun s => ?_
    split
    · exact ite_kept fun _ => (statusChange_outer s p _).kept
    · exact .refl s
  case absenceTimerExpiry _ p =>
    exact kept_of_timed h (fun s => ite_kept fun _ => ((endFeed_inner s p).outer.trans (raise_inner ..).outer).kept)
  case tripReport _ p => exact kept_of_timed h (fun s => ite_kept fun _ => (trip_outer s p).kept)
  case coolOffExpiry _ p =>
    refine kept_of_timed h (fun s => ite_kept fun ha => ?_)
    have closes (hok : (s.port p).SwitchOk) : { s.port p with action := .idle, coolOff := none }.SwitchOk :=
      have hopen := SwitchOk.open_of_tripped hok ha.1
      SwitchOk.of_open hopen
    exact (setPort_kept s p closes).trans (markPort_inner _ p).outer.kept
  case pulseTimerExpiry _ p => exact kept_of_timed h (fun s => ite_kept fun _ => setPort_open_kept s p rfl)
  case answerTimerExpiry _ p => exact kept_of_timed h (fun s => ite_kept fun _ => (unanswered_outer s p).kept)
  case retryTimerExpiry _ p => exact kept_of_timed h (fun s => ite_kept fun _ => (retryDue_inner s p).outer.kept)
  case barClear _ v => exact kept_of_timed h (liveRow_kept fun s => (clearBar_outer s v).kept)
  case gateGrant _ =>
    refine kept_of_timed h fun s => ?_
    split
    · exact (grant_outer s _).kept
    · exact .refl s
  case conversionComplete _ raw => exact kept_of_timed h (fun s => ite_kept fun _ => (converted_outer s raw).kept)
  case conversionFailed _ => exact kept_of_timed h (fun s => ite_kept fun _ => conversionFailed_kept s)
  case scanTrigger _ source =>
    refine kept_of_timed h fun s => ?_
    split
    · exact liveRow_kept (fun s => (trigger_inner s source).outer.kept) s
    · exact (trigger_inner s source).outer.kept
  case scanStop _ => exact kept_of_timed h (liveRow_kept fun s => (stopScan_inner s).outer.kept)
  case roundTimerExpiry _ => exact kept_of_timed h (fun s => ite_kept fun _ => (roundTimerDone_outer s).kept)
  case claimAttempt _ => exact kept_of_timed h (liveRow_kept readClaimRow_kept)
  case claimRelease _ => exact kept_of_timed h (liveRow_kept fun s => (release_outer s).kept)
  case claimLapse _ => exact kept_of_timed h (fun s => ite_kept fun _ => (release_outer s).kept)
  case testRequest _ port kind minutes =>
    exact kept_of_timed h (fun s => ite_kept fun _ => liveRow_kept
      (fun s => ((storeRequest_outer s port kind minutes).trans (takeRequest_outer _)).kept) s)
  case testAbort _ _ => exact kept_of_timed h (liveRow_kept fun s => (abortWrite_outer s).kept)
  case holdupTimeExpiry _ =>
    exact kept_of_timed h (testRun_kept fun s run => ite_kept fun _ => endTest_runRound_kept ..)
  case testPulseEnd _ =>
    refine kept_of_timed h (testRun_kept fun s run => ite_kept fun _ => ?_)
    exact Kept.trans (t := { s with test := { s.test with run := some { run with pulse := none } } })
      (.of_same rfl rfl rfl rfl rfl rfl rfl rfl rfl) (setPort_open_kept _ run.port rfl)
  case testAnswerTimerExpiry _ =>
    exact kept_of_timed h (testRun_kept fun s run => ite_kept fun _ => endTest_runRound_kept ..)
  case drawSamplingEnd _ samples =>
    exact kept_of_timed h (testRun_kept fun s run => ite_kept fun _ =>
      (judgeDraw_outer s run samples).kept.trans (runRound_calm _).outer.kept)
  case readIndexWrite _ lo hi =>
    exact kept_of_timed h (fun s => ite_kept fun _ => liveRow_kept (fun s => (takeIndex_outer s lo hi).kept) s)
  case bankSwitchWrite _ v => exact kept_of_timed h (liveRow_kept fun s => (switchWrite_outer s v).kept)
  case transactionStart τ =>
    cases h
    split
    · exact (advance_kept τ s).trans (fallCs_kept _)
    · exact .of_same rfl rfl rfl rfl rfl rfl rfl rfl rfl
  case arrayRead _ addr count => exact kept_of_timed h (fun s => takeRead_kept s addr count)
  case arrayWrite _ addr bytes => exact kept_of_timed h (fun s => takeWrite_kept s addr bytes)
  case otherCommand _ _ => exact kept_of_timed h (fun s => (takeOther_outer s).kept)
  case mapLockWrite _ v => exact kept_of_timed h (liveRow_kept fun s => (lockWrite_outer s v).kept)
  case liveWriteAbsorbed _ _ _ => exact kept_of_timed h (liveRow_kept Kept.refl)
  case transactionEnd τ =>
    cases h
    split
    · exact (advance_kept τ s).trans (riseCs_kept _)
    · exact .of_same rfl rfl rfl rfl rfl rfl rfl rfl rfl
  case linkStuck _ => exact kept_of_timed h stickCs_kept
  case ownAccessStart _ => exact kept_of_timed h startOwn_kept
  case planLoadReadComplete _ => exact kept_of_timed h (ownDone_kept loadRead_kept _)
  case measRecordWriteComplete _ => exact kept_of_timed h (ownDone_kept measWritten_kept _)
  case eventRecordWriteComplete _ => exact kept_of_timed h (ownDone_kept eventWritten_kept _)
  case portImageWriteComplete _ =>
    refine kept_of_timed h fun s => ?_
    split
    · next o _ =>
      split
      · exact ite_kept fun _ => imageWritten_kept s o _
      all_goals exact .refl s
    · exact .refl s
  case installationWriteComplete _ => exact kept_of_timed h (ownDone_kept instWritten_kept _)

/-! ## The switches -/

/-- A reset opens every switch; its release moves none. -/
theorem reset_keeps_switchesOk {c : Instr} {s t : State} (hc : c.isReset = true) (h : exec c s = .next t)
    (hok : s.SwitchesOk) : t.SwitchesOk := by
  cases c with
  | powerOnReset =>
    cases h
    exact fun p => SwitchOk.of_open (congrArg Port.switch (reset_port p))
  | warmReset τ =>
    cases h
    split
    · exact fun p => SwitchOk.of_open (congrArg Port.switch (warm_port (s.advance τ) p))
    · exact hok
  | nresetRelease => cases h; split <;> exact hok
  | powerOnResetRelease => cases h; split <;> exact hok
  | _ => cases hc

theorem exec_keeps_switchesOk {c : Instr} {s t : State} (h : exec c s = .next t) (hok : s.SwitchesOk) :
    t.SwitchesOk := by
  cases hc : c.isReset with
  | true => exact reset_keeps_switchesOk hc h hok
  | false => exact fun p => (exec_kept hc h).ok p (hok p)

/-- Settles O5: the front command is a reset, which opens every switch, or keeps the switches open that have to be. -/
theorem stepKeepsSwitchesOpen : Obligations.StepKeepsSwitchesOpen := by
  intro s t hok h
  unfold step at h
  split at h
  · cases h; exact hok
  · exact exec_keeps_switchesOk h hok

end Sys2Proof.Machine
end

section
/-! PROOFS. A port's own timers, readings and clears: the status candidate, the absence and pulse timers, the cool-off
and the bar clear (R23, R25, R29, R35, R36; O29, O31, O33). -/

namespace Sys2Proof.Machine
open Sys2Proof

/-! ## Moments that come early -/

/-- A command that moves the clock alone. -/
theorem advance_sameBut (s : State) (τ : Nat) : SameBut [] s (s.advance τ) :=
  (Only.refl (s.advance τ)).sameBut_advance

theorem not_hasRun {x : Option Nat} {len now : Nat}
    (h : x = none ∨ ∃ since, x = some since ∧ now < since + len) : hasRun x len now = false := by
  rcases h with rfl | ⟨since, rfl, h⟩
  · rfl
  · simpa [hasRun] using h

theorem hasRun_some {x : Option Nat} {since len now : Nat} (hx : x = some since) (h : since + len ≤ now) :
    hasRun x len now = true := by
  subst hx; simpa [hasRun] using h

theorem setPort_otherPorts (s : State) (p : Fin 48) (x : Port) : OtherPorts p s (s.setPort p x) :=
  fun q hq => port_setPort_ne s p q x hq

/-! ## A port's record replaced and the port marked (R43) -/

/-- What a port that takes a new record and its mark leaves alone. -/
structure PortMoved (p : Fin 48) (x : Port) (s t : State) : Prop where
  port : t.port p = x
  others : OtherPorts p s t
  marked : MarkSet p s t
  marking : Marking [.ports, .path] s t

theorem setPort_markPort_moved (s : State) (p : Fin 48) (x : Port) : PortMoved p x s ((s.setPort p x).markPort p) where
  port := port_setPort_same ..
  others := setPort_otherPorts s p x
  marked := ⟨rfl, rfl⟩
  marking := (setPort_only s p x).marking.next (markPort_marking _ p)

/-- The end of a feed (R27). -/
theorem endFeed_moved {s : State} {p : Fin 48} (h : (s.port p).action = .feeding) :
    PortMoved p { s.port p with action := .idle, switch := false, absence := none, fed := false } s (s.endFeed p) := by
  unfold State.endFeed
  dsimp only
  rw [if_pos h]
  exact setPort_markPort_moved ..

/-! ## The status candidate (R23) -/

theorem candidate_none (x : Port) (now : Nat) : x.candidate none now = none := rfl

theorem candidate_status {x : Port} {l : TermStatus} (h : l = x.status) (now : Nat) :
    x.candidate (some l) now = none := if_pos h

theorem candidate_kept {x : Port} {l : TermStatus} {since : Nat} (h : l ≠ x.status) (hc : x.cand = some (l, since))
    (now : Nat) : x.candidate (some l) now = some (l, since) := by
  unfold Port.candidate; simp [h, hc]

theorem candidate_new {x : Port} {l : TermStatus} (h : l ≠ x.status) (hc : ∀ since, x.cand ≠ some (l, since))
    (now : Nat) : x.candidate (some l) now = some (l, now) := by
  unfold Port.candidate
  dsimp only
  rw [if_neg h]
  split
  · next c since hcand => rw [if_neg (by rintro rfl; exact hc since hcand)]
  · rfl

/-- Settles O29: the candidate by cases on the reading, the status and the candidate held. -/
theorem statusReadingSetsCandidate : Obligations.StatusReadingSetsCandidate := by
  intro τ p reading s hline now x
  have port := port_setPort_same (s.advance τ) p { x with cand := x.candidate reading now }
  have hexec : exec (.terminalStatusReading τ p reading) s =
      .next ((s.advance τ).setPort p { x with cand := x.candidate reading now }) := by
    simp only [exec, execTerminalStatusReading, timed_released hline]
    rfl
  refine ⟨_, hexec, rfl, ?_⟩
  rw [port]
  refine ⟨rfl, fun h => ?_, fun l h => ⟨fun hl => ?_, fun since hl hc => ?_, fun hl hc => ?_⟩,
    setPort_otherPorts (s.advance τ) p _, (setPort_only (s.advance τ) p _).sameBut_advance⟩
  all_goals subst h
  · exact candidate_none x now
  · exact candidate_status hl now
  · exact candidate_kept hl hc now
  · exact candidate_new hl hc now

/-! ## The absence timer and the pulses (R25, R29, R115) -/

/-- The feed of an ABSENT terminal ends with its event (R25). -/
theorem exec_absenceTimerExpiry_due {τ since : Nat} {p : Fin 48} {s : State} (hline : s.line = .released)
    (ha : (s.port p).action = .feeding) (hx : (s.port p).absence = some since)
    (hdue : since + Config.absenceTime ≤ max s.clock τ) :
    exec (.absenceTimerExpiry τ p) s =
      .next (((s.advance τ).endFeed p).raise .terminalLost p.val (s.current p) 0) := by
  have h : ((s.advance τ).port p).action = .feeding ∧
      hasRun ((s.advance τ).port p).absence Config.absenceTime (s.advance τ).clock = true :=
    ⟨ha, hasRun_some hx hdue⟩
  simp only [exec, execAbsenceTimerExpiry, timed_released hline, if_pos h]
  rfl

/-- Without a feed whose absence timer has run nothing happens (log 4). -/
theorem exec_absenceTimerExpiry_early {τ : Nat} {p : Fin 48} {s : State} (hline : s.line = .released)
    (h : (s.port p).action ≠ .feeding ∨ (s.port p).absence = none ∨
      ∃ since, (s.port p).absence = some since ∧ max s.clock τ < since + Config.absenceTime) :
    exec (.absenceTimerExpiry τ p) s = .next (s.advance τ) := by
  have hn : ¬(((s.advance τ).port p).action = .feeding ∧
      hasRun ((s.advance τ).port p).absence Config.absenceTime (s.advance τ).clock = true) := by
    rintro ⟨ha, hx⟩
    rcases h with h | h
    · exact h ha
    · exact absurd hx (Bool.eq_false_iff.mp (not_hasRun h))
  simp only [exec, execAbsenceTimerExpiry, timed_released hline, if_neg hn]

/-- The absence timer of a feed has run (R25). -/
theorem absenceEnded (s : State) (p : Fin 48) (ha : (s.port p).action = .feeding) :
    let t := (s.endFeed p).raise .terminalLost p.val (s.current p) 0
    t.port p = { s.port p with action := .idle, switch := false, absence := none, fed := false } ∧
      OtherPorts p s t ∧ QueueAndMarks s t ∧ MarkSet p s t ∧
      Raised .terminalLost p.val (s.current p) 0 s.store.plan.tag s t ∧ Only [.ports, .ev, .path] s t := by
  intro t
  have moved := endFeed_moved ha
  refine ⟨moved.port, moved.others, moved.marking.marks.1.trans (raise_queueAndMarks ..), moved.marked, ?_,
    moved.marking.toOnly.next (raise_only ..)⟩
  have h := raise_raised (s.endFeed p) .terminalLost p.val (s.current p) 0
  rw [moved.marking.store] at h
  exact h.congr moved.marking.ownq.symm moved.marking.ev.symm rfl rfl ⟨rfl, rfl, rfl, rfl, rfl⟩

/-- The pulse of a WAKE test no longer timed (R115). -/
def State.testPulseOpened (s : State) (run : TestRun) : State :=
  { s with test := { s.test with run := some { run with pulse := none } } }

/-- Settles O31: the end of the feed with its event, and the two pulses that open their switch. -/
theorem absenceAndPulseTimersExpire : Obligations.AbsenceAndPulseTimersExpire := by
  refine ⟨fun τ p s hline => ?_, fun τ since s hline hdue => ⟨fun p ha hx => ?_, fun run hrun hk hx => ?_⟩⟩
  · intro now x
    by_cases h : ∃ since, x.action = .feeding ∧ x.absence = some since ∧ since + Config.absenceTime ≤ now
    · obtain ⟨since, ha, hx, hdue⟩ := h
      obtain ⟨port, others, marks, marked, raised, only⟩ := absenceEnded (s.advance τ) p ha
      refine ⟨_, exec_absenceTimerExpiry_due hline ha hx hdue, only.clock,
        fun _ _ _ _ => ⟨port, others, marks, marked, raised, only.sameBut_advance⟩, ?_⟩
      rintro (hn | hn | ⟨since', hn, hlt⟩)
      · exact absurd ha hn
      · rw [hx] at hn; cases hn
      · rw [hx] at hn; cases hn; omega
    · have early : x.action ≠ .feeding ∨ x.absence = none ∨
          ∃ since, x.absence = some since ∧ now < since + Config.absenceTime := by
        by_contra hc
        push Not at hc
        obtain ⟨ha, hx, hlt⟩ := hc
        obtain ⟨since, hsince⟩ := Option.ne_none_iff_exists'.mp hx
        exact h ⟨since, ha, hsince, hlt since hsince⟩
      exact ⟨_, exec_absenceTimerExpiry_early hline early, rfl, fun since ha hx hdue => absurd ⟨since, ha, hx, hdue⟩ h,
        fun _ => advance_sameBut s τ⟩
  · have h : ((s.advance τ).port p).action = .waking ∧
        hasRun ((s.advance τ).port p).pulse Config.pulseTime (s.advance τ).clock = true :=
      ⟨ha, hasRun_some hx hdue⟩
    have hexec : exec (.pulseTimerExpiry τ p) s = .next ((s.advance τ).setPort p
        { s.port p with switch := false, step := some .answer, pulse := none }) := by
      simp only [exec, execPulseTimerExpiry, timed_released hline, if_pos h]
      rfl
    exact ⟨_, hexec, rfl, port_setPort_same .., setPort_otherPorts (s.advance τ) p _,
      (setPort_only (s.advance τ) p _).sameBut_advance⟩
  · have hexec : exec (.testPulseEnd τ) s = .next (((s.advance τ).testPulseOpened run).setPort run.port
        { s.port run.port with switch := false }) := by
      have h : run.kind = .wake ∧ hasRun run.pulse Config.pulseTime (s.advance τ).clock = true :=
        ⟨hk, hasRun_some hx hdue⟩
      simp only [exec, execTestPulseEnd, timed_released hline, advance_test, hrun, if_pos h]
      rfl
    have only : Only [.ports, .test] (s.advance τ) (((s.advance τ).testPulseOpened run).setPort run.port
        { s.port run.port with switch := false }) := (Only.setTest _ _).next (setPort_only ..)
    exact ⟨_, hexec, rfl, port_setPort_same .., setPort_otherPorts ((s.advance τ).testPulseOpened run) run.port _, rfl,
      only.sameBut_advance⟩

/-! ## The cool-off and the bar clear (R35, R36) -/

/-- A port's bar is cleared (R36). -/
theorem clearBar_barred {s : State} {p : Fin 48} {v : Byte} (hv : p.val = v.toNat)
    (ha : (s.port p).action = .barred) :
    s.clearBar v = (s.setPort p { s.port p with action := .idle, trips := 0, attempts := 0 }).markPort p := by
  have hp : portOf v.toNat = some p := by
    unfold portOf; rw [dif_pos (hv ▸ p.isLt)]; exact congrArg some (Fin.ext hv.symm)
  unfold State.clearBar
  rw [hp]
  exact if_pos ha

/-- A bar clear for no port, or for one that is not BARRED, does nothing (R36). -/
theorem clearBar_other {s : State} {v : Byte}
    (h : 48 ≤ v.toNat ∨ ∃ p : Fin 48, p.val = v.toNat ∧ (s.port p).action ≠ .barred) : s.clearBar v = s := by
  unfold State.clearBar portOf
  rcases h with h | ⟨p, hv, ha⟩
  · rw [dif_neg (by omega)]
  · rw [dif_pos (hv ▸ p.isLt)]
    have hp : (⟨v.toNat, hv ▸ p.isLt⟩ : Fin 48) = p := Fin.ext hv.symm
    simp only [hp, if_neg ha]

/-- The part at the moment of a command that names a live byte of its own, the window touched (R111; log 8). -/
def State.touchedAt (s : State) (τ : Nat) : State :=
  { s.advance τ with path := s.pathTouched, test := { s.test with lapse := s.lapseAfter (max s.clock τ) } }

theorem liveRow_advance {s : State} (h : s.takesLive = true) (τ : Nat) (act : State → State) :
    (s.advance τ).liveRow act = act (s.touchedAt τ) := liveRow_taken (s := s.advance τ) h act

theorem touchedAt_only (s : State) (τ : Nat) : Only [.test, .path] (s.advance τ) (s.touchedAt τ) :=
  (Only.setPath (s.advance τ) s.pathTouched).next (Only.setTest _ _)

/-- Settles O33: the cool-off by its timer, the bar clear by the port it names. -/
theorem coolOffAndBarClearEndInIdle : Obligations.CoolOffAndBarClearEndInIdle := by
  intro τ s hline now
  refine ⟨fun p => ?_, fun v hlive => ?_⟩
  · by_cases h : ((s.advance τ).port p).action = .tripped ∧
        hasRun ((s.advance τ).port p).coolOff Config.coolOffTime (s.advance τ).clock = true
    · have hexec : exec (.coolOffExpiry τ p) s = .next (((s.advance τ).setPort p
          { s.port p with action := .idle, coolOff := none }).markPort p) := by
        simp only [exec, execCoolOffExpiry, timed_released hline, if_pos h]
        rfl
      have moved := setPort_markPort_moved (s.advance τ) p { s.port p with action := .idle, coolOff := none }
      refine ⟨_, hexec, rfl, fun since _ _ _ => ⟨moved.port, moved.others, moved.marking.marks, moved.marked,
        moved.marking.toOnly.sameBut_advance⟩, ?_⟩
      rintro (hn | hn)
      · exact absurd h.1 hn
      · exact absurd h.2 (Bool.eq_false_iff.mp (not_hasRun hn))
    · have hexec : exec (.coolOffExpiry τ p) s = .next (s.advance τ) := by
        simp only [exec, execCoolOffExpiry, timed_released hline, if_neg h]
      exact ⟨_, hexec, rfl, fun since ha hx hdue => absurd ⟨ha, hasRun_some hx hdue⟩ h,
        fun _ => advance_sameBut s τ⟩
  · have hexec : exec (.barClear τ v) s = .next ((s.touchedAt τ).clearBar v) := by
      simp only [exec, execBarClear, timed_released hline, liveRow_advance hlive]
    have touched := touchedAt_only s τ
    by_cases h : ∃ p : Fin 48, p.val = v.toNat ∧ (s.port p).action = .barred
    · obtain ⟨p, hv, ha⟩ := h
      rw [clearBar_barred (s := s.touchedAt τ) hv ha] at hexec
      have moved := setPort_markPort_moved (s.touchedAt τ) p { s.port p with action := .idle, trips := 0, attempts := 0 }
      have only : Only [.ports, .test, .path] (s.advance τ) _ := touched.next moved.marking.toOnly
      refine ⟨_, hexec, only.clock, moved.marking.test, only.sameBut_advance, fun q hq _ => ?_, ?_⟩
      · obtain rfl : q = p := Fin.ext (hq.trans hv.symm)
        exact ⟨moved.port, moved.others, moved.marking.marks, moved.marked⟩
      · rintro (hn | ⟨q, hq, hn⟩)
        · have := p.isLt; omega
        · obtain rfl : q = p := Fin.ext (hq.trans hv.symm)
          exact absurd ha hn
    · have other : 48 ≤ v.toNat ∨ ∃ p : Fin 48, p.val = v.toNat ∧ ((s.touchedAt τ).port p).action ≠ .barred := by
        by_cases hv : v.toNat < 48
        · exact .inr ⟨⟨v.toNat, hv⟩, rfl, fun ha => h ⟨_, rfl, ha⟩⟩
        · exact .inl (by omega)
      rw [clearBar_other other] at hexec
      exact ⟨_, hexec, rfl, rfl, (touched.mono (n := [.ports, .test, .path])).sameBut_advance,
        fun p hv ha => absurd ⟨p, hv, ha⟩ h, fun _ => ⟨rfl, rfl⟩⟩

end Sys2Proof.Machine
end

section
/-! PROOFS. The segment gate: its limits, the head of a segment, and what a grant begins (R27, R29, R37 to R41, R98,
R115; O35, O36, O37). -/

namespace Sys2Proof.Machine
open Sys2Proof

/-! ## The head of a segment (R40, R98) -/

theorem find_slot {l : List Request} {r : Request} (h : l.filter (fun q => q.kind = .slot) = [r]) :
    l.find? (fun q => q.kind = .slot) = some r := by
  rw [← List.head?_filter, h]; rfl

/-- No older request waits in the segment of `r` (R40). -/
def State.HeadOf (s : State) (r : Request) (g : Fin 8) : Prop :=
  ∀ q ∈ s.gate.waiting, s.segOf q.port = some g → r.placed ≤ q.placed

theorem isHead_iff {s : State} {r : Request} {g : Fin 8} (hg : s.segOf r.port = some g) :
    s.isHead r = true ↔ s.HeadOf r g := by
  unfold State.isHead State.HeadOf
  simp [hg, List.all_eq_true, imp_iff_not_or]

/-- What the head check does with the one slot request at the gate. -/
theorem checkHead_slot {s : State} {r : Request} {g : Fin 8} (hg : s.segOf r.port = some g)
    (hone : s.gate.waiting.filter (fun q => q.kind = .slot) = [r]) :
    s.checkHead = if r.headed || !s.isHead r then s
      else if s.windowFull g then (s.unrequest r.port).resolvePort r.port .windowFull
      else { s with gate := { s.gate with
        waiting := s.gate.waiting.map fun q => if q = r then { q with headed := true } else q } } := by
  unfold State.checkHead
  simp only [find_slot hone, hg]

theorem windowFull_iff (s : State) (g : Fin 8) : s.windowFull g = true ↔
    4 ≤ (s.gate.hist.get g).countP fun t => s.clock < t + s.header.window * Config.sec := by
  unfold State.windowFull State.inWindow; exact decide_eq_true_iff

/-- The slot of a dropped request is resolved (R98). -/
theorem resolvePort_sched_of_open {s : State} {p : Fin 48} {i : Fin 4} (h : s.openSlot p = some i) (o : SlotOutcome) :
    (s.resolvePort p o).sched = { s.sched with
      slots := s.sched.slots.set i { s.sched.slots.get i with outcome := some o } } := by
  unfold State.resolvePort; rw [h]; rfl

/-! ## The inrush window (R39) -/

/-- With at most four rising start times a window holds four exactly when there are four and the oldest is inside. -/
theorem four_inside_iff {l : List Nat} (hlen : l.length ≤ 4) (hsorted : l.Pairwise (· ≤ ·)) (now w : Nat) :
    ¬4 ≤ l.countP (fun t => now < t + w) ↔ l.length < 4 ∨ ∃ first, l.head? = some first ∧ first + w ≤ now := by
  have bound : l.countP (fun t => now < t + w) ≤ l.length := List.countP_le_length
  rw [Nat.not_le]
  cases l with
  | nil => simp
  | cons first rest =>
    have older : ∀ t ∈ rest, first ≤ t := (List.pairwise_cons.mp hsorted).1
    have all_iff : (first :: rest).countP (fun t => now < t + w) = (first :: rest).length ↔ now < first + w := by
      rw [List.countP_eq_length]
      refine ⟨fun h => by simpa using h first (by simp), fun h t ht => ?_⟩
      have : first ≤ t := by
        rcases List.mem_cons.mp ht with rfl | ht
        · exact le_rfl
        · exact older t ht
      simp only [decide_eq_true_eq]
      omega
    have head : (∃ x, (first :: rest).head? = some x ∧ x + w ≤ now) ↔ first + w ≤ now := by simp
    rw [head]
    generalize (first :: rest).countP (fun t => now < t + w) = n at bound all_iff ⊢
    omega

/-- Settles O35: the head check on the one slot request, and the three limits of a grant. -/
theorem gateGrantsUnderThreeLimits : Obligations.GateGrantsUnderThreeLimits := by
  refine ⟨fun r g s _ hg hone => ?_, fun r g s hg hlen hsorted => ?_⟩
  · intro head full t
    have check := checkHead_slot hg hone
    have full_iff : s.windowFull g = true ↔ full := windowFull_iff s g
    have passed_iff : (r.headed || !s.isHead r) = true ↔ r.headed = true ∨ ¬head := by
      rw [Bool.or_eq_true, Bool.not_eq_true', ← Bool.not_eq_true, isHead_iff hg]
      rfl
    refine ⟨fun hh hd hf => ?_, fun hh hd hf => ?_, fun h => check.trans (if_pos (passed_iff.mpr h))⟩
    all_goals
      have judged : ¬(r.headed || !s.isHead r) = true := by
        rw [passed_iff, hh]
        exact not_or.mpr ⟨nofun, not_not_intro hd⟩
      rw [if_neg judged] at check
    · rw [if_pos (full_iff.mpr hf)] at check
      have dropped := resolvePort_only (s.unrequest r.port) r.port .windowFull
      have only : Only [.gate, .sched] s t := by rw [show t = _ from check]; exact (unrequest_only s _).next dropped
      refine ⟨?_, fun i hi => ?_, only.sameBut⟩
      · rw [show t = _ from check, dropped.gate]; rfl
      · rw [show t = _ from check]; exact resolvePort_sched_of_open (s := s.unrequest r.port) hi .windowFull
    · rw [if_neg fun h => hf (full_iff.mp h)] at check
      rw [show t = _ from check]
      exact ⟨rfl, (Only.setGate s _).sameBut⟩
  · have window : (!s.windowFull g) = true ↔ (s.gate.hist.get g).length < 4 ∨
        ∃ first, (s.gate.hist.get g).head? = some first ∧ first + s.header.window * Config.sec ≤ s.clock := by
      rw [Bool.not_eq_true', ← Bool.not_eq_true, windowFull_iff]
      exact four_inside_iff hlen hsorted _ _
    have spaced (x : Option Nat) (len : Nat) : (match x with
        | some t => decide (t + len ≤ s.clock)
        | none => true) = true ↔ ∀ last, x = some last → last + len ≤ s.clock := by
      cases x <;> simp
    unfold State.grantable
    simp only [hg, Bool.and_eq_true, window, and_assoc]
    exact and_congr (spaced _ _) (and_congr_left' (spaced _ _))

/-! ## The request that is granted (R40) -/

theorem before_asymm {r q : Request} (h : r.before q = true) : q.before r = false := by
  unfold Request.before at h ⊢
  rw [Bool.or_eq_true, Bool.and_eq_true, decide_eq_true_eq, beq_iff_eq, decide_eq_true_eq] at h
  rw [Bool.or_eq_false_iff, Bool.and_eq_false_iff, decide_eq_false_iff_not, beq_eq_false_iff_ne,
    decide_eq_false_iff_not]
  omega

theorem oldest_mem {l : List Request} {r : Request} (h : oldest l = some r) : r ∈ l := by
  induction l generalizing r with
  | nil => cases h
  | cons x rest ih =>
    unfold oldest at h
    split at h
    · cases h; simp
    · next q hq =>
      split at h
      · cases h; exact List.mem_cons_of_mem _ (ih hq)
      · cases h; simp

/-- A request that comes before every other one of a list is its oldest. -/
theorem oldest_eq {l : List Request} {r : Request} (hr : r ∈ l) (h : ∀ q ∈ l, q ≠ r → r.before q = true) :
    oldest l = some r := by
  induction l with
  | nil => cases hr
  | cons x rest ih =>
    have ih := fun hmem => ih hmem fun q hq => h q (List.mem_cons_of_mem _ hq)
    unfold oldest
    by_cases hx : x = r
    · subst hx
      split
      · rfl
      · next q hq =>
        by_cases hqx : q = x
        · rw [hqx, ite_self]
        · rw [if_neg (by rw [before_asymm (h q (List.mem_cons_of_mem _ (oldest_mem hq)) hqx)]; nofun)]
    · have hmem : r ∈ rest := (List.mem_cons.mp hr).resolve_left fun e => hx e.symm
      rw [ih hmem]
      exact if_pos (h x (by simp) hx)

/-- The grant of the oldest request that meets the limits. -/
theorem exec_gateGrant {τ : Nat} {r : Request} {s : State} (hline : s.line = .released)
    (hr : r ∈ s.gate.waiting) (hgrant : (s.advance τ).grantable r = true)
    (hold : ∀ q ∈ s.gate.waiting, q ≠ r → (s.advance τ).grantable q = true → r.before q = true) :
    exec (.gateGrant τ) s = .next (((s.advance τ).noteGrant r).tellGrant r).runRound := by
  have next : (s.advance τ).nextGrant = some r :=
    oldest_eq (List.mem_filter.mpr ⟨hr, hgrant⟩) fun q hq hne =>
      hold q (List.mem_filter.mp hq).1 hne (List.mem_filter.mp hq).2
  simp only [exec, execGateGrant, timed_released hline, next]
  rfl

/-! ## What a grant notes (R41) -/

/-- The gate after a grant: the request gone, its start time the newest of its segment's four. -/
def State.grantedGate (s : State) (r : Request) (g : Fin 8) : Gate :=
  { waiting := s.gate.waiting.filter fun q => q.port ≠ r.port
    hist := s.gate.hist.set g ((s.gate.hist.get g ++ [s.clock]).drop ((s.gate.hist.get g).length - 3))
    last := some s.clock }

/-- A request granted in segment `g`, before its requester is told (R41). -/
def State.granted (s : State) (r : Request) (g : Fin 8) : State :=
  { s with gate := s.grantedGate r g, acct := { s.acct with count := s.acct.count + 1 } }

theorem granted_only (s : State) (r : Request) (g : Fin 8) : Only [.gate, .acct] s (s.granted r g) :=
  (Only.setGate s (s.grantedGate r g)).next (Only.setAcct _ { s.acct with count := s.acct.count + 1 })

theorem noteGrant_eq {s : State} {r : Request} {g : Fin 8} (hg : s.segOf r.port = some g) :
    s.noteGrant r = s.granted r g := by
  unfold State.noteGrant State.granted State.grantedGate pushStart
  simp only [hg]
  rfl

theorem filter_port_twice (p : Fin 48) (l : List Request) :
    (l.filter fun r => r.port ≠ p).filter (fun r => r.port ≠ p) = l.filter fun r => r.port ≠ p := by
  rw [List.filter_filter]; simp

/-- The granted port has no other request at the gate. -/
theorem grantedGate_unrequested (s : State) (r : Request) (g : Fin 8) :
    { s.grantedGate r g with waiting := (s.grantedGate r g).waiting.filter fun q => q.port ≠ r.port } =
      s.grantedGate r g :=
  congrArg (fun l => { s.grantedGate r g with waiting := l }) (filter_port_twice ..)

/-! ## The work that a grant begins (R27, R29, R37) -/

/-- A feed begins (R27). -/
theorem startFeed_moved (s : State) (p : Fin 48) : PortMoved p { s.port p with
      action := .feeding, switch := true, fed := false
      absence := if (s.port p).status = .absent then some s.clock else none } s (s.startFeed p) :=
  setPort_markPort_moved ..

/-- Number of attempts once a pulse begins (R29). -/
def Port.nextAttempts (x : Port) : Nat := if x.action = .waking then x.attempts + 1 else 1

/-- A port's record when a pulse of a wake begins (R29): a terminal at RUN has answered it (R30). -/
def Port.pulsed (x : Port) (now : Nat) : Port :=
  if x.status = .run then { x.clearTimers with action := .idle, switch := false, attempts := x.nextAttempts }
  else { x.clearTimers with
    action := .waking, switch := true, step := some .pulse, attempts := x.nextAttempts
    pulse := some now, answer := some now }

theorem nextAttempts_idle {x : Port} (h : x.action = .idle) : x.nextAttempts = 1 := by
  unfold Port.nextAttempts; rw [h]; rfl

theorem nextAttempts_waking {x : Port} (h : x.action = .waking) : x.nextAttempts = x.attempts + 1 := if_pos h

theorem pulsed_answered {x : Port} (h : x.status = .run) (now : Nat) : x.pulsed now =
    { x.clearTimers with action := .idle, switch := false, attempts := x.nextAttempts } := if_pos h

theorem pulsed_awaiting {x : Port} (h : x.status ≠ .run) (now : Nat) : x.pulsed now = { x.clearTimers with
    action := .waking, switch := true, step := some .pulse, attempts := x.nextAttempts
    pulse := some now, answer := some now } := if_neg h

/-- The mark of a port set twice. -/
theorem MarkSet.trans {p : Fin 48} {s t u : State} (h : MarkSet p s t) (k : MarkSet p t u)
    (hm : t.canMark = s.canMark) : MarkSet p s u := by
  refine ⟨?_, k.2.trans h.2⟩
  rw [k.1, hm, h.1]
  cases s.canMark
  · rfl
  · exact tab_set_set ..

theorem OtherPorts.trans {p : Fin 48} {s t u : State} (h : OtherPorts p s t) (k : OtherPorts p t u) :
    OtherPorts p s u := fun q hq => (k q hq).trans (h q hq)

/-- A pulse begins, before its answer is looked at (R29). -/
def State.pulseBegun (s : State) (p : Fin 48) : State :=
  (s.setPort p { (s.port p).clearTimers with
    action := .waking, step := some .pulse, switch := true, attempts := (s.port p).nextAttempts
    pulse := some s.clock, answer := some s.clock }).markPort p

theorem startPulse_eq (s : State) (p : Fin 48) : s.startPulse p =
    if (s.port p).status = .run then (s.pulseBegun p).endWake p else s.pulseBegun p := rfl

theorem pulseBegun_moved (s : State) (p : Fin 48) : PortMoved p { (s.port p).clearTimers with
    action := .waking, step := some .pulse, switch := true, attempts := (s.port p).nextAttempts
    pulse := some s.clock, answer := some s.clock } s (s.pulseBegun p) := setPort_markPort_moved ..

/-- A pulse of a wake begins on a port without a request at the gate. -/
theorem startPulse_pulsed {s : State} {p : Fin 48}
    (hg : { s.gate with waiting := s.gate.waiting.filter fun q => q.port ≠ p } = s.gate) :
    let t := s.startPulse p
    t.port p = (s.port p).pulsed s.clock ∧ t.gate = s.gate ∧ OtherPorts p s t ∧ MarkSet p s t ∧
      Marking [.ports, .gate, .path] s t := by
  intro t
  have begun := pulseBegun_moved s p
  have ht : t = _ := startPulse_eq s p
  unfold Port.pulsed
  by_cases hrun : (s.port p).status = .run
  · rw [if_pos hrun] at ht ⊢
    obtain ⟨port, others, gate, marked⟩ := endWake_of_waking (congrArg Port.action begun.port)
    rw [ht]
    refine ⟨?_, gate.trans hg, begun.others.trans others, begun.marked.trans marked ?_,
      begun.marking.next (endWake_marking _ p)⟩
    · rw [port, begun.port]; rfl
    · exact canMark_congr rfl rfl
  · rw [if_neg hrun] at ht ⊢
    rw [ht]
    exact ⟨begun.port, rfl, begun.others, begun.marked, begun.marking.mono⟩

/-- The work of a slot begins on its IDLE port (R27, R29). -/
theorem startSlot_outcome {s : State} {p : Fin 48} (action : SlotAction) (ha : (s.port p).action = .idle)
    (hg : { s.gate with waiting := s.gate.waiting.filter fun q => q.port ≠ p } = s.gate) :
    let x := s.port p
    let t := s.startSlot action p
    (action ≠ .wake → t.port p = { x with
      action := .feeding, switch := true, fed := false
      absence := if x.status = .absent then some s.clock else none }) ∧
    (action = .wake → t.port p = x.pulsed s.clock) ∧
    t.gate = s.gate ∧ OtherPorts p s t ∧ MarkSet p s t ∧ Marking [.ports, .gate, .path] s t := by
  intro x t
  have ht : t = if action = .wake then s.startPulse p else s.startFeed p := if_pos ha
  by_cases hw : action = .wake
  · rw [if_pos hw] at ht
    obtain ⟨port, gate, others, marked, marking⟩ := startPulse_pulsed hg
    rw [ht]
    exact ⟨fun h => absurd hw h, fun _ => port, gate, others, marked, marking⟩
  · rw [if_neg hw] at ht
    have moved := startFeed_moved s p
    rw [ht]
    exact ⟨fun _ => moved.port, fun h => absurd h hw, moved.marking.gate, moved.others, moved.marked,
      moved.marking.mono⟩

/-- Settles O36: the notes of the grant, then the work of the slot. -/
theorem grantStartsSlotWork : Obligations.GrantStartsSlotWork := by
  intro τ r i g s hline now hr hgrant hold hkind hslot ha hg x wake
  have hexec := exec_gateGrant hline hr hgrant hold
  unfold State.tellGrant at hexec
  rw [noteGrant_eq (s := s.advance τ) hg, hkind] at hexec
  dsimp only at hexec
  simp only [show ((s.advance τ).granted r g).openSlot r.port = some i from hslot] at hexec
  have before : Only [.gate, .acct, .sched] (s.advance τ) (((s.advance τ).granted r g).resolve i .issued) :=
    (granted_only ..).next (resolve_only ..)
  obtain ⟨feeds, wakes, gate, others, marked, marking⟩ := startSlot_outcome
    (s := ((s.advance τ).granted r g).resolve i .issued) (p := r.port) (s.sched.slots.get i).action ha (grantedGate_unrequested (s.advance τ) r g)
  have all : Marking [.ports, .gate, .acct, .sched, .path] (s.advance τ) _ := before.marking.next marking
  refine ⟨_, hexec, all.clock, gate, marking.acct, marking.sched, feeds, fun hw hrun => ?_, fun hw hrun => ?_,
    others, all.marks, marked, all.toOnly.sameBut_advance⟩
  · exact ((wakes hw).trans (pulsed_awaiting hrun now)).trans (by rw [nextAttempts_idle ha])
  · exact ((wakes hw).trans (pulsed_answered hrun now)).trans (by rw [nextAttempts_idle ha])

/-- The switch of the port under a WAKE test closed by its pulse (R37, R115). -/
def State.testPulsed (s : State) (run : TestRun) : State :=
  State.setPort { s with test := { s.test with
      run := some { run with pulse := some s.clock, granted := some s.clock } } } run.port
    { s.port run.port with switch := true }

theorem testPulsed_only (s : State) (run : TestRun) : Only [.ports, .test] s (s.testPulsed run) :=
  (Only.setTest s _).next (setPort_only ..)

/-- A test pulse begins on the port under a WAKE test; a terminal at RUN passes it at once (R115). -/
theorem startTestPulse_eq {s : State} {p : Fin 48} {run : TestRun} (hrun : s.test.run = some run)
    (hp : run.port = p) (ha : (s.port p).action = .testing) : s.startTestPulse p =
      if (s.port p).status = .run then
        (s.testPulsed run).endTest { run with pulse := some s.clock, granted := some s.clock } .pass 0 none false
      else s.testPulsed run := by
  subst hp
  unfold State.startTestPulse
  rw [hrun]
  exact if_pos ⟨rfl, ha⟩

/-- A WAKE test that a terminal already at RUN passes ends as one that has closed no switch (R115, R117). -/
theorem testPulsed_ended (s : State) (run : TestRun) (result : TestResult) (value clock : Nat) :
    TestEnded run result value none { s with clock := clock } ((s.testPulsed run).endTest
      { run with pulse := some s.clock, granted := some s.clock } result value none false) := by
  have ended := endTest_ended (s.testPulsed run) { run with pulse := some s.clock, granted := some s.clock }
    result value none
  have closed : (s.testPulsed run).port run.port = { s.port run.port with switch := true } := port_setPort_same ..
  have only := (testPulsed_only s run).next (n := [.ports, .gate, .test, .ev, .path])
    (endTest_only (s.testPulsed run) { run with pulse := some s.clock, granted := some s.clock } result value none)
  have port := ended.port
  rw [closed] at port
  exact
    { port := port
      others := fun q hq => (ended.others q hq).trans (setPort_otherPorts _ run.port _ q hq)
      gate := ended.gate
      test := ended.test
      rotaOwner := ended.rotaOwner
      releasing := ended.releasing
      held := ended.held
      counters := ended.counters
      event := ended.event
      path := ended.path
      rest := ⟨only.line, fun b hb => by have h := only.parts b hb; cases b <;> exact h⟩ }

/-- Settles O37: the notes of the grant, then the pulse of the wake or of the test. -/
theorem grantStartsRetryOrTestPulse : Obligations.GrantStartsRetryOrTestPulse := by
  intro τ r g s hline now hr hgrant hold hg x gate acct after
  have noting := granted_only (s.advance τ) r g
  have same : ((s.advance τ).granted r g).port r.port = x := rfl
  have unrequested : { gate with waiting := gate.waiting.filter fun q => q.port ≠ r.port } = gate :=
    grantedGate_unrequested (s.advance τ) r g
  have hexec := exec_gateGrant hline hr hgrant hold
  unfold State.tellGrant at hexec
  rw [noteGrant_eq (s := s.advance τ) hg] at hexec
  refine ⟨fun hkind ha => ?_, fun run hkind ha hrun hp => ?_⟩
  · rw [hkind] at hexec
    dsimp only at hexec
    rw [same, if_pos ha] at hexec
    obtain ⟨port, ggate, others, marked, marking⟩ :=
      startPulse_pulsed (s := (s.advance τ).granted r g) (p := r.port) unrequested
    have all : Marking [.ports, .gate, .acct, .path] (s.advance τ) _ := noting.marking.next marking
    refine ⟨_, hexec, ⟨ggate, marking.acct, others, all.clock⟩, port.trans ?_, all.marks, marked,
      all.toOnly.sameBut_advance⟩
    rw [← nextAttempts_waking ha]
    rfl
  · rw [hkind] at hexec
    dsimp only at hexec
    rw [startTestPulse_eq (s := (s.advance τ).granted r g) hrun hp ha] at hexec
    have pulsed := testPulsed_only ((s.advance τ).granted r g) run
    have others : OtherPorts r.port s (((s.advance τ).granted r g).testPulsed run) := by
      rw [← hp]; exact setPort_otherPorts _ run.port _
    by_cases hs : x.status = .run
    · rw [same, if_pos hs] at hexec
      have ended := testPulsed_ended ((s.advance τ).granted r g) run .pass 0 s.clock
      refine ⟨_, hexec, ⟨ended.gate.trans ?_, ended.rest.2 .acct (by decide), ?_, ?_⟩, fun h => absurd hs h, fun _ => ended⟩
      · rw [hp]; exact unrequested
      · rw [← hp]; exact ended.others
      · rfl
    · rw [same, if_neg hs] at hexec
      have only : Only [.ports, .gate, .acct, .test] (s.advance τ) _ := noting.next pulsed
      refine ⟨_, hexec, ⟨rfl, rfl, others, only.clock⟩, fun _ => ⟨?_, rfl, only.sameBut_advance⟩, fun h => absurd h hs⟩
      rw [← hp]
      exact (port_setPort_same ..).trans (by rw [hp]; rfl)

end Sys2Proof.Machine
end

section
/-! PROOFS. Trips: the switch opened, the count, and the end of a test on the port (R33, R34, R118; O32). -/

namespace Sys2Proof.Machine
open Sys2Proof

/-! ## Events raised one after the other -/

/-- One more event, raised in the situation of the others. -/
theorem RaisedEach.snoc {l : List (EventKind × Nat × Int × Nat × Nat)} {k : EventKind} {sub : Nat} {v : Int}
    {c g : Nat} {s mid t : State} (h : RaisedEach l s mid) (h' : Raised k sub v c g mid t) (same : SameRaise mid t) :
    RaisedEach (l ++ [(k, sub, v, c, g)]) s t := by
  obtain ⟨hq, he⟩ := h
  obtain ⟨hq', he'⟩ := h'
  simp only [← ringOpen_congr same.ready same.inst, ← entry_congr same.phase same.clock, ← same.tag] at hq he
  refine ⟨?_, ?_⟩
  · rw [hq', hq, he, List.foldl_append]; rfl
  · rw [he', hq, he, List.foldl_append, List.getLast?_append]; rfl

/-- Raised events told of other states after them, where the entries and what R129 and R138 read are the same. -/
theorem RaisedEach.congr {l : List (EventKind × Nat × Int × Nat × Nat)} {s t t' : State} (h : RaisedEach l s t)
    (hq : t'.path.ownq = t.path.ownq) (he : t'.ev = t.ev) (same : SameRaise t t') : RaisedEach l s t' := by
  have halert : t'.alertLevel = t.alertLevel := alertLevel_congr same.ready same.inst (by rw [he]) (by rw [he])
    (by rw [he]) (by rw [he])
  unfold RaisedEach
  simp only [ringOpen_congr same.ready same.inst, entry_congr same.phase same.clock, same.tag, hq, he, halert]
  exact h

/-! ## A port without its request (R42) -/

/-- A port that takes a new record, leaves the gate and is marked. -/
structure PortFreed (p : Fin 48) (x : Port) (s t : State) : Prop where
  port : t.port p = x
  others : OtherPorts p s t
  gate : t.gate = { s.gate with waiting := s.gate.waiting.filter fun r => r.port ≠ p }
  marked : MarkSet p s t
  marks : QueueAndMarks s t

/-- A trip up to its event: the record, the request and the mark (R33). -/
def State.tripBegun (s : State) (p : Fin 48) : State :=
  ((s.setPort p ((s.port p).tripped s.clock)).unrequest p).markPort p

/-- A trip with its event (R33). -/
def State.tripTold (s : State) (p : Fin 48) : State :=
  (s.tripBegun p).raise .portTrip p.val ((s.port p).tripped s.clock).trips (s.port p).action.code

/-- A trip judged by its count (R34). -/
def State.tripJudged (s : State) (p : Fin 48) : State :=
  if ((s.port p).tripped s.clock).trips < 3 then s.tripTold p else (s.tripTold p).bar p 2

theorem trip_eq (s : State) (p : Fin 48) : s.trip p =
    (if (s.port p).action = .testing then (s.tripJudged p).abortTest .trip true else s.tripJudged p).runRound := rfl

/-- A port's record after a trip is judged. -/
def Port.tripJudged (x : Port) (now : Nat) : Port :=
  if (x.tripped now).trips < 3 then x.tripped now
  else { (x.tripped now).clearTimers with action := .barred, switch := false }

theorem tripBegun_marking (s : State) (p : Fin 48) : Marking [.ports, .gate, .path] s (s.tripBegun p) :=
  ((setPort_only s p _).next (n := [.ports, .gate]) (unrequest_only _ p)).marking.next (markPort_marking _ p)

theorem tripTold_only (s : State) (p : Fin 48) : Only [.ports, .gate, .ev, .path] s (s.tripTold p) :=
  (tripBegun_marking s p).toOnly.next (raise_only ..)

theorem tripTold_freed (s : State) (p : Fin 48) : PortFreed p ((s.port p).tripped s.clock) s (s.tripTold p) where
  port := port_setPort_same ..
  others := setPort_otherPorts s p _
  gate := rfl
  marked := ⟨rfl, rfl⟩
  marks := (tripBegun_marking s p).marks.1.trans (raise_queueAndMarks ..)

theorem tripTold_raised (s : State) (p : Fin 48) : Raised .portTrip p.val
    ((s.port p).tripped s.clock).trips (s.port p).action.code s.store.plan.tag s (s.tripTold p) :=
  (raise_raised (s.tripBegun p) ..).congr rfl rfl rfl rfl ⟨rfl, rfl, rfl, rfl, rfl⟩

/-- The bar of a port: its record, its event, nothing of the gate (R34). -/
theorem bar_moved (s : State) (p : Fin 48) (cause : Nat) :
    let t := s.bar p cause
    t.port p = { (s.port p).clearTimers with action := .barred, switch := false } ∧ OtherPorts p s t ∧
      QueueAndMarks s t ∧ MarkSet p s t ∧ Raised .portBarred p.val (s.port p).trips cause s.store.plan.tag s t := by
  have moved := setPort_markPort_moved s p { (s.port p).clearTimers with action := .barred, switch := false }
  exact ⟨moved.port, moved.others, moved.marking.marks.1.trans (raise_queueAndMarks ..), moved.marked,
    (raise_raised ((s.setPort p { (s.port p).clearTimers with action := .barred, switch := false }).markPort p) ..).congr
      rfl rfl rfl rfl ⟨rfl, rfl, rfl, rfl, rfl⟩⟩

/-- The events of a trip, its count given by the record (R33, R34). -/
def tripEvents (p : Fin 48) (n : Nat) (action tag : Nat) : List (EventKind × Nat × Int × Nat × Nat) :=
  if n < 3 then [(.portTrip, p.val, (n : Int), action, tag)]
  else [(.portTrip, p.val, (n : Int), action, tag), (.portBarred, p.val, (n : Int), 2, tag)]

theorem tripJudged_only (s : State) (p : Fin 48) : Only [.ports, .gate, .ev, .path] s (s.tripJudged p) := by
  unfold State.tripJudged
  split
  · exact tripTold_only s p
  · exact (tripTold_only s p).next (bar_only ..)

theorem tripJudged_freed (s : State) (p : Fin 48) :
    PortFreed p ((s.port p).tripJudged s.clock) s (s.tripJudged p) := by
  have told := tripTold_freed s p
  unfold State.tripJudged Port.tripJudged
  split
  · exact told
  · obtain ⟨port, others, marks, marked, -⟩ := bar_moved (s.tripTold p) p 2
    exact ⟨by rw [port, told.port], told.others.trans others, ((bar_only (s.tripTold p) p 2).gate).trans told.gate,
      told.marked.trans marked rfl, told.marks.trans marks⟩

theorem tripJudged_raised (s : State) (p : Fin 48) :
    RaisedEach (tripEvents p ((s.port p).tripped s.clock).trips (s.port p).action.code s.store.plan.tag) s
      (s.tripJudged p) := by
  have told := RaisedEach.of_one (tripTold_raised s p)
  unfold State.tripJudged tripEvents
  split
  · exact told
  · obtain ⟨-, -, -, -, barred⟩ := bar_moved (s.tripTold p) p 2
    rw [(tripTold_freed s p).port] at barred
    exact told.snoc barred ⟨rfl, rfl, rfl, rfl, rfl⟩

/-! ## A test ended by a trip (R118) -/

/-- The end of a test whose port has left TESTING by itself: no detach (R117, R118). -/
theorem endTest_tripped (s : State) (run : TestRun) (result : TestResult) (value : Nat) (span : Option (Nat × Nat)) :
    let t := s.endTest run result value span true
    PortFreed run.port { s.port run.port with
      lastTest := some { kind := run.kind, result := result, value := value } } s t ∧
    t.test = s.endedTest run result value span ∧
    Raised .testResult run.port.val value result.eventCause
      (run.kind.code + 256 * (if run.bySupervisor then 2 else 1)) s t ∧
    Only [.ports, .gate, .test, .ev, .path] s t := by
  intro t
  have written := summarise_marking (s.unrequest run.port) run result value
  have left : Marking [.ports, .gate, .path] s ((s.unrequest run.port).summarise run result value) :=
    (unrequest_only s run.port).marking.next written
  have test : State.endedTest ((s.unrequest run.port).summarise run result value) run result value span =
      s.endedTest run result value span := by
    unfold State.endedTest
    rw [left.test, header_congr left.store, left.store]
  have only : Only [.ports, .gate, .test, .path] s { (s.unrequest run.port).summarise run result value with
      test := State.endedTest ((s.unrequest run.port).summarise run result value) run result value span } :=
    left.toOnly.next (Only.setTest _ _)
  refine ⟨⟨port_setPort_same .., setPort_otherPorts (s.unrequest run.port) run.port _, rfl, ⟨rfl, rfl⟩,
    left.marks.1.trans ⟨rfl, rfl⟩⟩, test, ?_, only.next (raiseTagged_only ..)⟩
  exact (raiseTagged_raised { (s.unrequest run.port).summarise run result value with
    test := State.endedTest ((s.unrequest run.port).summarise run result value) run result value span } ..).congr
    rfl rfl rfl rfl ⟨rfl, rfl, rfl, rfl, rfl⟩

/-- The record of a trip once it is judged, field by field. -/
theorem tripJudged_record (x : Port) (now : Nat) :
    let y := x.tripJudged now
    let n := min 3 (x.trips + 1)
    y.switch = false ∧ y.trips = n ∧ y.attempts = x.attempts ∧ y.step = none ∧ y.pulse = none ∧ y.answer = none ∧
      y.retry = none ∧ y.absence = none ∧ y.deficit = x.deficit ∧
      (n < 3 → y.action = .tripped ∧ y.coolOff = some now) ∧ (n = 3 → y.action = .barred ∧ y.coolOff = none) := by
  intro y n
  have hy : y = if n < 3 then x.tripped now
      else { (x.tripped now).clearTimers with action := .barred, switch := false } := rfl
  by_cases hn : n < 3
  · rw [if_pos hn] at hy
    rw [hy]
    exact ⟨rfl, rfl, rfl, rfl, rfl, rfl, rfl, rfl, rfl, fun _ => ⟨rfl, rfl⟩, fun h => absurd hn (by omega)⟩
  · rw [if_neg hn] at hy
    rw [hy]
    exact ⟨rfl, rfl, rfl, rfl, rfl, rfl, rfl, rfl, rfl, fun h => absurd h hn, fun _ => ⟨rfl, rfl⟩⟩

theorem exec_tripReport_closed {τ : Nat} {p : Fin 48} {s : State} (hline : s.line = .released)
    (hx : (s.port p).switch = true) : exec (.tripReport τ p) s = .next ((s.advance τ).trip p) := by
  have h : ((s.advance τ).port p).switch = true := hx
  simp only [exec, execTripReport, timed_released hline, if_pos h]

theorem exec_tripReport_open {τ : Nat} {p : Fin 48} {s : State} (hline : s.line = .released)
    (hx : (s.port p).switch = false) : exec (.tripReport τ p) s = .next (s.advance τ) := by
  have h : ¬((s.advance τ).port p).switch = true := by rw [Bool.not_eq_true]; exact hx
  simp only [exec, execTripReport, timed_released hline, if_neg h]

/-- Settles O32: the trip judged by its count, then the test on the port, if there is one, ended with the last event. -/
theorem tripOpensSwitchAndCounts : Obligations.TripOpensSwitchAndCounts := by
  intro τ p s hline now x n tripped barred result
  refine ⟨fun hx => ⟨_, exec_tripReport_open hline hx, advance_sameBut s τ⟩, fun hx hport => ?_⟩
  have hexec := exec_tripReport_closed (τ := τ) hline hx
  rw [trip_eq] at hexec
  have freed := tripJudged_freed (s.advance τ) p
  have raised : RaisedEach (if n < 3 then [tripped] else [tripped, barred]) s ((s.advance τ).tripJudged p) :=
    tripJudged_raised (s.advance τ) p
  have only := tripJudged_only (s.advance τ) p
  have record := tripJudged_record x now
  by_cases test : ∃ run, x.action = .testing ∧ s.test.run = some run
  · obtain ⟨run, ha, hrun⟩ := test
    obtain rfl := hport run ha hrun
    have abort : ((s.advance τ).tripJudged run.port).abortTest .trip true =
        ((s.advance τ).tripJudged run.port).endTest run (.aborted .trip) ((now - run.attached) / Config.sec) none true := by
      unfold State.abortTest
      rw [only.test, show (s.advance τ).test.run = some run from hrun]
      dsimp only
      rw [only.clock]
      rfl
    rw [if_pos (show ((s.advance τ).port run.port).action = .testing from ha), abort] at hexec
    obtain ⟨ended, ttest, tevent, tonly⟩ := endTest_tripped ((s.advance τ).tripJudged run.port) run (.aborted .trip)
      ((now - run.attached) / Config.sec) none
    have all : Only [.ports, .gate, .test, .ev, .path] (s.advance τ) _ := only.next tonly
    rw [freed.port] at ended
    refine ⟨_, hexec, all.clock, ?_⟩
    rw [ended.port]
    obtain ⟨switch, trips, attempts, step, pulse, answer, retry, absence, deficit, low, high⟩ := record
    refine ⟨switch, trips, attempts, step, pulse, answer, retry, absence, deficit, low, high, ?_,
      fun hn => absurd ha hn, fun run' _ hrun' => ?_, all.sameBut_advance⟩
    · rw [ended.gate, freed.gate]
      exact congrArg (fun l => { s.gate with waiting := l }) (filter_port_twice ..)
    · obtain rfl : run = run' := Option.some.inj (hrun.symm.trans hrun')
      refine ⟨by rw [ttest]; rfl, freed.others.trans ended.others, by rw [ttest]; rfl, rfl, freed.marks.trans ended.marks,
        freed.marked.trans ended.marked ?_, ?_⟩
      · exact canMark_congr (by rw [only.store]) freed.marks.path_inst
      · have all := raised.snoc tevent ⟨by rw [tonly.store], by rw [tonly.store], ended.marks.path_inst,
          by rw [tonly.phase], tonly.clock⟩
        split at all
        · next hn => rw [if_pos hn]; exact all
        · next hn => rw [if_neg hn]; exact all
  · have quiet : (if ((s.advance τ).port p).action = .testing then
        ((s.advance τ).tripJudged p).abortTest .trip true else (s.advance τ).tripJudged p) = (s.advance τ).tripJudged p := by
      split
      · next ha =>
        refine abortTest_none ?_ ..
        rw [only.test]
        exact Option.eq_none_iff_forall_ne_some.mpr fun run hrun => test ⟨run, ha, hrun⟩
      · rfl
    rw [quiet] at hexec
    refine ⟨_, hexec, only.clock, ?_⟩
    rw [freed.port]
    obtain ⟨switch, trips, attempts, step, pulse, answer, retry, absence, deficit, low, high⟩ := record
    exact ⟨switch, trips, attempts, step, pulse, answer, retry, absence, deficit, low, high, freed.gate,
      fun _ => ⟨raised, freed.others, freed.marks, freed.marked, only.test⟩,
      fun run ha hrun => absurd ⟨run, ha, hrun⟩ test, (only.mono (n := [.ports, .gate, .test, .ev, .path])).sameBut_advance⟩

end Sys2Proof.Machine
end

section
/-! PROOFS. A debounced status: what it makes of the port, and of a test on it (R23 to R25, R30, R70, R114, R115; O30,
O48). -/

namespace Sys2Proof.Machine
open Sys2Proof

/-! ## The status taken, with its LOW resync (R24, R70) -/

/-- The port with its new status, after the LOW resync and TERMINAL_LOW of an outage phase. -/
def State.statusTaken (s : State) (p : Fin 48) (level : TermStatus) : State :=
  (s.setPort p { s.port p with status := level, cand := none }).lowEffects p level

/-- What follows the status on a populated port, up to the running round. -/
def State.statusActed (s : State) (p : Fin 48) (level : TermStatus) : State :=
  ((s.statusTaken p level).actionEffects p level).markPort p

theorem statusChange_off {s : State} {p : Fin 48} (ha : (s.port p).action = .off) (level : TermStatus) :
    s.statusChange p level = (s.setPort p { s.port p with status := level, cand := none }).markPort p := if_pos ha

theorem statusChange_populated {s : State} {p : Fin 48} (ha : (s.port p).action ≠ .off) (level : TermStatus) :
    s.statusChange p level = (s.statusActed p level).runRound := if_neg ha

theorem exec_statusDebounceExpiry_due {τ since : Nat} {p : Fin 48} {level : TermStatus} {s : State}
    (hline : s.line = .released) (hc : (s.port p).cand = some (level, since))
    (hdue : since + Config.debounceTime ≤ max s.clock τ) :
    exec (.statusDebounceExpiry τ p) s = .next ((s.advance τ).statusChange p level) := by
  have h : since + Config.debounceTime ≤ (s.advance τ).clock := hdue
  simp only [exec, execStatusDebounceExpiry, timed_released hline, advance_port, hc, if_pos h]

theorem exec_statusDebounceExpiry_early {τ since : Nat} {p : Fin 48} {level : TermStatus} {s : State}
    (hline : s.line = .released) (hc : (s.port p).cand = some (level, since))
    (hearly : max s.clock τ < since + Config.debounceTime) :
    exec (.statusDebounceExpiry τ p) s = .next (s.advance τ) := by
  have h : ¬since + Config.debounceTime ≤ (s.advance τ).clock := Nat.not_le.mpr hearly
  simp only [exec, execStatusDebounceExpiry, timed_released hline, advance_port, hc, if_neg h]

theorem lowResync_marking (s : State) (p : Fin 48) : Marking [.ports, .path] s (s.lowResync p) :=
  (setPort_only s p _).marking.next (markPortIf_marking _ _ p)

theorem lowResync_otherPorts (s : State) (p : Fin 48) : OtherPorts p s (s.lowResync p) := fun q hq =>
  ((markPortIf_marking _ _ p).port q).trans (setPort_otherPorts s p _ q hq)

/-- A mark of the port, set or not, is covered by a later one. -/
theorem markPortIf_then {s t : State} {c : Bool} {p : Fin 48} (h : MarkSet p (s.markPortIf c p) t) : MarkSet p s t := by
  cases c
  · exact h
  · exact MarkSet.trans (t := s.markPort p) ⟨rfl, rfl⟩ h (canMark_congr rfl rfl)

theorem lowResync_then {s t : State} {p : Fin 48} (h : MarkSet p (s.lowResync p) t) : MarkSet p s t := by
  have all := markPortIf_then (s := s.setPort p _) h
  exact ⟨all.1, all.2⟩

/-- The capacity a LOW resync reckons with (R70; log 10). -/
def State.resyncCap (s : State) (p : Fin 48) : Nat :=
  if s.store.plan = .noPlan then (s.port p).cap else (s.policy p).cap

/-- The change of a status is one to LOW in an outage phase (R24). -/
def State.LowOutage (s : State) (level : TermStatus) : Prop := level = .low ∧ s.phase.phase ≠ .mains

/-- What the taken status changes. -/
structure StatusTaken (p : Fin 48) (level : TermStatus) (s t : State) : Prop where
  port : t.port p = { s.port p with
    status := level, cand := none, deficit := (t.port p).deficit, u := (t.port p).u, key := (t.port p).key }
  low : s.LowOutage level → (t.port p).deficit = max (s.port p).deficit (7 * s.resyncCap p / 8) ∧
    (t.port p).u = (t.port p).deficit * 1024 / s.resyncCap p ∧
    Raised .terminalLow p.val (t.port p).u 0 s.store.plan.tag s t
  plain : ¬s.LowOutage level → t = s.setPort p { s.port p with status := level, cand := none }
  others : OtherPorts p s t
  marks : QueueAndMarks s t
  marked : ∀ u, MarkSet p t u → MarkSet p s u
  only : Only [.ports, .ev, .path] s t

theorem statusTaken_taken (s : State) (p : Fin 48) (level : TermStatus) :
    StatusTaken p level s (s.statusTaken p level) := by
  have port := port_setPort_same s p { s.port p with status := level, cand := none }
  have others := setPort_otherPorts s p { s.port p with status := level, cand := none }
  have only := setPort_only s p { s.port p with status := level, cand := none }
  by_cases h : s.LowOutage level
  · have taken : s.statusTaken p level =
        State.raise ((s.setPort p { s.port p with status := level, cand := none }).lowResync p) .terminalLow p.val
          (((s.setPort p { s.port p with status := level, cand := none }).lowResync p).port p).u 0 := if_pos h
    have resync := lowResync_port (s.setPort p { s.port p with status := level, cand := none }) p
    have cap : ((s.setPort p { s.port p with status := level, cand := none }).resyncPolicy p).cap = s.resyncCap p := by
      rw [resyncPolicy_cap, port]; rfl
    have marking := lowResync_marking (s.setPort p { s.port p with status := level, cand := none }) p
    have all : Marking [.ports, .path] s _ := only.marking.next marking
    rw [port] at resync
    unfold Port.reckon at resync
    rw [cap] at resync
    rw [taken]
    refine ⟨?_, fun _ => ⟨?_, ?_, ?_⟩, fun hn => absurd h hn, others.trans (lowResync_otherPorts _ p), ?_, ?_, ?_⟩
    · rw [raise_port, resync]
    · rw [raise_port, resync]
    · rw [raise_port, resync]
    · have raised := raise_raised ((s.setPort p { s.port p with status := level, cand := none }).lowResync p)
        .terminalLow p.val
        (((s.setPort p { s.port p with status := level, cand := none }).lowResync p).port p).u 0
      rw [marking.store] at raised
      exact raised.congr all.ownq.symm all.ev.symm rfl rfl ⟨rfl, rfl, rfl, rfl, rfl⟩
    · exact all.marks.1.trans (raise_queueAndMarks ..)
    · intro u hu
      have step : MarkSet p ((s.setPort p { s.port p with status := level, cand := none }).lowResync p) u :=
        ⟨hu.1, hu.2⟩
      have all := lowResync_then step
      exact ⟨all.1, all.2⟩
    · exact all.toOnly.next (raise_only ..)
  · have taken : s.statusTaken p level = s.setPort p { s.port p with status := level, cand := none } := if_neg h
    rw [taken]
    exact ⟨by rw [port], fun hl => absurd hl h, fun _ => rfl, others, .of_path rfl, fun _ hu => hu, only.mono⟩

/-! ## What the port's own state makes of it (R24, R25, R30) -/

/-- Two records of one status, candidate and charge. -/
def SameCharge (x y : Port) : Prop := y.status = x.status ∧ y.cand = x.cand ∧ y.deficit = x.deficit ∧ y.u = x.u

/-- A port that is not under test, once its status has had its effects. -/
structure StatusActed (p : Fin 48) (level : TermStatus) (c u : State) : Prop where
  charge : SameCharge (c.port p) (u.port p)
  still : (c.port p).action = .idle ∨ (c.port p).action = .tripped ∨ (c.port p).action = .barred →
    u.port p = c.port p ∧ u.gate = c.gate
  answered : (c.port p).action = .waking → level = .run →
    u.port p = { (c.port p).clearTimers with action := .idle, switch := false } ∧
    u.gate = { c.gate with waiting := c.gate.waiting.filter fun r => r.port ≠ p }
  awaits : (c.port p).action = .waking → level ≠ .run → u.port p = c.port p ∧ u.gate = c.gate
  feeds : (c.port p).action = .feeding → u.port p = { c.port p with
    absence := if level = .absent then some c.clock else none }
  others : OtherPorts p c u
  marked : MarkSet p c u
  marking : Marking [.ports, .gate, .path] c u

theorem markPort_markSet (s : State) (p : Fin 48) : MarkSet p s (s.markPort p) := ⟨rfl, rfl⟩

theorem actionEffects_acted {c : State} {p : Fin 48} (ht : (c.port p).action ≠ .testing) (level : TermStatus) :
    StatusActed p level c ((c.actionEffects p level).markPort p) := by
  have same (h : c.actionEffects p level = c) (hf : (c.port p).action ≠ .feeding)
      (hw : (c.port p).action = .waking → level ≠ .run) :
      StatusActed p level c ((c.actionEffects p level).markPort p) := by
    rw [h]
    exact ⟨⟨rfl, rfl, rfl, rfl⟩, fun _ => ⟨rfl, rfl⟩, fun ha hl => absurd hl (hw ha), fun _ _ => ⟨rfl, rfl⟩, fun ha => absurd ha hf,
      fun _ _ => rfl, ⟨rfl, rfl⟩, (markPort_marking c p).mono⟩
  cases ha : (c.port p).action with
  | waking =>
    by_cases hl : level = .run
    · have acted : c.actionEffects p level = c.endWake p := by unfold State.actionEffects; simp only [ha, if_pos hl]
      obtain ⟨port, others, gate, marked⟩ := endWake_of_waking ha
      have ended := endWake_marking c p
      rw [acted]
      refine ⟨by rw [markPort_port, port]; exact ⟨rfl, rfl, rfl, rfl⟩, fun h => ?_, fun _ _ => ⟨port, gate⟩, fun _ hn => absurd hl hn, fun h => ?_, others,
        marked.trans (markPort_markSet _ p) (canMark_congr (by rw [ended.store]) ended.inst),
        ended.next (markPort_marking _ p)⟩
      · rw [ha] at h; simp at h
      · rw [ha] at h; cases h
    · exact same (by unfold State.actionEffects; simp only [ha, if_neg hl]) (by rw [ha]; nofun) fun _ => hl
  | feeding =>
    have acted : c.actionEffects p level = c.setPort p { c.port p with
        absence := if level = .absent then some c.clock else none } := by unfold State.actionEffects; simp only [ha]
    have moved := setPort_markPort_moved c p { c.port p with
      absence := if level = .absent then some c.clock else none }
    rw [acted]
    refine ⟨by rw [moved.port]; exact ⟨rfl, rfl, rfl, rfl⟩, fun h => ?_, fun h => ?_, fun h => ?_, fun _ => moved.port, moved.others, moved.marked, moved.marking.mono⟩
    · rw [ha] at h; simp at h
    · rw [ha] at h; cases h
    · rw [ha] at h; cases h
  | testing => exact absurd ha ht
  | off => exact same (by unfold State.actionEffects; simp only [ha]) (by rw [ha]; nofun) (by rw [ha]; nofun)
  | idle => exact same (by unfold State.actionEffects; simp only [ha]) (by rw [ha]; nofun) (by rw [ha]; nofun)
  | tripped => exact same (by unfold State.actionEffects; simp only [ha]) (by rw [ha]; nofun) (by rw [ha]; nofun)
  | barred => exact same (by unfold State.actionEffects; simp only [ha]) (by rw [ha]; nofun) (by rw [ha]; nofun)

/-! ## What a test makes of it (R114, R115) -/

/-- What a status change does to a test on the port: nothing, or it ends it. -/
inductive TestJudged (p : Fin 48) (c : State) : State → Prop
  | goesOn : TestJudged p c c
  | ends (run : TestRun) (result : TestResult) (value : Nat) (hp : run.port = p) :
      TestJudged p c (c.endTest run result value none false)

theorem testStatus_judged (c : State) (p : Fin 48) (level : TermStatus) : TestJudged p c (c.testStatus p level) := by
  unfold State.testStatus
  split
  · next run _ =>
    split
    · next hp =>
      split
      · split
        · exact .goesOn
        · exact .ends run _ _ hp
      · split
        · split
          · exact .ends run _ _ hp
          · exact .goesOn
        · exact .goesOn
      · exact .goesOn
    · exact .goesOn
  · exact .goesOn

/-- A test's end leaves of its port's record the status and the charge. -/
structure TestJudgedKeeps (p : Fin 48) (c t : State) : Prop where
  port : t.port p = { c.port p with
    action := (t.port p).action, switch := (t.port p).switch, lastTest := (t.port p).lastTest }
  others : OtherPorts p c t
  only : Only [.ports, .gate, .test, .ev, .path] c t

theorem TestJudged.keeps {p : Fin 48} {c t : State} (h : TestJudged p c t) : TestJudgedKeeps p c t := by
  cases h with
  | goesOn => exact ⟨rfl, fun _ _ => rfl, .refl c⟩
  | ends run result value hp =>
    subst hp
    have ended := endTest_ended c run result value none
    exact ⟨by rw [ended.port], ended.others, endTest_only ..⟩

/-! ## The status taken and acted on -/

theorem statusActed_acted {s : State} {p : Fin 48} (level : TermStatus) (ht : (s.port p).action ≠ .testing) :
    StatusActed p level (s.statusTaken p level) (s.statusActed p level) :=
  actionEffects_acted (by rw [(statusTaken_taken s p level).port]; exact ht) level

theorem statusActed_testing {s : State} {p : Fin 48} (level : TermStatus) (ht : (s.port p).action = .testing) :
    s.statusActed p level = ((s.statusTaken p level).testStatus p level).markPort p := by
  have h : ((s.statusTaken p level).port p).action = .testing := by
    rw [(statusTaken_taken s p level).port]; exact ht
  unfold State.statusActed State.actionEffects
  simp only [h]

theorem statusActed_charge (s : State) (p : Fin 48) (level : TermStatus) :
    SameCharge ((s.statusTaken p level).port p) ((s.statusActed p level).port p) := by
  by_cases ht : (s.port p).action = .testing
  · rw [statusActed_testing level ht, markPort_port, (testStatus_judged _ p level).keeps.port]
    exact ⟨rfl, rfl, rfl, rfl⟩
  · exact (statusActed_acted level ht).charge

theorem statusActed_otherPorts (s : State) (p : Fin 48) (level : TermStatus) : OtherPorts p s (s.statusActed p level) := by
  refine (statusTaken_taken s p level).others.trans ?_
  by_cases ht : (s.port p).action = .testing
  · rw [statusActed_testing level ht]
    exact (testStatus_judged _ p level).keeps.others
  · exact (statusActed_acted level ht).others

theorem statusActed_only (s : State) (p : Fin 48) (level : TermStatus) :
    Only [.ports, .gate, .test, .ev, .path] s (s.statusActed p level) := by
  refine (statusTaken_taken s p level).only.next (m := [.ports, .gate, .test, .ev, .path]) ?_
  by_cases ht : (s.port p).action = .testing
  · rw [statusActed_testing level ht]
    exact (testStatus_judged _ p level).keeps.only.next (markPort_marking _ p).toOnly
  · exact (statusActed_acted level ht).marking.toOnly.mono

/-- Settles O30: the status taken with its resync, then what the port's own state makes of it. -/
theorem debouncedStatusTakesEffect : Obligations.DebouncedStatusTakesEffect := by
  intro τ p level since s hline hc now x cap
  refine ⟨fun hearly => ⟨_, exec_statusDebounceExpiry_early hline hc hearly, advance_sameBut s τ⟩,
    fun hdue ha => ?_, fun hdue ha => ?_⟩
  · have moved := setPort_markPort_moved (s.advance τ) p { x with status := level, cand := none }
    have hexec := exec_statusDebounceExpiry_due hline hc hdue
    rw [statusChange_off (s := s.advance τ) ha] at hexec
    exact ⟨_, hexec, moved.port, moved.others, moved.marking.marks, moved.marked, moved.marking.toOnly.sameBut_advance⟩
  · have hexec := exec_statusDebounceExpiry_due hline hc hdue
    rw [statusChange_populated (s := s.advance τ) ha] at hexec
    have taken := statusTaken_taken (s.advance τ) p level
    have acted (ht : x.action ≠ .testing) := statusActed_acted (s := s.advance τ) level ht
    have action : (((s.advance τ).statusTaken p level).port p).action = x.action := by rw [taken.port]; rfl
    have charge : SameCharge (((s.advance τ).statusTaken p level).port p)
        (((s.advance τ).statusActed p level).port p) := statusActed_charge _ p level
    obtain ⟨status, cand, deficit, hu⟩ := charge
    have only := statusActed_only (s.advance τ) p level
    refine ⟨_, hexec, only.clock, by rw [status, taken.port], by rw [cand, taken.port], only.phase, ?_, ?_, ?_, ?_, ?_,
      ?_, statusActed_otherPorts (s.advance τ) p level, ?_⟩
    · intro hl hp
      obtain ⟨d, u, raised⟩ := taken.low ⟨hl, hp⟩
      rw [deficit, hu]
      refine ⟨d, u, fun ht => ?_⟩
      have acted := (acted ht).marking
      exact raised.congr rfl rfl acted.ownq acted.ev
        ⟨by rw [acted.store], by rw [acted.store], acted.inst, by rw [acted.phase], acted.clock⟩
    · intro hl
      have plain := taken.plain fun h => hl.elim (· h.1) h.2
      refine ⟨by rw [deficit, plain, port_setPort_same]; rfl, fun ht => ?_⟩
      have acted := (acted ht).marking
      rw [plain] at acted
      exact ⟨acted.ev, acted.marks⟩
    · intro h
      obtain ⟨port, gate⟩ := (acted (by rintro ht; simp [ht] at h)).still
        (by rw [action]; exact h)
      exact ⟨by rw [port, taken.port]; rfl, gate.trans taken.only.gate⟩
    · intro h hl
      obtain ⟨port, gate⟩ := (acted (by rintro ht; simp [ht] at h)).answered
        (by rw [action]; exact h) hl
      rw [port, gate, taken.only.gate, taken.port]
      exact ⟨rfl, rfl, rfl, rfl, rfl, rfl, rfl, rfl⟩
    · intro h hl
      obtain ⟨port, gate⟩ := (acted (by rintro ht; simp [ht] at h)).awaits
        (by rw [action]; exact h) hl
      rw [port, gate, taken.port]
      exact ⟨h, rfl, taken.only.gate⟩
    · intro h
      have port := (acted (by rintro ht; simp [ht] at h)).feeds
        (by rw [action]; exact h)
      rw [port, taken.port, taken.only.clock]
      exact ⟨h, rfl, rfl⟩
    · intro ht
      have acted := acted ht
      exact ⟨taken.marked _ acted.marked, (taken.only.next acted.marking.toOnly).sameBut_advance⟩

/-! ## A test ended by the status (R114, R115) -/

/-- A test's end told of the state before the command's moment. -/
theorem TestEnded.of_clock {run : TestRun} {result : TestResult} {value clock : Nat} {span : Option (Nat × Nat)}
    {s t : State} (h : TestEnded run result value span { s with clock := clock } t) :
    TestEnded run result value span s t where
  port := h.port
  others := h.others
  gate := h.gate
  test := h.test
  rotaOwner := h.rotaOwner
  releasing := h.releasing
  held := h.held
  counters := h.counters
  event := h.event
  path := h.path
  rest := ⟨h.rest.1, fun b hb => by have hp := h.rest.2 b hb; cases b <;> exact hp⟩

/-- A test's end with its port marked once more. -/
theorem TestEnded.marked {run : TestRun} {result : TestResult} {value : Nat} {span : Option (Nat × Nat)} {s t : State}
    (h : TestEnded run result value span s t) :
    TestEnded run result value span s (t.markPort run.port) where
  port := h.port
  others := h.others
  gate := h.gate
  test := h.test
  rotaOwner := h.rotaOwner
  releasing := h.releasing
  held := h.held
  counters := h.counters
  event := h.event.congr rfl rfl rfl rfl ⟨rfl, rfl, rfl, rfl, rfl⟩
  path := by
    refine ⟨h.path.1.trans (markPort_marking t run.port).marks.1, h.path.2.trans (markPort_markSet t run.port) ?_⟩
    exact canMark_congr (by rw [h.rest.2 .store (by decide)]) h.path.1.path_inst
  rest := by
    have mark := (markPort_marking t run.port).mono (n := [.ports, .gate, .test, .ev, .path])
    refine ⟨h.rest.1, fun b hb => ?_⟩
    have before := h.rest.2 b hb
    have after := mark.parts b hb
    cases b <;> exact Eq.trans after before

theorem testStatus_of_run {c : State} {run : TestRun} (hrun : c.test.run = some run) (level : TermStatus) :
    c.testStatus run.port level = match run.kind with
      | .holdup => if level = .run then c
          else c.endTest run .fail (min (run.elapsed c.clock) (60 * run.minutes - 1)) none false
      | .wake => match run.granted with
        | some g => if level = .run then c.endTest run .pass (min 5000 ((c.clock - g) / Config.ms)) none false else c
        | none => c
      | .draw => c := by
  unfold State.testStatus
  rw [hrun]
  exact if_pos rfl

/-- What a debounced status makes of the test on its port (R114, R115). -/
structure StatusTested (run : TestRun) (level : TermStatus) (now : Nat) (c u : State) : Prop where
  fails : run.kind = .holdup → level ≠ .run →
    TestEnded run .fail (min ((now - run.attached) / Config.sec) (60 * run.minutes - 1)) none c u
  passes : ∀ granted, run.kind = .wake → level = .run → run.granted = some granted →
    TestEnded run .pass (min 5000 ((now - granted) / Config.ms)) none c u
  goesOn : run.kind = .draw ∨ run.kind = .holdup ∧ level = .run ∨
      run.kind = .wake ∧ (level ≠ .run ∨ run.granted = none) →
    u.test = c.test ∧ u.ports = c.ports ∧ u.ev = c.ev

theorem testStatus_tested {c : State} {run : TestRun} (hrun : c.test.run = some run) (level : TermStatus) :
    StatusTested run level c.clock c ((c.testStatus run.port level).markPort run.port) := by
  rw [testStatus_of_run hrun]
  refine ⟨fun hk hl => ?_, fun g hk hl hg => ?_, fun h => ?_⟩
  · rw [hk]
    dsimp only
    rw [if_neg hl]
    exact (endTest_ended ..).marked
  · rw [hk]
    dsimp only
    rw [hg]
    dsimp only
    rw [if_pos hl]
    exact (endTest_ended ..).marked
  · rcases h with hk | ⟨hk, hl⟩ | ⟨hk, hl | hg⟩
    · rw [hk]; exact ⟨rfl, rfl, rfl⟩
    · rw [hk]; dsimp only; rw [if_pos hl]; exact ⟨rfl, rfl, rfl⟩
    · rw [hk]
      dsimp only
      split
      · rw [if_neg hl]; exact ⟨rfl, rfl, rfl⟩
      · exact ⟨rfl, rfl, rfl⟩
    · rw [hk]; dsimp only; rw [hg]; exact ⟨rfl, rfl, rfl⟩

/-- Settles O48: the status taken with its resync, then the test on the port by its kind. -/
theorem statusChangeEndsTest : Obligations.StatusChangeEndsTest := by
  intro τ since level run s hline hrun ha hc hdue now p cap
  have hexec := exec_statusDebounceExpiry_due hline hc hdue
  have hoff : ((s.advance τ).port p).action ≠ .off := by
    rw [show ((s.advance τ).port p).action = .testing from ha]; nofun
  rw [statusChange_populated hoff] at hexec
  have taken := statusTaken_taken (s.advance τ) p level
  have crun : ((s.advance τ).statusTaken p level).test.run = some run := by rw [taken.only.test]; exact hrun
  have tested := testStatus_tested crun level
  rw [← statusActed_testing (s := s.advance τ) level ha] at tested
  obtain ⟨fails, passes, goesOn⟩ := tested
  have clock : ((s.advance τ).statusActed p level).clock = now := (statusActed_only ..).clock
  have cclock : ((s.advance τ).statusTaken p level).clock = now := taken.only.clock
  rw [cclock] at fails passes
  rw [taken.only.test] at goesOn
  by_cases h : (s.advance τ).LowOutage level
  · obtain ⟨deficit, hu, raised⟩ := taken.low h
    refine ⟨_, (s.advance τ).statusTaken p level, hexec, clock, fun hn => (hn.elim (· h.1) h.2).elim, fun _ _ => ?_,
      fails, passes, goesOn⟩
    refine ⟨?_, raised, cclock, taken.others, taken.marks, taken.only.sameBut_advance⟩
    have port := taken.port
    rw [hu, deficit] at port
    rw [deficit]
    exact port
  · rw [taken.plain h] at fails passes goesOn
    exact ⟨_, s.setPort p { s.port p with status := level, cand := none }, hexec, clock, fun _ => rfl,
      fun hl hp => absurd ⟨hl, hp⟩ h, fun hk hl => (fails hk hl).of_clock, fun g hk hl hg => (passes g hk hl hg).of_clock,
      goesOn⟩

end Sys2Proof.Machine
end

section
/-! PROOFS. Live bytes of the supervisor that act at once: the bank switch and the test request (R113, R121, R122, R147;
O46, O51). -/

namespace Sys2Proof.Machine
open Sys2Proof

/-! ## The bank switch (R147) -/

theorem exec_bankSwitchWrite {τ : Nat} {v : Byte} {s : State} (hline : s.line = .released) (hlive : s.takesLive = true) :
    exec (.bankSwitchWrite τ v) s = .next ((s.touchedAt τ).switchWrite v) := by
  simp only [exec, execBankSwitchWrite, timed_released hline, liveRow_advance hlive]

theorem switchWrite_of_code {target : Bank} {v : Byte} (h : target.code = v.toNat) (s : State) :
    s.switchWrite v = s.takeSwitch target := by
  have hv : v = BitVec.ofNat 8 target.code := by rw [h, BitVec.ofNat_toNat]; rfl
  subst hv
  cases target <;> rfl

theorem switchWrite_of_large {v : Byte} (h : 1 < v.toNat) (s : State) : s.switchWrite v = s := by
  unfold State.switchWrite
  rw [if_neg (by rintro rfl; exact absurd h (by decide)), if_neg (by rintro rfl; exact absurd h (by decide))]

/-- A switch has to wait: for the load or its end, or for the latch or the end of the outage (R147). -/
def State.switchWaits (s : State) : Prop :=
  s.store.ready = false ∨ s.store.load ≠ none ∨ s.phase.phase.active = true ∧ s.scan.latch = false

theorem takeSwitch_waits {s : State} (h : s.switchWaits) (target : Bank) :
    s.takeSwitch target = { s with store := { s.store with target := some target } } := by
  unfold State.switchWaits at h
  exact if_pos (by simpa [Option.isSome_iff_ne_none, or_assoc] using h)

theorem takeSwitch_at_once {s : State} (h : ¬s.switchWaits) (target : Bank) :
    s.takeSwitch target = s.applySwitch target := by
  unfold State.switchWaits at h
  exact if_neg (by simpa [Option.isSome_iff_ne_none, or_assoc] using h)

/-- Settles O51: a byte above 1 does nothing; a target waits or is applied at once. -/
theorem bankSwitchByPhaseAndValidity : Obligations.BankSwitchByPhaseAndValidity := by
  intro τ v s hline hlive now touched later
  have hexec := exec_bankSwitchWrite (τ := τ) (v := v) hline hlive
  refine ⟨fun hv => ?_, fun target hcode => ?_⟩
  · rw [switchWrite_of_large hv] at hexec
    exact ⟨_, hexec, rfl, rfl, rfl, (touchedAt_only s τ).sameBut_advance⟩
  · rw [switchWrite_of_code hcode] at hexec
    by_cases h : (s.touchedAt τ).switchWaits
    · rw [takeSwitch_waits h] at hexec
      have only : Only [.store, .test, .path] (s.advance τ) _ := (touchedAt_only s τ).next
        (Only.setStore _ { (s.touchedAt τ).store with target := some target })
      exact ⟨_, hexec, rfl, fun _ => ⟨rfl, rfl, rfl, only.sameBut_advance⟩, fun hn => absurd h hn⟩
    · rw [takeSwitch_at_once h] at hexec
      have applied : State.SwitchApplied target touched ((s.touchedAt τ).applySwitch target) :=
        applySwitch_applied target (s.touchedAt τ)
      exact ⟨_, hexec, applied.1, fun hl => absurd hl h, fun _ => applied⟩

/-! ## A test attached to its port (R37, R99, R108) -/

/-- The port to its test, out of the queue. -/
def State.attaching (s : State) (p : Fin 48) (kind : TestKind) : State :=
  ((s.setPort p { (s.port p).clearTimers with
    action := .testing, switch := decide (kind = .draw) && (s.port p).switch, fed := false }).markPort p).dequeue p

theorem attach_eq (s : State) (p : Fin 48) (kind : TestKind) : s.attach p kind =
    if s.slotWaits p then ((s.attaching p kind).unrequest p).resolvePort p .portLeft else s.attaching p kind := rfl

theorem attaching_marking (s : State) (p : Fin 48) (kind : TestKind) :
    Marking [.ports, .sched, .path] s (s.attaching p kind) :=
  ((setPort_only s p _).marking.next (n := [.ports, .path]) (markPort_marking _ p)).next (dequeue_marking _ p)

theorem attaching_sched (s : State) (p : Fin 48) (kind : TestKind) : (s.attaching p kind).sched =
    { s.sched with queue := s.sched.queue.filter fun e => e.port ≠ p } := dequeue_sched _ p

/-- A mark set again is one mark. -/
theorem markPortIf_marked {s t : State} {c : Bool} {p : Fin 48} (h : MarkSet p s t) (hm : t.canMark = s.canMark) :
    MarkSet p s (t.markPortIf c p) := by
  cases c
  · exact h
  · exact h.trans (markPort_markSet t p) hm

/-- What an attach changes. -/
structure Attached (p : Fin 48) (kind : TestKind) (s t : State) : Prop where
  port : t.port p = { (s.port p).clearTimers with
    action := .testing, switch := decide (kind = .draw) && (s.port p).switch, fed := false }
  others : OtherPorts p s t
  gate : t.gate = { s.gate with
    waiting := if s.slotWaits p then s.gate.waiting.filter fun r => r.port ≠ p else s.gate.waiting }
  queue : t.sched = { s.sched with queue := s.sched.queue.filter fun e => e.port ≠ p, slots := t.sched.slots }
  portLeft : ∀ i, s.slotWaits p = true → s.openSlot p = some i → (t.sched.slots.get i).outcome = some .portLeft
  slots : s.slotWaits p = false → t.sched.slots = s.sched.slots
  marked : MarkSet p s t

theorem resolvePort_outcome {s : State} {p : Fin 48} {i : Fin 4} (h : s.openSlot p = some i) (o : SlotOutcome) :
    ((s.resolvePort p o).sched.slots.get i).outcome = some o := by
  unfold State.resolvePort
  rw [h]
  exact congrArg Slot.outcome (Tab.get_set_same ..)

theorem attach_attached (s : State) (p : Fin 48) (kind : TestKind) : Attached p kind s (s.attach p kind) := by
  have moved := setPort_markPort_moved s p { (s.port p).clearTimers with
    action := .testing, switch := decide (kind = .draw) && (s.port p).switch, fed := false }
  have marking := attaching_marking s p kind
  have sched := attaching_sched s p kind
  have left := dequeue_marking ((s.setPort p { (s.port p).clearTimers with
    action := .testing, switch := decide (kind = .draw) && (s.port p).switch, fed := false }).markPort p) p
  have port : (s.attaching p kind).port p = _ := (left.port p).trans moved.port
  have others : OtherPorts p s (s.attaching p kind) := moved.others.trans fun q _ => left.port q
  have marked : MarkSet p s (s.attaching p kind) := markPortIf_marked ⟨moved.marked.1, moved.marked.2⟩ rfl
  rw [attach_eq]
  split
  · next hw =>
    have resolved := resolvePort_only ((s.attaching p kind).unrequest p) p .portLeft
    have open_ : ((s.attaching p kind).unrequest p).openSlot p = s.openSlot p := by
      unfold State.openSlot
      rw [show ((s.attaching p kind).unrequest p).sched = _ from sched]
    refine ⟨(resolved.port p).trans port, others.trans fun q _ => resolved.port q, ?_, ?_, fun i _ hi => ?_,
      fun hn => absurd hw (by simp [hn]), ?_⟩
    · rw [if_pos hw]
      exact resolved.gate.trans (congrArg (fun g : Gate => { g with waiting := g.waiting.filter fun r => r.port ≠ p })
        marking.gate)
    · rw [resolvePort_sched]
      exact congrArg (fun x : Sched => { x with slots :=
        (((s.attaching p kind).unrequest p).resolvePort p .portLeft).sched.slots }) sched
    · exact resolvePort_outcome (open_.trans hi) .portLeft
    · have h := resolved.path
      exact ⟨(congrArg Path.dirty h).trans marked.1, (congrArg Path.dirtyInst h).trans marked.2⟩
  · next hw =>
    refine ⟨port, others, ?_, by rw [sched], fun i hn => absurd hn hw, fun _ => by rw [sched], marked⟩
    rw [if_neg hw]; exact marking.gate

/-- The test that a start puts in progress (R113). -/
def State.newRun (s : State) (p : Fin 48) (kind : TestKind) (sup : Bool) (mins : Nat) (rota : Option (Fin 16)) :
    TestRun :=
  { port := p, kind := kind, bySupervisor := sup, minutes := mins, rota := rota, attached := s.clock }

/-- What the start of a test changes (R113). -/
structure TestStarted (run : TestRun) (s t : State) : Prop extends
    Marking [.ports, .gate, .sched, .test, .path] s t where
  test_eq : t.test = { s.test with owner := if run.bySupervisor then s.test.owner else .rota, run := some run }
  port_eq : t.port run.port = { (s.port run.port).clearTimers with
    action := .testing, switch := decide (run.kind = .draw) && (s.port run.port).switch, fed := false }
  others : OtherPorts run.port s t
  waiting : t.gate = { s.gate with
    waiting := (if s.slotWaits run.port then s.gate.waiting.filter fun r => r.port ≠ run.port else s.gate.waiting) ++
      (if run.kind = .wake ∧ s.gateClosed = false then [{ port := run.port, kind := .pulse, placed := s.clock }]
        else []) }
  queue : t.sched = { s.sched with
    queue := s.sched.queue.filter fun e => e.port ≠ run.port, slots := t.sched.slots }
  portLeft : ∀ i, s.slotWaits run.port = true → s.openSlot run.port = some i →
    (t.sched.slots.get i).outcome = some .portLeft
  slots : s.slotWaits run.port = false → t.sched.slots = s.sched.slots
  marked : MarkSet run.port s t

/-- The attached test, its pulse not yet asked for. -/
def State.testAttached (s : State) (run : TestRun) : State :=
  { s.attach run.port run.kind with test := { (s.attach run.port run.kind).test with
      run := some run
      owner := if run.bySupervisor then (s.attach run.port run.kind).test.owner else .rota } }

theorem startTest_started (s : State) (p : Fin 48) (kind : TestKind) (sup : Bool) (mins : Nat)
    (rota : Option (Fin 16)) :
    TestStarted (s.newRun p kind sup mins rota) s (s.startTest p kind sup mins rota) := by
  have marking := startTest_marking s p kind sup mins rota
  generalize hrun : s.newRun p kind sup mins rota = run
  have start : s.startTest p kind sup mins rota =
      if run.kind = .wake then (s.testAttached run).request run.port .pulse else s.testAttached run := by
    subst hrun; rfl
  have attached := attach_attached s run.port run.kind
  have attaching := attach_marking s run.port run.kind
  have closed : (s.testAttached run).gateClosed = s.gateClosed := by
    have hp : (s.testAttached run).phase = s.phase := attaching.phase
    have hs : (s.testAttached run).scan = s.scan := attaching.scan
    unfold State.gateClosed; rw [hp, hs]
  have test : (s.testAttached run).test =
      { s.test with owner := if run.bySupervisor then s.test.owner else .rota, run := some run } := by
    unfold State.testAttached; rw [attaching.test]
  have marked := attached.marked
  rw [start] at marking ⊢
  by_cases hk : run.kind = .wake
  · rw [if_pos hk] at marking ⊢
    refine { marking with
      test_eq := test, port_eq := attached.port, others := attached.others, queue := attached.queue
      portLeft := attached.portLeft, slots := attached.slots, marked := ⟨marked.1, marked.2⟩, waiting := ?_ }
    have gate : (s.testAttached run).gate = _ := attached.gate
    have clock : (s.testAttached run).clock = s.clock := attaching.clock
    unfold State.request
    dsimp only
    rw [closed, gate, clock]
    cases s.gateClosed <;> simp [hk]
  · rw [if_neg hk] at marking ⊢
    refine { marking with
      test_eq := test, port_eq := attached.port, others := attached.others, queue := attached.queue
      portLeft := attached.portLeft, slots := attached.slots, marked := ⟨marked.1, marked.2⟩, waiting := ?_ }
    rw [if_neg (c := run.kind = .wake ∧ s.gateClosed = false) fun h => hk h.1, List.append_nil]
    exact attached.gate

/-! ## The request judged (R121, R122) -/

/-- The request as it is stored, its minutes clamped (R121). -/
def State.requested (s : State) (port kind minutes : Option Byte) : State :=
  { s with test := { s.test with req := { s.test.req with
      port := (port.map (·.toNat)).getD s.test.req.port
      kind := (kind.map (·.toNat)).getD s.test.req.kind
      minutes := clampN 1 60 ((minutes.map (·.toNat)).getD s.test.req.minutes) } } }

theorem exec_testRequest {τ : Nat} {port kind minutes : Option Byte} {s : State} (hline : s.line = .released)
    (hlive : s.takesLive = true) (h : (port.isSome || kind.isSome || minutes.isSome) = true) :
    exec (.testRequest τ port kind minutes) s =
      .next (((s.touchedAt τ).storeRequest port kind minutes).takeRequest) := by
  simp only [exec, execTestRequest, timed_released hline, if_pos h, liveRow_advance hlive]

theorem takeRequest_refused {s : State} {port kind minutes : Option Byte} {cause : RefuseCause}
    (h : (s.requested port kind minutes).judgeRequest = .inl cause) :
    (s.storeRequest port kind minutes).takeRequest =
      ((s.requested port kind minutes).setReqOutcome (.refused cause)).raise .testRefused
        (s.requested port kind minutes).test.req.port (s.requested port kind minutes).test.req.kind cause.code := by
  show (match (s.requested port kind minutes).judgeRequest with
    | .inr (p, kind) => _
    | .inl cause => _) = _
  rw [h]
  rfl

theorem takeRequest_started {s : State} {port kind minutes : Option Byte} {p : Fin 48} {k : TestKind}
    (h : (s.requested port kind minutes).judgeRequest = .inr (p, k)) :
    (s.storeRequest port kind minutes).takeRequest =
      (((s.requested port kind minutes).setReqOutcome .started).startTest p k true
        (s.requested port kind minutes).test.req.minutes none).runRound := by
  show (match (s.requested port kind minutes).judgeRequest with
    | .inr (p, kind) => _
    | .inl cause => _) = _
  rw [h]
  rfl

/-- A test of the kind that a code names can start on a port (R112). -/
theorem readyFor_iff (s : State) (p : Fin 48) (code : Nat) :
    (∃ k, TestKind.ofCode code = some k ∧ s.readyFor p k = true) ↔
      code = 1 ∧ (s.port p).status = .run ∧
          ((s.port p).action = .idle ∨ (s.port p).action = .feeding ∧ (s.port p).fed = true) ∨
        code = 2 ∧ (s.port p).action = .idle ∧ (s.port p).status = .sleep ∧ s.acct.hold = false ∨
        code = 3 ∧ (s.port p).action = .feeding := by
  match code with
  | 0 => simp [TestKind.ofCode]
  | 1 => simp [TestKind.ofCode, State.readyFor]
  | 2 => simp [TestKind.ofCode, State.readyFor, and_assoc]
  | 3 => simp [TestKind.ofCode, State.readyFor]
  | n + 4 => simp [TestKind.ofCode]

theorem code_ofCode {code : Nat} {k : TestKind} (h : TestKind.ofCode code = some k) : k.code = code := by
  unfold TestKind.ofCode at h
  split at h
  · cases h; rfl
  · cases h; rfl
  · cases h; rfl
  · cases h

theorem portOf_val (p : Fin 48) : portOf p.val = some p := dif_pos p.isLt

theorem portOf_none {n : Nat} (h : 48 ≤ n) : portOf n = none := dif_neg (by omega)

/-- The request has come in a phase, under a claim and at a moment that allow a test. -/
def State.requestHeard (s : State) : Prop := s.phase.phase.active = true ∧ s.test.claim = .held ∧ s.test.run = none

theorem judgeRequest_phase {s : State} (h : s.phase.phase.active ≠ true) : s.judgeRequest = .inl .phase :=
  if_pos (Bool.eq_false_iff.mpr h)

theorem judgeRequest_noClaim {s : State} (hp : s.phase.phase.active = true) (h : s.test.claim ≠ .held) :
    s.judgeRequest = .inl .noClaim := by
  unfold State.judgeRequest; rw [if_neg (by simp [hp]), if_pos h]

theorem judgeRequest_busy {s : State} (hp : s.phase.phase.active = true) (hc : s.test.claim = .held)
    (h : s.test.run ≠ none) : s.judgeRequest = .inl .busy := by
  unfold State.judgeRequest
  rw [if_neg (by simp [hp]), if_neg (by simp [hc]), if_pos (Option.isSome_iff_ne_none.mpr h)]

theorem judgeRequest_heard {s : State} (h : s.requestHeard) :
    s.judgeRequest = match portOf s.test.req.port with
      | none => .inl .badPort
      | some p =>
        if (s.port p).action = .off then .inl .badPort
        else if s.store.ready = false ∨ s.scan.thermal ≠ .normal then .inl .notReady
        else match TestKind.ofCode s.test.req.kind with
          | none => .inl .notReady
          | some kind => if s.readyFor p kind then .inr (p, kind) else .inl .notReady := by
  obtain ⟨hp, hc, hr⟩ := h
  exact (if_neg (by simp [hp])).trans ((if_neg (by simp [hc])).trans (if_neg (by simp [hr])))

theorem judgeRequest_badPort {s : State} (h : s.requestHeard)
    (hoff : ∀ p : Fin 48, p.val = s.test.req.port → (s.port p).action = .off) : s.judgeRequest = .inl .badPort := by
  rw [judgeRequest_heard h]
  by_cases hn : s.test.req.port < 48
  · have named : portOf s.test.req.port = some ⟨s.test.req.port, hn⟩ := dif_pos hn
    rw [named]
    dsimp only
    rw [if_pos (hoff ⟨s.test.req.port, hn⟩ rfl)]
  · rw [portOf_none (by omega)]

/-- The request names a populated port: it is judged by the readiness of the part and of the port. -/
theorem judgeRequest_populated {s : State} {p : Fin 48} (h : s.requestHeard) (hp : p.val = s.test.req.port)
    (ha : (s.port p).action ≠ .off) :
    s.judgeRequest =
      if s.store.ready = false ∨ s.scan.thermal ≠ .normal then .inl .notReady
      else match TestKind.ofCode s.test.req.kind with
        | none => .inl .notReady
        | some kind => if s.readyFor p kind then .inr (p, kind) else .inl .notReady := by
  rw [judgeRequest_heard h, ← hp, portOf_val]
  dsimp only
  rw [if_neg ha]

/-- The part and the named port are ready for the test that a request names (R112, R122). -/
def State.requestFits (s : State) (p : Fin 48) : Prop := s.store.ready = true ∧ s.scan.thermal = .normal ∧
  ∃ k, TestKind.ofCode s.test.req.kind = some k ∧ s.readyFor p k = true

theorem judgeRequest_notReady {s : State} {p : Fin 48} (h : s.requestHeard) (hp : p.val = s.test.req.port)
    (ha : (s.port p).action ≠ .off) (hfit : ¬s.requestFits p) : s.judgeRequest = .inl .notReady := by
  rw [judgeRequest_populated h hp ha]
  split
  · rfl
  · next hready =>
    simp only [not_or, Bool.not_eq_false, ne_eq, Decidable.not_not] at hready
    split
    · rfl
    · next k hk => rw [if_neg fun hr => hfit ⟨hready.1, hready.2, k, hk, hr⟩]

theorem judgeRequest_starts {s : State} {p : Fin 48} (h : s.requestHeard) (hp : p.val = s.test.req.port)
    (ha : (s.port p).action ≠ .off) (hfit : s.requestFits p) :
    ∃ k : TestKind, k.code = s.test.req.kind ∧ s.judgeRequest = .inr (p, k) := by
  obtain ⟨ready, normal, k, hk, hr⟩ := hfit
  refine ⟨k, code_ofCode hk, ?_⟩
  rw [judgeRequest_populated h hp ha, if_neg (by simp [ready, normal]), hk]
  exact if_pos hr

theorem requested_only (s : State) (port kind minutes : Option Byte) : Only [.test] s (s.requested port kind minutes) :=
  .setTest s _

theorem setReqOutcome_only (s : State) (o : ReqOutcome) : Only [.test] s (s.setReqOutcome o) := .setTest s _

theorem not_queued_of_filter {t : State} {p : Fin 48} {q : List QueueEntry}
    (h : t.sched.queue = q.filter fun e => e.port ≠ p) : t.queued p = false := by
  unfold State.queued
  rw [h]
  simp

/-- Settles O46: the causes in their order, then the start. -/
theorem testRequestRefusedByFirstCause : Obligations.TestRequestRefusedByFirstCause := by
  intro τ port kind minutes s hline hlive hsome now number code mins off ready phaseOk claimed idle fit refuses
  have hexec := exec_testRequest (τ := τ) hline hlive hsome
  have judged (o : ReqOutcome) : Only [.test, .path] (s.advance τ)
      (((s.touchedAt τ).requested port kind minutes).setReqOutcome o) :=
    (touchedAt_only s τ).next ((requested_only _ port kind minutes).next (n := [.test]) (setReqOutcome_only _ o))
  have refuse (cause : RefuseCause)
      (h : ((s.touchedAt τ).requested port kind minutes).judgeRequest = .inl cause) : refuses cause := by
    rw [takeRequest_refused h] at hexec
    have only : Only [.test, .ev, .path] (s.advance τ) _ := (judged (.refused cause)).next (raise_only _ .testRefused
      number code cause.code)
    exact ⟨_, hexec, rfl, rfl, (raise_raised (((s.touchedAt τ).requested port kind minutes).setReqOutcome
      (.refused cause)) .testRefused number code cause.code).congr rfl rfl rfl rfl ⟨rfl, rfl, rfl, rfl, rfl⟩, rfl,
      only.sameBut_advance⟩
  have active : phaseOk ↔ s.phase.phase.active = true := (active_iff _).symm
  have fits (p : Fin 48) (hp : p.val = number) :
      ((s.touchedAt τ).requested port kind minutes).requestFits p ↔ fit := by
    refine and_congr_right fun _ => and_congr_right fun _ => (readyFor_iff _ p code).trans ?_
    exact ⟨fun h => ⟨p, hp, h⟩, fun ⟨q, hq, h⟩ => by rwa [Fin.ext (hq.trans hp.symm)] at h⟩
  have populated : ¬off → ∃ p : Fin 48, p.val = number ∧ (s.port p).action ≠ .off := by
    intro h; simpa only [off, not_forall, exists_prop] using h
  refine ⟨fun hp => refuse _ (judgeRequest_phase fun h => hp (active.mpr h)),
    fun hp hc => refuse _ (judgeRequest_noClaim (active.mp hp) hc),
    fun hp hc hi => refuse _ (judgeRequest_busy (active.mp hp) hc hi),
    fun hp hc hi ho => refuse _ (judgeRequest_badPort ⟨active.mp hp, hc, hi⟩ ho),
    fun hp hc hi ho hf => ?_, fun hp hc hi ho hf => ?_⟩
  · obtain ⟨p, hpv, ha⟩ := populated ho
    exact refuse _ (judgeRequest_notReady ⟨active.mp hp, hc, hi⟩ hpv ha fun h => hf ((fits p hpv).mp h))
  · obtain ⟨p, hpv, ha⟩ := populated ho
    obtain ⟨k, hk, hj⟩ := judgeRequest_starts (s := (s.touchedAt τ).requested port kind minutes)
      ⟨active.mp hp, hc, hi⟩ hpv ha ((fits p hpv).mpr hf)
    rw [takeRequest_started hj] at hexec
    have started := startTest_started (((s.touchedAt τ).requested port kind minutes).setReqOutcome .started) p k true mins none
    have only : Only [.ports, .gate, .sched, .test, .path] (s.advance τ) _ :=
      (judged .started).next started.toMarking.toOnly
    refine ⟨_, p, k, hpv, hk, hexec, only.clock, started.test_eq, started.port_eq, started.waiting, started.queue,
      fun i hw hi => started.portLeft i hw hi, fun hw => started.slots hw, started.others, ?_, ?_,
      started.marks, only.sameBut_advance⟩
    · exact not_queued_of_filter (congrArg Sched.queue started.queue)
    · exact ⟨started.marked.1, started.marked.2⟩

end Sys2Proof.Machine
end

section
/-! PROOFS. The running round: its slots issued in order, its end, and the start that waits (R90, R97, R98, R100; O41). -/

namespace Sys2Proof.Machine
open Sys2Proof

/-! ## The first unresolved slot -/

/-- The first index of a table that meets a condition. -/
theorem find_finRange {n : Nat} {P : Fin n → Bool} {i : Fin n} (hi : P i = true) (hlt : ∀ j, j < i → P j = false) :
    (List.finRange n).find? P = some i := by
  rw [List.find?_eq_some_iff_getElem]
  refine ⟨hi, i.val, by simp, by simp, fun j hj => ?_⟩
  rw [List.getElem_finRange, Bool.not_eq_true']
  exact hlt _ hj

/-- Slot `i` is the first that is not resolved. -/
def State.FirstOpen (s : State) (i : Fin 4) : Prop := s.SlotOpen i ∧ ∀ j, j < i → ¬s.SlotOpen j

theorem State.FirstOpen.eq {s : State} {i : Fin 4} (h : s.FirstOpen i) : s.firstOpen = some i :=
  find_finRange (Option.isNone_iff_eq_none.mpr h.1) fun j hj => by
    simpa [State.SlotOpen, Option.isNone_eq_false_iff, Option.isSome_iff_ne_none] using h.2 j hj

theorem State.FirstOpen.openSlot {s : State} {i : Fin 4} {p : Fin 48} (h : s.FirstOpen i)
    (hr : s.sched.running = true) (hp : (s.sched.slots.get i).port = some p) : s.openSlot p = some i := by
  have opened : (s.sched.slots.get i).outcome = none := h.1
  unfold State.openSlot
  rw [if_pos hr]
  refine find_finRange (by simp [hp, opened]) fun j hj => ?_
  have resolved : ¬(s.sched.slots.get j).outcome = none := h.2 j hj
  simp [Option.isSome_iff_ne_none.mpr resolved]

theorem firstOpen_none {s : State} (h : ∀ i, ¬s.SlotOpen i) : s.firstOpen = none := by
  unfold State.firstOpen
  refine List.find?_eq_none.mpr fun i _ => ?_
  rw [Option.isNone_iff_eq_none]
  exact h i

theorem firstOpen_some {s : State} {i : Fin 4} (h : s.firstOpen = some i) : s.FirstOpen i := by
  refine ⟨firstOpen_spec h, fun j hj ho => ?_⟩
  obtain ⟨-, k, hk, hki, before⟩ := List.find?_eq_some_iff_getElem.mp h
  rw [List.getElem_finRange] at hki
  have hjk : j.val < k := by rw [← hki] at hj; exact hj
  have hlen : j.val < (List.finRange 4).length := lt_trans hjk hk
  have closed := before j.val hjk
  rw [List.getElem_finRange, Bool.not_eq_true', Option.isNone_eq_false_iff, Option.isSome_iff_ne_none] at closed
  exact closed ho

/-! ## No slot request at the gate -/

/-- No slot request waits at the gate. -/
def State.NoSlotRequest (s : State) : Prop := ∀ r ∈ s.gate.waiting, r.kind ≠ .slot

theorem State.NoSlotRequest.checkHead {s : State} (h : s.NoSlotRequest) : s.checkHead = s := by
  have none : s.gate.waiting.find? (fun r => r.kind = .slot) = none :=
    List.find?_eq_none.mpr fun r hr => by simpa using h r hr
  unfold State.checkHead
  simp only [none]

theorem State.NoSlotRequest.slotWaits {s : State} (h : s.NoSlotRequest) (p : Fin 48) : s.slotWaits p = false := by
  unfold State.slotWaits
  rw [List.any_eq_false]
  intro r hr
  simp [h r hr]

/-! ## One slot issued (R97) -/

/-- What the issue of the first unresolved slot leads to: the slot resolved and the gate without slot requests, or a
request that waits. -/
inductive SlotStep (i : Fin 4) (p : Fin 48) (s : State) : State → Prop
  | resolved (t : State) (o : SlotOutcome) (quiet : t.NoSlotRequest) (running : t.sched.running = true)
      (slots : t.sched.slots = s.sched.slots.set i { s.sched.slots.get i with outcome := some o }) : SlotStep i p s t
  | waits (t : State) (waiting : t.slotWaits p = true) (sched : t.sched = s.sched) : SlotStep i p s t

theorem resolve_step {s : State} (hq : s.NoSlotRequest) (hr : s.sched.running = true) (i : Fin 4) (p : Fin 48)
    (o : SlotOutcome) : SlotStep i p s (s.resolve i o) :=
  .resolved _ o hq hr rfl

/-- The slot request of an issued slot. -/
def State.slotRequest (s : State) (p : Fin 48) : Request := { port := p, kind := .slot, placed := s.clock }

theorem request_slot {s : State} (hopen : s.gateClosed = false) (p : Fin 48) :
    s.request p .slot = { s with gate := { s.gate with waiting := s.gate.waiting ++ [s.slotRequest p] } } := by
  unfold State.request
  rw [hopen]
  rfl

theorem request_slot_one {s : State} (hq : s.NoSlotRequest) (hopen : s.gateClosed = false) (p : Fin 48) :
    (s.request p .slot).gate.waiting.filter (fun q => q.kind = .slot) = [s.slotRequest p] := by
  have none : s.gate.waiting.filter (fun q => q.kind = .slot) = [] :=
    List.filter_eq_nil_iff.mpr fun q hm => by simpa using hq q hm
  rw [request_slot hopen]
  simp [List.filter_append, none, State.slotRequest]

/-- A slot request that is dropped at once: its slot resolved, the gate without slot requests. -/
theorem request_dropped {s : State} {i : Fin 4} {p : Fin 48} (hr : s.sched.running = true)
    (hi : s.FirstOpen i) (hp : (s.sched.slots.get i).port = some p) (hopen : s.gateClosed = false) (o : SlotOutcome) :
    ((s.request p .slot).unrequest p).resolvePort p o =
      { s with
        gate := { s.gate with waiting := s.gate.waiting.filter fun r => r.port ≠ p }
        sched := { s.sched with slots := s.sched.slots.set i { s.sched.slots.get i with outcome := some o } } } := by
  have open_ : ((s.request p .slot).unrequest p).openSlot p = some i := hi.openSlot hr hp
  unfold State.resolvePort
  rw [open_, request_slot hopen]
  unfold State.unrequest State.resolve State.slotRequest
  simp [List.filter_append]

/-- A head marked as one still waits. -/
theorem slotWaits_headed {s : State} {p : Fin 48} (h : s.slotWaits p = true) (r : Request) :
    State.slotWaits { s with gate := { s.gate with
      waiting := s.gate.waiting.map fun q => if q = r then { q with headed := true } else q } } p = true := by
  unfold State.slotWaits at h ⊢
  rw [List.any_eq_true] at h ⊢
  obtain ⟨q, hm, hq⟩ := h
  refine ⟨_, List.mem_map.mpr ⟨q, hm, rfl⟩, ?_⟩
  split
  · exact hq
  · exact hq

theorem request_step {s : State} {i : Fin 4} {p : Fin 48} (hq : s.NoSlotRequest) (hr : s.sched.running = true)
    (hi : s.FirstOpen i) (hp : (s.sched.slots.get i).port = some p) (hopen : s.gateClosed = false) :
    SlotStep i p s (s.request p .slot).checkHead := by
  have waiting : (s.request p .slot).slotWaits p = true := by
    rw [request_slot hopen]
    unfold State.slotWaits State.slotRequest
    simp
  unfold State.checkHead
  rw [find_slot (request_slot_one hq hopen p)]
  dsimp only
  split
  · exact .waits _ waiting rfl
  · split
    · exact .waits _ waiting rfl
    · split
      · refine .resolved _ .windowFull ?_ ?_ ?_
        all_goals rw [show (s.slotRequest p).port = p from rfl, request_dropped hr hi hp hopen]
        · exact fun r hm => hq r (List.mem_filter.mp hm).1
        · exact hr
      · exact .waits _ (slotWaits_headed waiting _) rfl

/-- A test start of the running round, where nothing of a slot waits at the gate (R97, R113). -/
theorem startTest_resolved {s : State} {i : Fin 4} {p : Fin 48} (hq : s.NoSlotRequest) (k : TestKind) (mins : Nat)
    (r : Fin 16) :
    let u := (s.startTest p k false mins (some r)).resolve i .issued
    u.NoSlotRequest ∧ u.sched = { s.sched with
      queue := s.sched.queue.filter fun e => e.port ≠ p
      slots := s.sched.slots.set i { s.sched.slots.get i with outcome := some .issued } } ∧
    u.gate = { s.gate with waiting := s.gate.waiting ++
      (if k = .wake ∧ s.gateClosed = false then [{ port := p, kind := .pulse, placed := s.clock }] else []) } := by
  have started := startTest_started s p k false mins (some r)
  have gate := started.waiting
  have waits : s.slotWaits (s.newRun p k false mins (some r)).port = false := hq.slotWaits _
  rw [if_neg (by rw [waits]; nofun)] at gate
  refine ⟨fun q hm => ?_, ?_, gate⟩
  · rw [show ((s.startTest p k false mins (some r)).resolve i .issued).gate = _ from gate] at hm
    rcases List.mem_append.mp hm with hm | hm
    · exact hq q hm
    · split at hm
      · rw [List.mem_singleton.mp hm]; nofun
      · cases hm
  · have queue := started.queue
    have slots := started.slots waits
    rw [slots] at queue
    unfold State.resolve
    dsimp only
    rw [queue]
    rfl

/-- The issue of the first unresolved slot. -/
theorem issueSlot_step {s : State} {i : Fin 4} {p : Fin 48} (hq : s.NoSlotRequest) (hr : s.sched.running = true)
    (hi : s.FirstOpen i) (hp : (s.sched.slots.get i).port = some p) : SlotStep i p s (s.issueSlot i p) := by
  have resolved := resolve_step hq hr i p
  unfold State.issueSlot
  dsimp only
  split
  · exact resolved _
  · split
    · next r _ _ =>
      split
      · next kind _ =>
        split
        · obtain ⟨quiet, sched, -⟩ := startTest_resolved (i := i) (p := p) hq kind (s.store.plan.rota r).minutes r
          exact .resolved _ .issued quiet (by rw [sched]; exact hr) (by rw [sched])
        · exact resolved _
      · exact resolved _
    · split
      · exact resolved _
      · split
        · exact resolved _
        · next hopen => exact request_step hq hr hi hp (Bool.not_eq_true _ ▸ hopen)

/-! ## All slots issued in turn (R97) -/

/-- How many slots are not resolved. -/
def State.openCount (s : State) : Nat := (Finset.univ.filter fun i => (s.sched.slots.get i).outcome.isNone).card

theorem openCount_le (s : State) : s.openCount ≤ 4 := (Finset.card_filter_le _ _).trans (by simp)

/-- A slot resolved is one open slot less. -/
theorem openCount_resolved {s t : State} {i : Fin 4} {o : SlotOutcome} (hi : s.SlotOpen i)
    (slots : t.sched.slots = s.sched.slots.set i { s.sched.slots.get i with outcome := some o }) :
    t.openCount < s.openCount := by
  refine Finset.card_lt_card (Finset.ssubset_iff_of_subset (fun j hj => ?_) |>.mpr ⟨i, ?_, ?_⟩)
  · rw [Finset.mem_filter] at hj ⊢
    rw [slots, Tab.get_set] at hj
    split at hj
    · simp at hj
    · exact hj
  · have opened : (s.sched.slots.get i).outcome = none := hi
    simp [opened]
  · simp [slots]

theorem issueSlots_none {s : State} (h : s.firstOpen = none) (n : Nat) : State.issueSlots n s = s := by
  cases n with
  | zero => rfl
  | succ n => unfold State.issueSlots; rw [h]

theorem issueSlots_waits {s : State} {i : Fin 4} {p : Fin 48} (hi : s.FirstOpen i)
    (hp : (s.sched.slots.get i).port = some p) (hw : s.slotWaits p = true) (n : Nat) : State.issueSlots n s = s := by
  cases n with
  | zero => rfl
  | succ n => unfold State.issueSlots; rw [hi.eq]; dsimp only; rw [hp]; exact if_pos hw

theorem issueSlots_issue {s : State} {i : Fin 4} {p : Fin 48} (hi : s.FirstOpen i)
    (hp : (s.sched.slots.get i).port = some p) (hw : s.slotWaits p = false) (n : Nat) :
    State.issueSlots (n + 1) s = State.issueSlots n (s.issueSlot i p) := by
  rw [State.issueSlots, hi.eq]
  dsimp only
  rw [hp]
  exact if_neg (by rw [hw]; nofun)

theorem issueSlots_empty {s : State} {i : Fin 4} (hi : s.FirstOpen i) (hp : (s.sched.slots.get i).port = none)
    (n : Nat) : State.issueSlots (n + 1) s = State.issueSlots n (s.resolve i .empty) := by
  rw [State.issueSlots, hi.eq]
  dsimp only
  rw [hp]

/-- Fuel above the number of unresolved slots changes nothing. -/
theorem issueSlots_fuel (n : Nat) {s : State} (hq : s.NoSlotRequest) (hr : s.sched.running = true)
    (hn : s.openCount ≤ n) : State.issueSlots (n + 1) s = State.issueSlots n s := by
  induction n generalizing s with
  | zero =>
    refine issueSlots_none (firstOpen_none fun i hi => ?_) 1
    have := openCount_resolved (t := s.resolve i .empty) hi rfl
    omega
  | succ n ih =>
    cases hfirst : s.firstOpen with
    | none => rw [issueSlots_none hfirst, issueSlots_none hfirst]
    | some i =>
      have hi := firstOpen_some hfirst
      cases hp : (s.sched.slots.get i).port with
      | none =>
        rw [issueSlots_empty hi hp, issueSlots_empty hi hp]
        have := openCount_resolved (t := s.resolve i .empty) hi.1 rfl
        exact ih hq hr (by omega)
      | some p =>
        rw [issueSlots_issue hi hp (hq.slotWaits p), issueSlots_issue hi hp (hq.slotWaits p)]
        cases issueSlot_step hq hr hi hp with
        | resolved o quiet running slots =>
          have := openCount_resolved hi.1 slots
          exact ih quiet running (by omega)
        | waits waiting sched =>
          have hi' : (s.issueSlot i p).FirstOpen i := by
            unfold State.FirstOpen State.SlotOpen; rw [sched]; exact hi
          rw [issueSlots_waits hi' (by rw [sched]; exact hp) waiting,
            issueSlots_waits hi' (by rw [sched]; exact hp) waiting]

/-! ## The round timer left out of sight -/

/-- The state with another due moment of the round timer. -/
def State.withTimer (x : Option Nat) (s : State) : State := { s with sched := { s.sched with timer := x } }

section
variable (x : Option Nat) (s : State)

theorem markPortIf_withTimer (c : Bool) (p : Fin 48) :
    (s.withTimer x).markPortIf c p = (s.markPortIf c p).withTimer x := by cases c <;> rfl

theorem dequeue_withTimer (p : Fin 48) : (s.withTimer x).dequeue p = (s.dequeue p).withTimer x :=
  markPortIf_withTimer x { s with sched := { s.sched with queue := s.sched.queue.filter fun e => e.port ≠ p } }
    (s.queued p) p

theorem replanPorts_withTimer : (s.withTimer x).replanPorts = s.replanPorts.withTimer x := by
  have fold (c : Fin 48 → Bool) (y : State) : allPorts.foldl (fun y p => y.markPortIf (c p) p) (y.withTimer x) =
      (allPorts.foldl (fun y p => y.markPortIf (c p) p) y).withTimer x :=
    List.foldl_hom (State.withTimer x) fun y p => markPortIf_withTimer x y (c p) p
  have hpolicy (p : Fin 48) : (s.withTimer x).policy p = s.policy p := rfl
  have hport (p : Fin 48) : (s.withTimer x).port p = s.port p := rfl
  unfold State.replanPorts
  simp only [hpolicy, hport]
  exact fold _ { s with ports := Tab.ofFn fun p => (s.port p).replan (s.policy p) }

theorem purge_withTimer : (s.withTimer x).purge = s.purge.withTimer x :=
  List.foldl_hom (State.withTimer x) fun y p => dequeue_withTimer x y p

theorem endFeed_withTimer (p : Fin 48) : (s.withTimer x).endFeed p = (s.endFeed p).withTimer x := by
  have hp : (s.withTimer x).port p = s.port p := rfl
  unfold State.endFeed
  rw [hp]
  by_cases h : (s.port p).action = .feeding
  · simp only [if_pos h]; rfl
  · simp only [if_neg h]

theorem endLowestFeed_withTimer : (s.withTimer x).endLowestFeed = s.endLowestFeed.withTimer x := by
  have h : (s.withTimer x).lowestFeed = s.lowestFeed := rfl
  unfold State.endLowestFeed
  rw [h]
  cases s.lowestFeed with
  | none => rfl
  | some p => exact endFeed_withTimer x s p

theorem trimFeeds_withTimer (n : Nat) (s : State) :
    State.trimFeeds n (s.withTimer x) = (State.trimFeeds n s).withTimer x := by
  induction n generalizing s with
  | zero => rfl
  | succ n ih =>
    unfold State.trimFeeds
    rw [endLowestFeed_withTimer, ih]
    exact (apply_ite (State.withTimer x) (s.header.feedLimit < s.feedingCount) _ _).symm

theorem loadLimits_withTimer : (s.withTimer x).loadLimits = s.loadLimits.withTimer x :=
  List.foldl_hom (State.withTimer x) fun y p => by
    have h : ((y.withTimer x).port p).action = (y.port p).action := rfl
    rw [h]
    split <;> rfl

theorem carry_withTimer (old : PlanUse) : (s.withTimer x).carry old = (s.carry old).withTimer x := by
  have reorder (s : State) : (s.withTimer x).reorder = s.reorder.withTimer x := rfl
  have rest (s : State) : (((s.withTimer x).scanPlan old).adjustRota.clearEdges).reHold =
      (((s.scanPlan old).adjustRota.clearEdges).reHold).withTimer x := rfl
  unfold State.carry
  dsimp only
  rw [replanPorts_withTimer, purge_withTimer, reorder, trimFeeds_withTimer, loadLimits_withTimer, rest]

theorem applySwitch_withTimer (target : Bank) :
    (s.withTimer x).applySwitch target = (s.applySwitch target).withTimer x := by
  have judged : (s.withTimer x).judged target = s.judged target := rfl
  have switched : (s.withTimer x).switched target = (s.switched target).withTimer x := by
    have dropped (s : State) : (s.withTimer x).dropForwarded target = (s.dropForwarded target).withTimer x := by
      have h : (s.withTimer x).bankRegion target = s.bankRegion target := rfl
      unfold State.dropForwarded
      rw [h]
      cases s.bankRegion target with
      | none => rfl
      | some r =>
        have hp : (s.withTimer x).phase = s.phase := rfl
        simp only [hp]
        split <;> rfl
    have judging : ((s.withTimer x).judging target).activated target =
        ((s.judging target).activated target).withTimer x := by cases target <;> rfl
    unfold State.switched
    rw [judging, dropped]
    rfl
  by_cases h : target = s.store.active
  · rw [applySwitch_self (s := s.withTimer x) h, applySwitch_self h]
    rfl
  · rw [applySwitch_other (s := s.withTimer x) h, applySwitch_other h, judged, switched]
    cases (s.judged target).validity with
    | valid => exact carry_withTimer x _ _
    | invalid => cases target <;> rfl
    | absent => cases target <;> rfl

theorem applyTarget_withTimer : (s.withTimer x).applyTarget = s.applyTarget.withTimer x := by
  have h : (s.withTimer x).store = s.store := rfl
  unfold State.applyTarget
  rw [h]
  cases s.store.target with
  | none => rfl
  | some bank =>
    dsimp only
    rw [applySwitch_withTimer]
    split <;> rfl

/-- A round begun, its timer not yet restarted. -/
def State.roundBegun (s : State) : State :=
  { s with sched := { s.sched with
      number := (s.sched.number + 1) % 65536, running := true, slots := Tab.fill 4 {} } }

theorem roundStart_eq (s : State) : s.roundStart = ((State.issueSlots 9
    s.roundBegun.applyTarget.startTimer.endDone.shedOne.readFeedEnable.fillSlots).finishRound).trigger .round := rfl

/-- A round start sets the timer anew, whatever it was (R91). -/
theorem roundStart_withTimer : (s.withTimer x).roundStart = s.roundStart := by
  have begun : (s.withTimer x).roundBegun = s.roundBegun.withTimer x := rfl
  have timer (y : State) : (y.withTimer x).startTimer = y.startTimer := rfl
  rw [roundStart_eq, roundStart_eq, begun, applyTarget_withTimer, timer]

end

/-! ## The round goes on (R97, R98, R100) -/

theorem runRound_congr {s t : State} (h : s.issueOn = t.issueOn) : s.runRound = t.runRound := by
  unfold State.runRound; rw [h]

theorem issueOn_running {s : State} (hr : s.sched.running = true) :
    s.issueOn = (State.issueSlots 9 s.checkHead).finishRound := by
  unfold State.issueOn; rw [if_pos hr]

/-- A slot issued and resolved at once: the part goes on from there. -/
theorem runRound_issue {s t : State} {i : Fin 4} {p : Fin 48} (hq : s.NoSlotRequest) (hr : s.sched.running = true)
    (hi : s.FirstOpen i) (hp : (s.sched.slots.get i).port = some p) (issued : s.issueSlot i p = t)
    (quiet : t.NoSlotRequest) (running : t.sched.running = true) : s.runRound = t.runRound := by
  subst issued
  refine runRound_congr ?_
  have enough := openCount_le (s.issueSlot i p)
  rw [issueOn_running hr, issueOn_running running, hq.checkHead, quiet.checkHead,
    issueSlots_issue hi hp (hq.slotWaits p), issueSlots_fuel 8 quiet running (by omega)]

/-- A slot request waits: nothing more is done (R97). -/
theorem runRound_stays {s t : State} {i : Fin 4} (hr : t.sched.running = true) (hi : t.FirstOpen i)
    (issued : s.issueOn = t.finishRound) : s.runRound = t := by
  have stays : t.finishRound = t := if_neg (by rw [hi.eq]; rintro ⟨-, h⟩; cases h)
  unfold State.runRound
  dsimp only
  rw [issued, stays]
  exact if_neg (by rw [hr]; rintro ⟨h, -⟩; cases h)

/-- A slot issued whose request waits. -/
theorem runRound_issue_waits {s t : State} {i : Fin 4} {p : Fin 48} (hq : s.NoSlotRequest)
    (hr : s.sched.running = true) (hi : s.FirstOpen i) (hp : (s.sched.slots.get i).port = some p)
    (issued : s.issueSlot i p = t) (waiting : t.slotWaits p = true) (sched : t.sched = s.sched) : s.runRound = t := by
  subst issued
  have hi' : (s.issueSlot i p).FirstOpen i := by unfold State.FirstOpen State.SlotOpen; rw [sched]; exact hi
  refine runRound_stays (by rw [sched]; exact hr) hi' ?_
  rw [issueOn_running hr, hq.checkHead, issueSlots_issue hi hp (hq.slotWaits p),
    issueSlots_waits hi' (by rw [sched]; exact hp) waiting]

/-- A request marked as a head. -/
def Request.head (r q : Request) : Request := if q = r then { q with headed := true } else q

theorem Request.head_kind (r q : Request) : (r.head q).kind = q.kind := by unfold Request.head; split <;> rfl

/-- A head checked twice is checked once. -/
theorem checkHead_checkHead {s : State} {r : Request} (hone : s.gate.waiting.filter (fun q => q.kind = .slot) = [r]) :
    s.checkHead.checkHead = s.checkHead := by
  cases hg : s.segOf r.port with
  | none =>
    have same : s.checkHead = s := by
      unfold State.checkHead
      simp only [find_slot hone, hg, ite_self]
    rw [same, same]
  | some g =>
    have check := checkHead_slot hg hone
    split at check
    · rw [check, check]
    · split at check
      · refine State.NoSlotRequest.checkHead fun q hm hk => ?_
        rw [check, (resolvePort_only _ r.port .windowFull).gate] at hm
        obtain ⟨hm, hne⟩ := List.mem_filter.mp hm
        have slot : q ∈ s.gate.waiting.filter fun q => q.kind = .slot := List.mem_filter.mpr ⟨hm, by simpa using hk⟩
        rw [hone] at slot
        simp [List.mem_singleton.mp slot] at hne
      · have one : (s.checkHead).gate.waiting.filter (fun q => q.kind = .slot) = [{ r with headed := true }] := by
          rw [check]
          show (s.gate.waiting.map r.head).filter _ = _
          have kinds : ((fun q : Request => decide (q.kind = .slot)) ∘ r.head) = fun q => decide (q.kind = .slot) := by
            funext q; simp [Request.head_kind]
          rw [List.filter_map, kinds, hone]
          simp [Request.head]
        have same : (s.checkHead).segOf r.port = some g := by rw [check]; exact hg
        exact (checkHead_slot (r := { r with headed := true }) same one).trans (if_pos rfl)

theorem issueSlot_dry {s : State} (h : s.sched.dry = true) (i : Fin 4) (p : Fin 48) :
    s.issueSlot i p = s.resolve i .dry := if_pos h

/-- A feed or wake start is issued by its port's state and the gate's (R97; log 49). -/
theorem issueSlot_work {s : State} {i : Fin 4} (h : s.sched.dry = false) (ha : (s.sched.slots.get i).action ≠ .test)
    (p : Fin 48) : s.issueSlot i p = if (s.port p).action ≠ .idle then s.resolve i .portLeft
      else if s.gateClosed then s.resolve i .abandoned else (s.request p .slot).checkHead := by
  unfold State.issueSlot
  dsimp only
  rw [if_neg (by rw [h]; nofun)]
  split
  · next haction _ => exact absurd haction ha
  · rfl

/-- A test start that meets its readiness (R97). -/
theorem issueSlot_test {s : State} {i : Fin 4} {p : Fin 48} {r : Fin 16} {k : TestKind} (h : s.sched.dry = false)
    (ha : (s.sched.slots.get i).action = .test) (hrota : (s.sched.slots.get i).rota = some r)
    (hk : (s.store.plan.rota r).kind = some k) (hrun : s.test.run = none) (hready : s.readyFor p k = true) :
    s.issueSlot i p = (s.startTest p k false (s.store.plan.rota r).minutes (some r)).resolve i .issued := by
  unfold State.issueSlot
  dsimp only
  rw [if_neg (by rw [h]; nofun), ha, hrota]
  dsimp only
  rw [hk]
  exact if_pos (by simp [hrun, hready])

/-- The part with a request more at the gate. -/
def State.withRequest (s : State) (r : Request) : State :=
  { s with gate := { s.gate with waiting := s.gate.waiting ++ [r] } }

/-- An issued feed or wake start whose request goes to the gate: behind another, dropped, or a head (R40). -/
theorem request_checked {s : State} {i : Fin 4} {p : Fin 48} {g : Fin 8} (hq : s.NoSlotRequest)
    (hr : s.sched.running = true) (hi : s.FirstOpen i) (hp : (s.sched.slots.get i).port = some p)
    (hopen : s.gateClosed = false) (hg : s.segOf p = some g) (hfree : ∀ q ∈ s.gate.waiting, q.port ≠ p) :
    (¬s.HeadOf (s.slotRequest p) g → (s.request p .slot).checkHead = s.withRequest (s.slotRequest p)) ∧
    (s.HeadOf (s.slotRequest p) g → s.windowFull g = true →
      (s.request p .slot).checkHead = s.resolve i .windowFull) ∧
    (s.HeadOf (s.slotRequest p) g → ¬s.windowFull g = true →
      (s.request p .slot).checkHead = s.withRequest { s.slotRequest p with headed := true }) := by
  have check := checkHead_slot (s := s.request p .slot) (r := s.slotRequest p) hg (request_slot_one hq hopen p)
  have requested : s.request p .slot = s.withRequest (s.slotRequest p) := request_slot hopen p
  have head : (s.request p .slot).isHead (s.slotRequest p) = true ↔ s.HeadOf (s.slotRequest p) g := by
    rw [isHead_iff (s := s.request p .slot) (r := s.slotRequest p) hg, requested]
    exact ⟨fun h q hm => h q (List.mem_append_left _ hm), fun h q hm => (List.mem_append.mp hm).elim (h q) fun hm _ =>
      (congrArg Request.placed (List.mem_singleton.mp hm)).ge⟩
  have passed (h : s.HeadOf (s.slotRequest p) g) :
      ¬((s.slotRequest p).headed || !(s.request p .slot).isHead (s.slotRequest p)) = true := by
    rw [head.mpr h]; nofun
  refine ⟨fun h => ?_, fun h full => ?_, fun h full => ?_⟩
  · rw [check, if_pos, requested]
    rw [Bool.eq_false_iff.mpr (head.not.mpr h)]
    exact Bool.or_true _
  · rw [check, if_neg (passed h), if_pos (show (s.request p .slot).windowFull g = true from full),
      show (s.slotRequest p).port = p from rfl, request_dropped hr hi hp hopen,
      List.filter_eq_self.mpr fun q hm => by simpa using hfree q hm]
    rfl
  · rw [check, if_neg (passed h), if_neg (show ¬(s.request p .slot).windowFull g = true from full), requested]
    have others : s.gate.waiting.map (s.slotRequest p).head = s.gate.waiting :=
      (List.map_congr_left fun q hm => if_neg fun h => hfree q hm (congrArg Request.port h)).trans (List.map_id' _)
    have marked : (s.gate.waiting ++ [s.slotRequest p]).map (s.slotRequest p).head =
        s.gate.waiting ++ [{ s.slotRequest p with headed := true }] := by
      rw [List.map_append, others]
      simp [Request.head]
    exact congrArg (fun l => { s with gate := { s.gate with waiting := l } }) marked

theorem slotWaits_withRequest (s : State) {r : Request} (h : r.kind = .slot) : (s.withRequest r).slotWaits r.port = true := by
  unfold State.slotWaits State.withRequest
  simp [h]

theorem checkHead_running (s : State) : s.checkHead.sched.running = s.sched.running := by
  unfold State.checkHead
  split
  · rfl
  · split
    · rfl
    · split
      · rfl
      · split
        · rw [resolvePort_sched]; rfl
        · rfl

theorem checkHead_headed {s : State} {r : Request} (hone : s.gate.waiting.filter (fun q => q.kind = .slot) = [r])
    (h : r.headed = true) : s.checkHead = s := by
  unfold State.checkHead
  simp only [find_slot hone, h, Bool.true_or, if_true]

/-- A round whose slots are all resolved (R100). -/
theorem issueOn_ended {s : State} (hr : s.sched.running = true) (hq : s.NoSlotRequest) (h : ∀ i, ¬s.SlotOpen i) :
    s.issueOn = s.endRound := by
  rw [issueOn_running hr, hq.checkHead, issueSlots_none (firstOpen_none h)]
  exact if_pos ⟨hr, firstOpen_none h⟩

/-- The timer's expiry with no round running starts one (R90). -/
theorem exec_roundTimerExpiry_now {s : State} (hline : s.line = .released) (hr : s.sched.running = false) :
    exec (.roundTimerExpiry s.clock) (s.withTimer (some s.clock)) = .next s.roundStart := by
  have timer : (State.withTimer (some s.clock) s).line = .released := hline
  have now : State.advance s.clock (s.withTimer (some s.clock)) = s.withTimer (some s.clock) :=
    congrArg (fun c => { s.withTimer (some s.clock) with clock := c }) (max_self s.clock)
  have due : hasRun (s.withTimer (some s.clock)).sched.timer 0 (s.withTimer (some s.clock)).clock = true :=
    hasRun_some (since := s.clock) rfl le_rfl
  have done : (s.withTimer (some s.clock)).roundTimerDone = (s.withTimer none).roundStart :=
    if_neg (by show ¬s.sched.running = true; rw [hr]; nofun)
  simp only [exec, execRoundTimerExpiry, timed_released timer, now, if_pos due, done, roundStart_withTimer]

/-- The readiness of a test start, by its kind (R112). -/
theorem readyFor_of {s : State} {p : Fin 48} {k : TestKind} (h : match k with
    | .holdup => (s.port p).status = .run ∧
        ((s.port p).action = .idle ∨ (s.port p).action = .feeding ∧ (s.port p).fed = true)
    | .wake => (s.port p).action = .idle ∧ (s.port p).status = .sleep ∧ s.acct.hold = false
    | .draw => (s.port p).action = .feeding) : s.readyFor p k = true := by
  cases k with
  | holdup => simpa [State.readyFor] using h
  | wake => simpa [State.readyFor, and_assoc] using h
  | draw => simpa [State.readyFor] using h

/-- Settles O41: the end of the round, the head that is judged, and the first unresolved slot by what it holds. -/
theorem runningRoundGoesOn : Obligations.RunningRoundGoesOn := by
  intro s hline slot resolved ended waits
  refine ⟨runRound_idle, fun r hr hone => ⟨?_, fun i hh hopen hlt => ?_⟩, fun hr hq => ⟨fun hall => ?_,
    fun i p ho hp hlt => ?_⟩⟩
  · refine runRound_congr ?_
    rw [issueOn_running hr, issueOn_running (by rw [checkHead_running]; exact hr), checkHead_checkHead hone]
  · obtain ⟨hp, ho⟩ := openSlot_spec hopen
    have hi : s.FirstOpen i := ⟨ho, hlt⟩
    have waiting : s.slotWaits r.port = true := by
      have slot : r ∈ s.gate.waiting.filter fun q => q.kind = .slot := by rw [hone]; exact List.mem_singleton_self r
      obtain ⟨hm, hk⟩ := List.mem_filter.mp slot
      exact List.any_eq_true.mpr ⟨r, hm, by simpa using hk⟩
    refine runRound_stays hr hi ?_
    rw [issueOn_running hr, checkHead_headed hone hh, issueSlots_waits hi hp waiting]
  · have issued := issueOn_ended hr hq hall
    refine ⟨fun hpend => ?_, fun hpend => ?_⟩
    · unfold State.runRound
      dsimp only
      rw [issued]
      exact if_neg fun h => absurd h.2 (by show ¬s.sched.startPending = true; rw [hpend]; nofun)
    · have started : s.runRound = State.roundStart { ended with sched := { ended.sched with startPending := false } } := by
        unfold State.runRound
        dsimp only
        rw [issued]
        exact if_pos ⟨rfl, hpend⟩
      rw [started]
      exact exec_roundTimerExpiry_now (s := { ended with sched := { ended.sched with startPending := false } }) hline rfl
  · have hi : s.FirstOpen i := ⟨ho, hlt⟩
    have goesOn {o : SlotOutcome} (issued : s.issueSlot i p = s.resolve i o) : s.runRound = (resolved i o).runRound :=
      runRound_issue hq hr hi hp issued hq hr
    refine ⟨fun hd => goesOn (issueSlot_dry hd i p), fun hd ha hidle => goesOn ?_, fun g hd ha hidle hgate hg hfree => ?_,
      fun r k hd ha hrota hk hrun hready => ?_⟩
    · exact (issueSlot_work hd ha p).trans (if_pos hidle)
    · intro head full
      have issued : s.issueSlot i p = (s.request p .slot).checkHead :=
        (issueSlot_work hd ha p).trans ((if_neg (not_not_intro hidle)).trans (if_neg (by rw [hgate]; nofun)))
      obtain ⟨behind, dropped, headed⟩ := request_checked hq hr hi hp hgate hg hfree
      have full_iff : s.windowFull g = true ↔ full := windowFull_iff s g
      refine ⟨fun hh hf => goesOn (issued.trans (dropped hh (full_iff.mpr hf))), fun hh hf => ?_, fun hh => ?_⟩
      · exact runRound_issue_waits hq hr hi hp (issued.trans (headed hh fun h => hf (full_iff.mp h)))
          (slotWaits_withRequest s rfl) rfl
      · exact runRound_issue_waits hq hr hi hp (issued.trans (behind hh)) (slotWaits_withRequest s rfl) rfl
    · have issued := issueSlot_test (p := p) hd ha hrota hk hrun (readyFor_of hready)
      obtain ⟨quiet, sched, gate⟩ := startTest_resolved (i := i) (p := p) hq k (s.store.plan.rota r).minutes r
      have started := startTest_started s p k false (s.store.plan.rota r).minutes (some r)
      have all : Marking [.ports, .gate, .sched, .test, .path] s _ :=
        started.toMarking.next (resolve_only _ i .issued).marking
      refine ⟨_, runRound_issue hq hr hi hp issued quiet (by rw [sched]; exact hr), all.clock, started.test_eq,
        started.port_eq, gate, sched, started.others, all.marks, ⟨started.marked.1, started.marked.2⟩, all.sameBut⟩

end Sys2Proof.Machine
end

section
/-! PROOFS. Deficits, urgencies and queue entries at a period end (R67 to R72, R85; O23). -/

namespace Sys2Proof.Machine
open Sys2Proof

/-! ## What work leaves of a port's figures, of the marks and of the queue -/

/-- A port's status, trip count and charge figures. -/
def Port.figures (x : Port) := (x.status, x.trips, x.deficit, x.u, x.key, x.taper, x.feedSecs)

/-- From `s` to `t` ports have started or ended work: no figure of theirs has moved, no mark is lost, no entry has
joined the queue. -/
structure Worked (s t : State) : Prop where
  figures : ∀ p, (t.port p).figures = (s.port p).figures
  dirty : ∀ p, s.path.dirty.get p = true → t.path.dirty.get p = true
  queue : ∀ e ∈ t.sched.queue, e ∈ s.sched.queue

namespace Worked

variable {s t u : State}

theorem refl (s : State) : Worked s s := ⟨fun _ => rfl, fun _ => id, fun _ => id⟩

theorem trans (h : Worked s t) (k : Worked t u) : Worked s u :=
  ⟨fun p => (k.figures p).trans (h.figures p), fun p => k.dirty p ∘ h.dirty p, fun e he => h.queue e (k.queue e he)⟩

/-- A change that leaves ports, marks and queue alone. -/
theorem of_same (hp : t.ports = s.ports) (hd : t.path.dirty = s.path.dirty) (hq : t.sched.queue = s.sched.queue) :
    Worked s t :=
  ⟨fun p => congrArg Port.figures (congrArg (Tab.get · p) hp), fun p h => by rwa [hd], fun e he => by rwa [hq] at he⟩

end Worked

theorem feedEnded_figures (x : Port) : x.feedEnded.figures = x.figures := by
  unfold Port.feedEnded; split <;> rfl

theorem wakeEnded_figures (x : Port) : x.wakeEnded.figures = x.figures := by
  unfold Port.wakeEnded; split <;> rfl

theorem stopAll_worked (s : State) : Worked s s.stopAll where
  figures p := by rw [stopAll_port]; exact (wakeEnded_figures _).trans (feedEnded_figures _)
  dirty := (stopAll_marking s).dirty
  queue e he := by rw [stopAll_sched] at he; cases he

/-- A mark set loses none. -/
theorem MarkSet.dirty {p : Fin 48} {s t : State} (h : MarkSet p s t) (q : Fin 48) (hq : s.path.dirty.get q = true) :
    t.path.dirty.get q = true := by
  rw [h.1]
  split
  · rw [Tab.get_set]
    split
    · rfl
    · exact hq
  · exact hq

theorem abortTest_worked (s : State) (cause : AbortCause) : Worked s (s.abortTest cause false) := by
  cases hr : s.test.run with
  | none => rw [abortTest_none hr]; exact .refl s
  | some run =>
    rw [abortTest_some hr]
    have ended := endTest_ended s run (.aborted cause) (run.elapsed s.clock) none
    refine ⟨fun p => ?_, ended.path.2.dirty, fun e he => by rwa [(endTest_only ..).sched] at he⟩
    by_cases hp : p = run.port
    · rw [hp, ended.port]; rfl
    · rw [ended.others p hp]

theorem workEnded_worked (s : State) : Worked s s.workEnded := (stopAll_worked s).trans (abortTest_worked _ _)

theorem raisePhase_worked (s : State) (cause : PhaseCause) : Worked s (s.raisePhase cause) := .of_same rfl rfl rfl

theorem cutoffReached_worked (s : State) (cause : PhaseCause) : Worked s (s.cutoffReached cause) := by
  unfold State.cutoffReached
  have begun : Worked s (if cause = .undervoltage then (s.setPhase .cutoff).lowerQ else s.setPhase .cutoff) := by
    split <;> exact .of_same rfl rfl rfl
  exact (begun.trans (workEnded_worked _)).trans (raisePhase_worked _ _)

theorem reserveReached_worked (s : State) : Worked s s.reserveReached := by
  refine ⟨fun p => ?_, (reserveReached_marking s).dirty, fun e he => ?_⟩
  · unfold State.reserveReached
    dsimp only
    rw [foldl_endWake_port, (narrowSlots_only _).port p, (Marking.fold _ dequeue_marking _).port p]
    split
    · exact wakeEnded_figures _
    · rfl
  · unfold State.reserveReached at he
    dsimp only at he
    rw [(Marking.fold _ endWake_marking _).sched, narrowSlots_sched, dequeueAll_sched] at he
    exact (List.mem_filter.mp he).1

/-- A test attached keeps its port's figures. -/
theorem startTest_figures (s : State) (p : Fin 48) (kind : TestKind) (sup : Bool) (mins : Nat) (rota : Option (Fin 16))
    (q : Fin 48) : ((s.startTest p kind sup mins rota).port q).figures = (s.port q).figures := by
  have started := startTest_started s p kind sup mins rota
  by_cases hq : q = p
  · subst hq
    exact (congrArg Port.figures started.port_eq).trans rfl
  · exact congrArg Port.figures (started.others q hq)

theorem issueSlot_figures (s : State) (i : Fin 4) (p q : Fin 48) :
    ((s.issueSlot i p).port q).figures = (s.port q).figures := by
  unfold State.issueSlot
  dsimp only
  split
  · rfl
  · split
    · split
      · split
        · exact startTest_figures s p _ false _ _ q
        · rfl
      · rfl
    · split
      · rfl
      · split
        · rfl
        · rw [(checkHead_only _).port q]; rfl

theorem issueSlots_figures (n : Nat) (s : State) (q : Fin 48) :
    ((State.issueSlots n s).port q).figures = (s.port q).figures := by
  induction n generalizing s with
  | zero => rfl
  | succ n ih =>
    unfold State.issueSlots
    split
    · rfl
    · split
      · exact ih _
      · split
        · rfl
        · exact (ih _).trans (issueSlot_figures ..)

theorem issueOn_worked (s : State) : Worked s s.issueOn := by
  cases hr : s.sched.running with
  | false => rw [issueOn_idle hr]; exact .refl s
  | true =>
    refine ⟨fun p => ?_, (issueOn_marking s).dirty, (issueOn_issued s).queue⟩
    rw [issueOn_running hr, (finishRound_only _).port p, issueSlots_figures, (checkHead_only s).port p]

theorem enterReserve_worked (s : State) (cause : PhaseCause) : Worked s (s.enterReserve cause) := by
  rw [enterReserve_eq]
  exact ((reserveReached_worked s).trans (raisePhase_worked _ _)).trans (issueOn_worked _)

theorem enterCutoff_worked {s : State} (held : s.store.target = none ∨ s.store.load ≠ none) (cause : PhaseCause) :
    Worked s (s.enterCutoff cause) := by
  rw [enterCutoff_eq, applyTarget_held (by rwa [(cutoffReached_only cause).store])]
  exact cutoffReached_worked s cause

/-- The two tests of a period end, where they apply no bank switch. -/
theorem Judgement.worked {s t : State} (h : Judgement s t) (stays : s.PlanStays t) : Worked s t := by
  have held := stays.held
  have counted : Worked s s.uvCounted := .of_same rfl rfl rfl
  cases h with
  | inactive => exact .refl s
  | undervoltage ha => exact enterCutoff_worked (held ha (by rw [enterCutoff_phase])) _
  | cutoff ha =>
    exact counted.trans (enterCutoff_worked (s := s.uvCounted) (held ha (by rw [enterCutoff_phase])) _)
  | reserve => exact counted.trans (enterReserve_worked _ _)
  | stay => exact counted

/-! ## The account of a period (R67 to R72) -/

theorem counted_port_eq (s : State) (p : Fin 48) : s.counted.port p =
    (s.policy p).account (s.phase.phase = .mains) (s.current p) (s.port p).fedSecond := by
  unfold State.counted State.accountPeriod
  rw [(reHold_only _).port p, (accountLoad_only _).port p, (accountQ_only _).port p]
  unfold State.accountPorts
  rw [(Marking.fold _ (fun x p => markPortIf_marking x _ p) _).port p]
  have fed : (State.feedSeconds { s with acct := { s.acct with lastEnd := s.acct.lastEnd + Config.sec } }).port p =
    (s.port p).fedSecond := Tab.get_map ..
  refine (Tab.get_ofFn ..).trans ?_
  rw [fed]
  rfl

/-- A port whose deficit a period end has moved is marked (R43). -/
theorem counted_dirty {s : State} {p : Fin 48} (hm : s.canMark = true)
    (h : (s.counted.port p).deficit ≠ (s.port p).deficit) : s.counted.path.dirty.get p = true := by
  have fed (x : Port) : x.fedSecond.deficit = x.deficit := by unfold Port.fedSecond; split <;> rfl
  have feed : (State.feedSeconds { s with acct := { s.acct with lastEnd := s.acct.lastEnd + Config.sec } }).port p =
    (s.port p).fedSecond := Tab.get_map ..
  rw [counted_port_eq] at h
  unfold State.counted State.accountPeriod
  rw [(reHold_only _).path, (accountLoad_only _).path, (accountQ_only _).path]
  unfold State.accountPorts
  rw [fold_markPortIf_dirty]
  have moved : ((s.policy p).account (s.phase.phase = .mains) (s.current p) (s.port p).fedSecond).deficit ≠
      (s.port p).fedSecond.deficit := by rw [fed]; exact h
  have marks' (x : Tab Port 48) : State.canMark { State.feedSeconds
    { s with acct := { s.acct with lastEnd := s.acct.lastEnd + Config.sec } } with ports := x } = true := hm
  simp only [mem_allPorts, Tab.get_ofFn, feed, marks', decide_true, Bool.true_and, Bool.and_true, Bool.or_eq_true,
    bne_iff_ne]
  exact .inr (.inl moved)

/-! ## The notices (R72, R85) -/

/-- Port `p` is at its join level: it sends a notice. -/
def State.Notifies (s : State) (p : Fin 48) : Prop := (s.port p).action ≠ .off ∧ (s.policy p).join ≤ (s.port p).u

/-- A notice of port `p` is taken. -/
def State.Admits (s : State) (p : Fin 48) : Prop :=
  (s.port p).action = .idle ∧ s.permitted p = true ∧ s.scan.latch = false ∧ s.openSlot p = none

/-- The entry that a notice of port `p` makes. -/
def State.entryOf (s : State) (p : Fin 48) : QueueEntry := { port := p, u := (s.port p).u, key := (s.port p).key }

theorem notice_of_not {s : State} {p : Fin 48} (h : ¬s.Admits p) : s.notice p = s := if_neg h

theorem mem_notice_of_ne {s : State} {e : QueueEntry} {p : Fin 48} (h : e.port ≠ p) :
    e ∈ (s.notice p).sched.queue ↔ e ∈ s.sched.queue := by
  unfold State.notice
  dsimp only
  split
  · rw [(markPortIf_marking _ _ p).sched]
    rw [mem_queueInsert, List.mem_filter]
    have other : e ≠ { port := p, u := (s.port p).u, key := (s.port p).key } := fun he => h (congrArg QueueEntry.port he)
    simp [other, h]
  · rfl

theorem mem_notice_same {s : State} {e : QueueEntry} (h : s.Admits e.port) :
    e ∈ (s.notice e.port).sched.queue ↔ e = s.entryOf e.port := by
  have taken : (s.notice e.port).sched.queue = queueInsert (s.entryOf e.port)
      (s.sched.queue.filter fun d => d.port ≠ e.port) :=
    (congrArg (fun x : State => x.sched.queue) (if_pos h)).trans (congrArg Sched.queue (markPortIf_marking _ _ _).sched)
  rw [taken, mem_queueInsert, List.mem_filter]
  simp

/-- The notices leave what a notice is judged by. -/
structure NoticeFrame (s x : State) : Prop where
  marking : Marking [.sched, .path] s x
  noticed : Noticed s x

theorem NoticeFrame.admits {s x : State} (h : NoticeFrame s x) (p : Fin 48) : x.Admits p ↔ s.Admits p := by
  have slot : x.openSlot p = s.openSlot p := by
    unfold State.openSlot; rw [h.noticed.sched]
  unfold State.Admits
  rw [h.marking.port p, permitted_congr h.noticed.store (by rw [h.noticed.phase]), h.marking.scan, slot]

theorem NoticeFrame.entryOf {s x : State} (h : NoticeFrame s x) (p : Fin 48) : x.entryOf p = s.entryOf p := by
  unfold State.entryOf; rw [h.marking.port p]

theorem NoticeFrame.notice {s x : State} (h : NoticeFrame s x) (p : Fin 48) : NoticeFrame s (x.notice p) :=
  ⟨h.marking.trans (notice_marking x p), h.noticed.trans (notice_noticed x p)⟩

/-- A list of ports each told of, where it sends a notice. -/
theorem mem_foldl_notice {s : State} {e : QueueEntry} {c : Fin 48 → Prop} [DecidablePred c] (l : List (Fin 48)) {x : State}
    (frame : NoticeFrame s x) :
    (c e.port → s.Admits e.port → (e.port ∈ l ∨ (e ∈ x.sched.queue ↔ e = s.entryOf e.port)) →
      (e ∈ (l.foldl (fun x p => if c p then x.notice p else x) x).sched.queue ↔ e = s.entryOf e.port)) ∧
    (¬(c e.port ∧ s.Admits e.port) →
      (e ∈ (l.foldl (fun x p => if c p then x.notice p else x) x).sched.queue ↔ e ∈ x.sched.queue)) := by
  induction l generalizing x with
  | nil => exact ⟨fun _ _ h => h.resolve_left nofun, fun _ => Iff.rfl⟩
  | cons q rest ih =>
    rw [List.foldl_cons]
    have next : NoticeFrame s (if c q then x.notice q else x) := by
      split
      · exact frame.notice q
      · exact frame
    obtain ⟨taken, left⟩ := ih next
    by_cases hq : e.port = q
    · refine ⟨fun hc ha _ => taken hc ha (.inr ?_), fun hn => (left hn).trans ?_⟩
      · rw [if_pos (hq ▸ hc), ← hq, mem_notice_same ((frame.admits _).mpr ha), frame.entryOf]
      · split
        · next hc => rw [notice_of_not fun ha => hn ⟨hq ▸ hc, (frame.admits _).mp (hq ▸ ha)⟩]
        · rfl
    · have same : e ∈ (if c q then x.notice q else x).sched.queue ↔ e ∈ x.sched.queue := by
        split
        · exact mem_notice_of_ne hq
        · rfl
      refine ⟨fun hc ha h => taken hc ha (h.imp (fun hm => (List.mem_cons.mp hm).resolve_left hq) fun h => same.trans h),
        fun hn => (left hn).trans same⟩

theorem mem_notices (s : State) (e : QueueEntry) :
    (s.Notifies e.port → s.Admits e.port → (e ∈ s.notices.sched.queue ↔ e = s.entryOf e.port)) ∧
    (¬(s.Notifies e.port ∧ s.Admits e.port) → (e ∈ s.notices.sched.queue ↔ e ∈ s.sched.queue)) := by
  obtain ⟨taken, left⟩ := mem_foldl_notice (s := s) (e := e)
    (c := fun p => (s.port p).action ≠ .off ∧ (s.policy p).join ≤ (s.port p).u) allPorts ⟨.refl s, .refl s⟩
  exact ⟨fun hc ha => taken hc ha (.inl (mem_allPorts _)), left⟩

/-! ## From the two tests to the end of the period -/

theorem evalRule_dirty (s : State) (i : Fin 16) : (s.evalRule i).path.dirty = s.path.dirty := by
  unfold State.evalRule
  split
  · dsimp only
    split <;> rfl
  · rfl

theorem evalAlarms_dirty (s : State) : s.evalAlarms.path.dirty = s.path.dirty := by
  unfold State.evalAlarms
  exact fold_keeps (R := fun s t => t.path.dirty = s.path.dirty) (fun _ => rfl) (fun h k => k.trans h) State.evalRule _
    evalRule_dirty s

theorem trigger_latch (s : State) (source : TrigSource) : (s.trigger source).scan.latch = s.scan.latch :=
  congrArg (fun v => v.2.2.2.2.2.1.2.2.2.1) (trigger_inner s source).toCalm.calm

theorem retried_figures (permitted hold : Bool) (x : Port) : (x.retried permitted hold).figures = x.figures := by
  unfold Port.retried
  split
  · split
    · rfl
    · exact wakeEnded_figures x
  · rfl

theorem periodPart_figures (s : State) (p : Fin 48) :
    (s.periodPart.port p).figures = (s.counted.levelTested.port p).figures := by
  rw [periodPart_port, retried_figures]

theorem periodPart_dirty (s : State) (p : Fin 48) (h : s.counted.levelTested.path.dirty.get p = true) :
    s.periodPart.path.dirty.get p = true := by
  rw [periodPart_eq, (trigger_only _ _).path, periodUntilTick_eq, evalAlarms_dirty]
  exact (offered_marking _).dirty p ((ticked_marking _).dirty p h)

/-- The entries of the queue at the end of a period, by the part's signals as they stand then. -/
theorem periodPart_entries (s : State) (e : QueueEntry) :
    (s.periodPart.Notifies e.port → s.periodPart.Admits e.port →
      (e ∈ s.periodPart.sched.queue ↔ e = s.periodPart.entryOf e.port)) ∧
    (¬(s.periodPart.Notifies e.port ∧ s.periodPart.Admits e.port) →
      (e ∈ s.periodPart.sched.queue ↔ e ∈ s.counted.levelTested.sched.queue)) := by
  have placed := placeAllDeferred_marking s.counted.levelTested.ticked
  have before : s.counted.levelTested.ticked.placeAllDeferred.sched = s.counted.levelTested.sched := by
    rw [placed.sched, (ticked_marking _).sched]
  have sched : s.periodPart.sched = s.counted.levelTested.ticked.placeAllDeferred.notices.sched := by
    rw [periodPart_eq, (trigger_only _ _).sched, periodUntilTick_eq, (evalAlarms_only _).sched, offered_eq]
  have told := mem_notices s.counted.levelTested.ticked.placeAllDeferred e
  generalize hx : s.counted.levelTested.ticked.placeAllDeferred = x at before sched told
  have only : Only [.scan, .sched, .ev, .path] x s.periodPart := by rw [← hx]; exact periodPart_ports_gate s
  have slot : s.periodPart.openSlot e.port = x.openSlot e.port := by
    unfold State.openSlot
    rw [sched, (notices_noticed x).sched]
  have latch : s.periodPart.scan.latch = x.scan.latch := by
    rw [periodPart_eq, trigger_latch, periodUntilTick_eq, (evalAlarms_only _).scan, offered_eq, hx,
      (notices_marking x).scan]
  have notifies : s.periodPart.Notifies e.port ↔ x.Notifies e.port := by
    unfold State.Notifies
    rw [only.port _, policy_congr only.store]
  have admits : s.periodPart.Admits e.port ↔ x.Admits e.port := by
    unfold State.Admits
    rw [only.port _, permitted_congr only.store (by rw [only.phase]), latch, slot]
  have entry : s.periodPart.entryOf e.port = x.entryOf e.port := by
    unfold State.entryOf; rw [only.port _]
  rw [notifies, admits, entry, sched, ← before]
  exact told

/-! ## One port's account -/

theorem figures_eq_iff {x y : Port} : y.figures = x.figures ↔ y.status = x.status ∧ y.trips = x.trips ∧
    y.deficit = x.deficit ∧ y.u = x.u ∧ y.key = x.key ∧ y.taper = x.taper ∧ y.feedSecs = x.feedSecs := by
  simp [Port.figures]

theorem fedSecond_feedSecs (x : Port) :
    x.fedSecond.feedSecs = if x.action = .feeding then min max32 (x.feedSecs + 1) else x.feedSecs := by
  unfold Port.fedSecond; split <;> rfl

theorem account_feedSecs (pol : Policy) (inMains : Bool) (i : Nat) (x : Port) :
    (pol.account inMains i x).feedSecs = x.feedSecs := by
  unfold Policy.account
  split
  · rfl
  · split <;> rfl

theorem account_off (pol : Policy) (inMains : Bool) (i : Nat) {x : Port} (h : x.action = .off) :
    pol.account inMains i x.fedSecond = x := by
  have same : x.fedSecond = x := if_neg (by rw [h]; nofun)
  rw [same]
  exact if_pos h

/-- What the account reads of a port its feed second leaves alone. -/
theorem fedSecond_eq (x : Port) : x.fedSecond = { x with feedSecs := x.fedSecond.feedSecs, fed := x.fedSecond.fed } := by
  unfold Port.fedSecond; split <;> rfl

/-- A populated port's figures after a period (R69, R71, R72). -/
theorem account_populated (pol : Policy) (inMains : Bool) (i : Nat) {x : Port} (h : x.action ≠ .off) :
    let y := pol.account inMains i x.fedSecond
    y.deficit = (if 60 ≤ pol.nextTaper i x then 0 else pol.nextDeficit inMains i x) ∧
    y.taper = (if 60 ≤ pol.nextTaper i x then 0 else pol.nextTaper i x) ∧
    y.u = y.deficit * 1024 / pol.cap ∧ y.key = y.u + classWeight pol.cls := by
  have action : x.fedSecond.action ≠ .off := by rw [fedSecond_eq]; exact h
  have taper : pol.nextTaper i x.fedSecond = pol.nextTaper i x := by rw [fedSecond_eq]; rfl
  have deficit : pol.nextDeficit inMains i x.fedSecond = pol.nextDeficit inMains i x := by rw [fedSecond_eq]; rfl
  unfold Policy.account
  rw [if_neg action, taper, deficit]
  split
  · exact ⟨rfl, rfl, rfl, rfl⟩
  · exact ⟨rfl, rfl, rfl, rfl⟩

theorem entry_eq_iff {s : State} {e : QueueEntry} :
    e = s.entryOf e.port ↔ e.u = (s.port e.port).u ∧ e.key = (s.port e.port).key := by
  cases e
  simp [State.entryOf]

/-- Settles O23: each port's account, kept by what the two tests stop and start, then the notices. -/
theorem periodEndMovesDeficits : Obligations.PeriodEndMovesDeficits := by
  intro τ s hline hready hdue
  refine ⟨(s.advance τ).periodPart, exec_periodPart hline hready hdue, fun stays p => ?_⟩
  intro x y pol i d taper
  have counted := counted_marking (s.advance τ)
  have judged := counted_judgement (s.advance τ)
  have staysC := planStays_counted (s := s.advance τ) stays
  have worked := judged.worked staysC
  have store : (s.advance τ).periodPart.store = s.store :=
    (periodPart_store _).trans ((judged.only staysC).store.trans counted.store)
  have cport : (s.advance τ).counted.port p = pol.account (s.phase.phase = .mains) i x.fedSecond :=
    counted_port_eq (s.advance τ) p
  obtain ⟨status, trips, deficit, hu, key, htaper, feedSecs⟩ :=
    figures_eq_iff.mp ((periodPart_figures (s.advance τ) p).trans (worked.figures p))
  have kept := counted_port (s.advance τ) p
  have drain : d = pol.drain x.status := by
    show (match x.status with | .run => _ | .low => _ | .sleep => _ | .absent => _) = _
    cases x.status <;> rfl
  have tapers : taper = pol.nextTaper i x := by unfold Policy.nextTaper; rw [← drain]
  refine ⟨fun ha => ?_, fun ha => ?_, ?_, ?_, ?_, ?_⟩
  · rw [deficit, hu, key, htaper, cport, account_off _ _ _ ha]
    exact ⟨rfl, rfl, rfl, rfl⟩
  · obtain ⟨ad, at_, au, ak⟩ := account_populated pol (decide (s.phase.phase = .mains)) i ha
    rw [← cport] at ad at_ au ak
    refine ⟨?_, ?_, ?_, ?_, fun hd hm => ?_⟩
    · rw [deficit, ad, tapers]
      unfold Policy.nextDeficit
      rw [← drain]
      simp only [decide_eq_true_eq]
    · rw [htaper, at_, tapers]
    · rw [hu, deficit, au]
    · rw [key, hu, ak]
      rfl
    · rw [deficit] at hd
      exact periodPart_dirty _ p (worked.dirty p (counted_dirty (s := s.advance τ) hm hd))
  · rw [feedSecs, cport, account_feedSecs, fedSecond_feedSecs]
  · rw [trips, kept]; rfl
  · rw [status, kept]; rfl
  · intro noticed admitted
    have notifies : (s.advance τ).periodPart.Notifies p ↔ noticed := by
      unfold State.Notifies
      rw [policy_congr store]
    refine ⟨fun hn ha e he => ?_, fun hn e he => ?_⟩
    all_goals
      subst he
      obtain ⟨fresh, left⟩ := periodPart_entries (s.advance τ) e
    · rw [fresh (notifies.mpr hn) ha]
      exact entry_eq_iff
    · have same := left fun h => hn ⟨notifies.mp h.1, h.2⟩
      refine ⟨fun he => ?_, fun hphase he => same.mpr ?_⟩
      · have before := worked.queue e (same.mp he)
        rwa [counted.sched] at before
      · have stay : (s.advance τ).counted.levelTested.phase.phase = (s.advance τ).counted.phase.phase := by
          rw [periodPart_phase] at hphase
          rw [counted.phase]
          exact hphase
        rw [(judged.stays stay).sched, counted.sched]
        exact he

end Sys2Proof.Machine
end

section
/-! PROOFS. The end of a plan load over a queue that holds the entry of a port that is OFF (R22, R84, R92, R153; O59). -/

namespace Sys2Proof.Machine
open Sys2Proof

/-- The last read of a load after a power-on reset is under way, in OUTAGE and with no region map: no port is populated,
yet the feed queue holds an entry of port 3, which is OFF with an urgency above the built-in plan's join level. -/
def strayEntry : State :=
  { State.reset with
    line := .released
    phase := { State.reset.phase with phase := .outage }
    ports := State.reset.ports.set 3 { State.reset.port 3 with u := 1024 }
    sched := { State.reset.sched with queue := [{ port := 3, u := 1024, key := 1024 }] }
    store := { State.reset.store with load := some { cause := .powerOn, todo := [.bank .a], off := 960 } }
    path := { State.reset.path with link := .own, own := some { kind := .load, addr := 0, data := [] } } }

/-- The state a command leaves. -/
def stateAfter (c : Instr) (s : State) : Option State :=
  match exec c s with
  | .next t => some t
  | .fault _ => none
  | .refused _ => none

theorem stateAfter_of_exec {c : Instr} {s t : State} (h : exec c s = .next t) : stateAfter c s = some t := by
  unfold stateAfter; rw [h]

theorem strayEntry_txn : strayEntry.path.txn = none := rfl

/-- The load ends with no phase and no thermal state entered, and the entry stays: a port that is OFF does not go OFF
again, and the purge goes by the U of its record. -/
theorem strayEntry_stays : (stateAfter (.planLoadReadComplete 0) strayEntry).map (fun t =>
    (t.scan.thermal, t.phase.phase, t.sched.queue.map (·.port), t.populated 3)) =
      some (.normal, .outage, [3], false) := by decide +kernel

/-- The queue of a load's end holds no entry of a port without population, where nothing is entered. -/
theorem LoadEnded.queue_populated {cause : LoadCause} {s t : State} (h : LoadEnded cause s t)
    (hthermal : t.scan.thermal = s.scan.thermal) (hphase : t.phase.phase = s.phase.phase) :
    ∀ e ∈ t.sched.queue, t.populated e.port = true := by
  obtain ⟨-, u, v, -, -, -, -, -, -, usched, -, carried, -, -, -, -, tsched, -⟩ := h.calm hthermal hphase
  intro e he
  rw [tsched] at he
  obtain ⟨⟨d, hd, hport⟩, -⟩ := (carried.queue e).mp he
  rw [usched] at hd
  rw [← hport]
  exact (List.mem_filter.mp hd).2

/-- Refutes O59: said of every state, also of one whose feed queue holds an entry of a port that is OFF. The end of the
load takes a port's entry out where the port goes OFF, so this entry stays, while `LoadEnded` says that the entries of
ports without population are gone. -/
theorem not_planLoadReadFillsAndEnds : ¬Obligations.PlanLoadReadFillsAndEnds := by
  intro h
  obtain ⟨t, hexec, -, -, -, -, -, -, last⟩ := h 0 { kind := .load, addr := 0, data := [] }
    { cause := .powerOn, todo := [.bank .a], off := 960 } strayEntry rfl rfl rfl rfl rfl rfl rfl fun x hx => by
      rw [strayEntry_txn] at hx; cases hx
  obtain ⟨-, ends⟩ := last .a rfl rfl
  obtain ⟨u, ht, -, ended⟩ := (ends rfl rfl).1 rfl
  have same : t = u := ht
  subst same
  have stays := strayEntry_stays
  rw [stateAfter_of_exec hexec] at stays
  simp only [Option.map_some, Option.some.injEq, Prod.mk.injEq] at stays
  obtain ⟨thermal, phase, queue, unpopulated⟩ := stays
  obtain ⟨e, he, hport⟩ : ∃ e ∈ t.sched.queue, e.port = 3 := List.mem_map.mp (by rw [queue]; exact List.mem_singleton_self 3)
  have populated := ended.queue_populated thermal phase e he
  rw [hport, unpopulated] at populated
  cases populated

end Sys2Proof.Machine
end

section
/-! PROOFS. A write of the installation block handed on while a test is in progress on a port that is OFF (R22, R60, R64,
R108, R117, R162; O60). -/

namespace Sys2Proof.Machine
open Sys2Proof

/-- The thermal settings that a write of the installation block replaces: another hysteresis than the default's. -/
def strayCfg : ThermalCfg := { hyst := 7 }

/-- A HOLDUP test that has not been attached to its port. -/
def strayRun : TestRun :=
  { port := 3, kind := .holdup, bySupervisor := true, minutes := 1, rota := none, attached := 0 }

/-- A write of one byte of the installation block, at its end. -/
def strayTxn : Txn := { began := 0, cmd := some .write, placed := [{ addr := 1, byte := 1#8, locked := false }] }

/-- The unconfigured part in READY, in MAINS, hot enough for CRITICAL under any settings: no port is populated, yet the
test unit has a test in progress on port 3, which is OFF. -/
def strayTest : State :=
  { State.reset with
    line := .released
    store := { State.reset.store with ready := true, plan := .builtIn }
    scan := { State.reset.scan with values := Tab.fill 54 200, cfg := strayCfg }
    test := { State.reset.test with run := some strayRun }
    path := { State.reset.path with inst := some [], csLow := true, txn := some strayTxn } }

/-- The changed block puts the default settings in force, their evaluation enters CRITICAL, and the abort of the test
makes port 3 IDLE, while it stays without population. -/
theorem strayTest_attached : (stateAfter (.transactionEnd 0) strayTest).map (fun t =>
    ((t.port 3).action, t.populated 3, t.scan.thermal)) = some (.idle, false, .critical) := by decide +kernel

theorem strayTest_populated :
    State.populated { strayTest with path := { strayTest.path with inst := some (instTake [] strayTxn.placed) } } 3 =
      false := by decide +kernel

/-- A running round that goes on leaves a port that is OFF as it is. -/
theorem runRound_off {s : State} {p : Fin 48} (h : (s.port p).action = .off) : (s.runRound.port p).action = .off :=
  (((runRound_calm s).ports p).out (.inl h)).1.trans h

/-- Refutes O60: said of every state, also of one with a test in progress on a port that is OFF (`AttachOk`). The end of
that test detaches the port to IDLE after the population has been re-evaluated, while the clause on the installation
block says that a port is OFF exactly when it is not populated. -/
theorem not_transactionEndHandsBytesOn : ¬Obligations.TransactionEndHandsBytesOn := by
  intro h
  obtain ⟨-, -, -, ended⟩ := h 0 strayTest rfl
  obtain ⟨-, -, block⟩ := ended strayTxn rfl rfl rfl rfl rfl
  obtain ⟨u, hexec, -, -, image, -, -, -, changed⟩ := block [] rfl rfl rfl rfl rfl (by decide +kernel)
  obtain ⟨-, off_iff, -⟩ := changed (by decide +kernel)
  have attached := strayTest_attached
  rw [stateAfter_of_exec hexec] at attached
  simp only [Option.map_some, Option.some.injEq, Prod.mk.injEq] at attached
  obtain ⟨idle, -, -⟩ := attached
  have unpopulated : u.populated 3 = false := by
    rw [← strayTest_populated]
    unfold State.populated
    rw [image]
  have off := runRound_off ((off_iff 3).mpr unpopulated)
  rw [idle] at off
  cases off

end Sys2Proof.Machine
end
section
/-! PROOFS. The CRITICAL latch over all commands, and the triggers and stops of the scanner (R49 to R53, R64; O7,
O40). -/

namespace Sys2Proof.Machine
open Sys2Proof

/-! ## The latch (R64) -/

/-- Settles O7: the latch is one of the things that every command but a reset keeps. -/
theorem latchClearedByResetAlone : Obligations.LatchClearedByResetAlone :=
  fun _ _ _ hc hlatch h => (exec_kept hc h).latch hlatch

/-! ## Triggers and stops (R49 to R53) -/

/-- A selected trigger by the mode and the state of the scanner (R50 to R52). -/
theorem Scan.trigger_table (x : Scan) (h : Header) (now : Nat) :
    x.trigger h now = match h.mode, x.state with
      | .oneShot, _ => x.convert now h.first
      | .oneShotLocked, .idle => x.convert now h.first
      | .continuous, .idle => x.convert now h.first
      | .step, .idle => x.convert now x.pos
      | .step, .waiting => x.convert now x.pos
      | _, _ => x := by
  unfold Scan.trigger
  cases h.mode <;> cases x.state <;> rfl

theorem Header.selects_eq (h : Header) (source : TrigSource) : h.selects source = match source with
    | .tick => h.trigTick
    | .round => h.trigRound
    | .supervisor => h.trigSup := by cases source <;> rfl

/-- A trigger that the part does not take, or that the plan does not select, has no effect (R49, R57). -/
theorem trigger_scan (s : State) (source : TrigSource) : (s.trigger source).scan =
    if s.store.ready = false ∨ s.scan.startUp = true ∨ s.header.selects source = false then s.scan
    else s.scan.trigger s.header s.clock := by
  unfold State.trigger State.scanOpen
  cases s.store.ready <;> cases s.scan.startUp <;> cases s.header.selects source <;> rfl

theorem stopScan_only (s : State) : Only [.scan] s s.stopScan := .setScan s _

/-- A stop in the start-up sweep, in LOADING or in IDLE has no effect (R53). -/
theorem stopScan_shut {s : State} (h : s.store.ready = false ∨ s.scan.startUp = true ∨ s.scan.state = .idle) :
    s.stopScan.scan = s.scan := by
  unfold State.stopScan State.scanOpen
  rcases h with h | h | h <;> simp [h]

theorem stopScan_rests {s : State} (hr : s.store.ready = true) (hs : s.scan.startUp = false)
    (hi : s.scan.state ≠ .idle) : s.stopScan.scan = s.scan.rest s.header.first := by
  unfold State.stopScan State.scanOpen
  simp [hr, hs, hi]

theorem exec_scanTrigger_supervisor {τ : Nat} {s : State} (hline : s.line = .released) (hlive : s.takesLive = true) :
    exec (.scanTrigger τ .supervisor) s = .next ((s.touchedAt τ).trigger .supervisor) := by
  simp only [exec, execScanTrigger, timed_released hline, if_pos, liveRow_advance hlive]

theorem exec_scanTrigger_inner {τ : Nat} {source : TrigSource} {s : State} (hline : s.line = .released)
    (h : source ≠ .supervisor) : exec (.scanTrigger τ source) s = .next ((s.advance τ).trigger source) := by
  simp only [exec, execScanTrigger, timed_released hline, if_neg h]

theorem exec_scanStop {τ : Nat} {s : State} (hline : s.line = .released) (hlive : s.takesLive = true) :
    exec (.scanStop τ) s = .next (s.touchedAt τ).stopScan := by
  simp only [exec, execScanStop, timed_released hline, liveRow_advance hlive]

/-- Settles O40: the trigger on the part at its moment, the supervisor's after its touch; then the stop. -/
theorem triggersAndStopsMoveSweep : Obligations.TriggersAndStopsMoveSweep := by
  constructor
  · intro τ source s hline hlive now h selected starts
    have table (u : State) (hclock : u.clock = now) (hstore : u.store = s.store) (hscan : u.scan = s.scan) :
        (u.trigger source).scan = (if s.store.ready = false ∨ s.scan.startUp = true ∨ selected = false then s.scan
          else match h.mode, s.scan.state with
            | .oneShot, _ => starts h.first
            | .oneShotLocked, .idle => starts h.first
            | .continuous, .idle => starts h.first
            | .step, .idle => starts s.scan.pos
            | .step, .waiting => starts s.scan.pos
            | _, _ => s.scan) := by
      rw [trigger_scan, header_congr hstore, hstore, hscan, hclock, Header.selects_eq, Scan.trigger_table]
      rfl
    by_cases hsup : source = .supervisor
    · subst hsup
      have only : Only [.scan, .test, .path] (s.advance τ) ((s.touchedAt τ).trigger .supervisor) :=
        (touchedAt_only s τ).next (trigger_only _ _)
      exact ⟨_, exec_scanTrigger_supervisor hline (hlive.resolve_left (not_not_intro rfl)), rfl, table _ rfl rfl rfl,
        fun _ => ⟨rfl, rfl⟩, fun hn => absurd rfl hn, only.sameBut_advance⟩
    · have only : Only [.scan, .test, .path] (s.advance τ) ((s.advance τ).trigger source) := (trigger_only _ _).mono
      exact ⟨_, exec_scanTrigger_inner hline hsup, rfl, table _ rfl rfl rfl, fun hn => absurd hn hsup,
        fun _ => ⟨rfl, rfl⟩, only.sameBut_advance⟩
  · intro τ s hline hlive now
    have only : Only [.scan, .test, .path] (s.advance τ) (s.touchedAt τ).stopScan :=
      (touchedAt_only s τ).next (stopScan_only _)
    refine ⟨_, exec_scanStop hline hlive, rfl, fun h => stopScan_shut (s := s.touchedAt τ) h, fun hr hs hi => ?_,
      rfl, rfl, only.sameBut_advance⟩
    rw [stopScan_rests (s := s.touchedAt τ) hr hs hi]
    exact ⟨rfl, fun _ => rfl⟩

end Sys2Proof.Machine
end

section
/-! PROOFS. A conversion up to its thermal evaluation: the reading kept, its result dealt with and the sweep that goes
on (R46 to R57, R60). -/

namespace Sys2Proof.Machine
open Sys2Proof

/-! ## The sweep goes on (R50 to R52, R55, R57) -/

/-- The scanner once the result of a channel has been dealt with, in the start-up sweep or in the plan's. -/
def Scan.swept (x : Scan) (h : Header) (now : Nat) : Scan :=
  if x.startUp then x.afterStartUp h now else x.afterChannel h now

/-- What a sweep moves in the scanner. -/
def Scan.sweep (x : Scan) := (x.state, x.pos, x.conv, x.held, x.startUp)

section
variable {x y : Scan} (h : y.view = x.view)
include h

theorem Scan.values_of_view : y.values = x.values := congrArg (fun v => v.1) h

theorem Scan.ages_of_view : y.ages = x.ages := congrArg (fun v => v.2.1) h

theorem Scan.thermal_of_view : y.thermal = x.thermal := congrArg (fun v => v.2.2.1) h

theorem Scan.latch_of_view : y.latch = x.latch := congrArg (fun v => v.2.2.2.1) h

theorem Scan.measIdx_of_view : y.measIdx = x.measIdx := congrArg (fun v => v.2.2.2.2) h

end

theorem Scan.swept_view (x : Scan) (h : Header) (now : Nat) : (x.swept h now).view = x.view := by
  unfold Scan.swept
  split
  · exact Scan.afterStartUp_view ..
  · exact Scan.afterChannel_view ..

theorem Scan.swept_cfg (x : Scan) (h : Header) (now : Nat) : (x.swept h now).cfg = x.cfg := by
  unfold Scan.swept Scan.afterStartUp Scan.afterChannel
  split
  · split <;> rfl
  · split
    · split <;> rfl
    · split <;> rfl
    · rfl
    · rfl

/-- The channel that follows, by the start-up sweep and by each mode of the plan's. -/
theorem sweepGoesOn_swept {s : State} {x : Scan} (hpos : x.pos = s.scan.pos) (hstart : x.startUp = s.scan.startUp)
    (now : Nat) : s.SweepGoesOn now (x.swept s.header now) := by
  unfold State.SweepGoesOn Scan.swept
  rw [← hpos, ← hstart]
  cases hs : x.startUp with
  | true =>
    simp only [if_true, Scan.afterStartUp]
    by_cases hlast : x.pos = 53
    · simp [hlast, Scan.rest]
    · simp [hlast, Scan.convert, hs]
  | false =>
    simp only [Bool.false_eq_true, if_false, Scan.afterChannel]
    cases s.header.mode with
    | oneShot | oneShotLocked =>
      by_cases hlast : x.pos = s.header.final <;>
        simp [hlast, Scan.rest, Scan.convert, Header.nextChannel, hs]
    | continuous => simp [Scan.convert, Header.nextChannel, hs]
    | step => simp [Header.nextChannel, hs]

/-- The scanner's other fields say nothing of its sweep. -/
theorem State.SweepGoesOn.congr {s : State} {now : Nat} {x y : Scan} (h : s.SweepGoesOn now x)
    (hy : y.sweep = x.sweep) : s.SweepGoesOn now y := by
  simp only [Scan.sweep, Prod.mk.injEq] at hy
  obtain ⟨hstate, hpos, hconv, hheld, hstart⟩ := hy
  unfold State.SweepGoesOn at h ⊢
  rw [hstate, hpos, hconv, hheld, hstart]
  exact h

/-! ## The reading kept (R46, R60) -/

/-- The scanner with a reading of the channel at its position. -/
def Scan.withReading (x : Scan) (v : Int) : Scan :=
  { x with values := x.values.set x.pos v, ages := x.ages.set x.pos 0 }

theorem takeReading_marking (s : State) (v : Int) : Marking [.scan, .path] s (s.takeReading v) := by
  unfold State.takeReading
  dsimp only
  split
  · exact (Only.setScan s _).marking.next (markPortIf_marking _ _ _)
  · exact (Only.setScan s _).marking.mono

theorem takeReading_scan (s : State) (v : Int) : (s.takeReading v).scan = s.scan.withReading v := by
  unfold State.takeReading
  dsimp only
  split
  · rw [(markPortIf_marking _ _ _).scan]; rfl
  · rfl

/-- A reading saturated to its channel's range; a temperature corrected and saturated again (R46, R60). -/
theorem corrected_eq (cfg : ThermalCfg) (c : Fin 54) (raw : Int) : corrected cfg c raw =
    if c.val < 48 then max 0 (min 4095 raw) else if c.val = 48 then max 0 (min 6553 raw)
    else if c.val = 49 then max (-32768) (min 32767 raw)
    else max (-80) (min 250 (max (-80) (min 250 raw) + cfg.offsets.get (Fin.ofNat 4 (c.val - 50)))) := by
  unfold corrected channelRange clampI
  dsimp only
  by_cases h1 : c.val < 48
  · rw [if_pos (by omega), if_pos h1, if_pos h1]
  · by_cases h2 : c.val = 48
    · rw [if_pos (by omega), if_neg h1, if_pos h2, if_neg h1, if_pos h2]
    · by_cases h3 : c.val = 49
      · rw [if_pos (by omega), if_neg h1, if_neg h2, if_pos h3, if_neg h1, if_neg h2, if_pos h3]
      · rw [if_neg (by omega), if_neg h1, if_neg h2, if_neg h3, if_neg h1, if_neg h2, if_neg h3]

/-! ## The result dealt with (R54) -/

/-- A result is logged: outside the start-up sweep, where the plan logs and the map has a MEAS region. -/
def State.ResultLogged (s : State) : Prop := s.scan.startUp = false ∧ s.header.logging = true ∧ s.region .meas ≠ none

/-- The record of a value of the channel at the sweep position. -/
def State.resultRecord (s : State) (v : Int) : Meas := { channel := s.scan.pos, value := v, time := s.partTime }

theorem logs_iff (s : State) : s.logs = true ↔ s.header.logging = true ∧ s.region .meas ≠ none := by
  unfold State.logs
  rw [Bool.and_eq_true, Option.isSome_iff_ne_none]

theorem dealResult_unlogged {s : State} (h : ¬s.ResultLogged) (v : Int) :
    s.dealResult v = { s with scan := s.scan.swept s.header s.clock } := by
  unfold State.dealResult Scan.swept
  cases hs : s.scan.startUp with
  | true => simp only [if_true]
  | false =>
    have hl : ¬s.logs = true := fun hl => h ⟨hs, (logs_iff s).mp hl⟩
    simp only [Bool.false_eq_true, if_false, if_neg hl]

theorem dealResult_logged {s : State} (h : s.ResultLogged) (hq : s.path.ownq.length < 16) (v : Int) :
    s.dealResult v = { s with
      path := { s.path with ownq := s.path.ownq ++ [{ item := .meas (s.resultRecord v) }] }
      scan := s.scan.swept s.header s.clock } := by
  have place : s.path.ownq.length < Config.queuePlaces := hq
  unfold State.dealResult Scan.swept
  simp only [h.1, Bool.false_eq_true, if_false, if_pos ((logs_iff s).mpr h.2), if_pos place]
  rfl

theorem dealResult_held {s : State} (h : s.ResultLogged) (hq : 16 ≤ s.path.ownq.length) (v : Int) :
    s.dealResult v = { s with scan := { s.scan with
      state := .paused, conv := none, held := some (s.resultRecord v) } } := by
  have full : ¬s.path.ownq.length < Config.queuePlaces := Nat.not_lt.mpr hq
  unfold State.dealResult
  simp only [h.1, Bool.false_eq_true, if_false, if_pos ((logs_iff s).mpr h.2), if_neg full]
  rfl

/-- A result dealt with: the sweep has gone on, with the record in the queue or none to make, or the result is held. -/
inductive Dealt (v : Int) (s : State) : State → Prop
  | unlogged (h : ¬s.ResultLogged) : Dealt v s { s with scan := s.scan.swept s.header s.clock }
  | logged (h : s.ResultLogged) (hq : s.path.ownq.length < 16) : Dealt v s { s with
      path := { s.path with ownq := s.path.ownq ++ [{ item := .meas (s.resultRecord v) }] }
      scan := s.scan.swept s.header s.clock }
  | held (h : s.ResultLogged) (hq : 16 ≤ s.path.ownq.length) : Dealt v s { s with scan := { s.scan with
      state := .paused, conv := none, held := some (s.resultRecord v) } }

theorem dealResult_dealt (s : State) (v : Int) : Dealt v s (s.dealResult v) := by
  by_cases h : s.ResultLogged
  · by_cases hq : s.path.ownq.length < 16
    · rw [dealResult_logged h hq]; exact .logged h hq
    · rw [dealResult_held h (by omega)]; exact .held h (by omega)
  · rw [dealResult_unlogged h]; exact .unlogged h

theorem dealResult_only (s : State) (v : Int) : Only [.scan, .path] s (s.dealResult v) := by
  have h := dealResult_dealt s v
  generalize s.dealResult v = t at h ⊢
  cases h with
  | unlogged => exact (Only.setScan s _).mono
  | logged => exact (Only.setScan s (s.scan.swept s.header s.clock)).next (.setPath { s with scan := _ } _)
  | held => exact (Only.setScan s _).mono

theorem dealResult_view (s : State) (v : Int) : (s.dealResult v).scan.view = s.scan.view := by
  have h := dealResult_dealt s v
  generalize s.dealResult v = t at h ⊢
  cases h with
  | unlogged => exact Scan.swept_view ..
  | logged => exact Scan.swept_view ..
  | held => rfl

theorem dealResult_cfg (s : State) (v : Int) : (s.dealResult v).scan.cfg = s.scan.cfg := by
  have h := dealResult_dealt s v
  generalize s.dealResult v = t at h ⊢
  cases h with
  | unlogged => exact Scan.swept_cfg ..
  | logged => exact Scan.swept_cfg ..
  | held => rfl

theorem dealResult_prefix (s : State) (v : Int) : s.path.ownq <+: (s.dealResult v).path.ownq := by
  have h := dealResult_dealt s v
  generalize s.dealResult v = t at h ⊢
  cases h with
  | unlogged => exact List.prefix_rfl
  | logged => exact List.prefix_append ..
  | held => exact List.prefix_rfl

theorem dealResult_queueAndMarks (s : State) (v : Int) : QueueAndMarks s (s.dealResult v) := by
  have h := dealResult_dealt s v
  generalize s.dealResult v = t at h ⊢
  cases h with
  | unlogged => exact .refl s
  | logged => exact ⟨rfl, rfl⟩
  | held => exact .refl s

/-! ## A conversion up to its thermal evaluation -/

/-- The part once a reading is kept and its result dealt with. -/
def State.readingDealt (s : State) (raw : Int) : State :=
  (s.takeReading (corrected s.thermalCfg s.scan.pos raw)).dealResult (corrected s.thermalCfg s.scan.pos raw)

/-- A conversion up to the running round that goes on. -/
def State.conversionPart (s : State) (raw : Int) : State :=
  if 50 ≤ s.scan.pos.val then (s.readingDealt raw).evalThermal else s.readingDealt raw

theorem exec_conversionComplete {τ t0 : Nat} {raw : Int} {s : State} (hline : s.line = .released)
    (hconv : s.scan.conv = some t0) (hdue : t0 + Config.conversionTime ≤ max s.clock τ) :
    exec (.conversionComplete τ raw) s = .next ((s.advance τ).conversionPart raw).runRound := by
  have due : hasRun (s.advance τ).scan.conv Config.conversionTime (s.advance τ).clock = true := hasRun_some hconv hdue
  simp only [exec, execConversionComplete, timed_released hline, if_pos due]
  rfl

theorem exec_conversionFailed {τ t0 : Nat} {s : State} (hline : s.line = .released)
    (hconv : s.scan.conv = some t0) (hdue : t0 + Config.conversionTime ≤ max s.clock τ) :
    exec (.conversionFailed τ) s =
      .next { s.advance τ with scan := s.scan.swept s.header (max s.clock τ) } := by
  have due : hasRun (s.advance τ).scan.conv Config.conversionTime (s.advance τ).clock = true := hasRun_some hconv hdue
  simp only [exec, execConversionFailed, timed_released hline, if_pos due]
  rfl

theorem readingDealt_only (s : State) (raw : Int) : Only [.scan, .path] s (s.readingDealt raw) :=
  (takeReading_marking s _).toOnly.trans (dealResult_only _ _)

theorem readingDealt_queueAndMarks (s : State) (raw : Int) : QueueAndMarks s (s.readingDealt raw) :=
  (takeReading_marking s _).marks.1.trans (dealResult_queueAndMarks _ _)

theorem readingDealt_view (s : State) (raw : Int) :
    (s.readingDealt raw).scan.view = (s.scan.withReading (corrected s.thermalCfg s.scan.pos raw)).view :=
  (dealResult_view _ _).trans (congrArg Scan.view (takeReading_scan s _))

theorem readingDealt_thermal (s : State) (raw : Int) : (s.readingDealt raw).scan.thermal = s.scan.thermal :=
  (Scan.thermal_of_view (readingDealt_view s raw)).trans rfl

theorem readingDealt_latch (s : State) (raw : Int) : (s.readingDealt raw).scan.latch = s.scan.latch :=
  (Scan.latch_of_view (readingDealt_view s raw)).trans rfl

theorem readingDealt_thermalCfg (s : State) (raw : Int) : (s.readingDealt raw).thermalCfg = s.thermalCfg :=
  (dealResult_cfg _ _).trans (by rw [takeReading_scan]; rfl)

theorem readingDealt_prefix (s : State) (raw : Int) : s.path.ownq <+: (s.readingDealt raw).path.ownq := by
  rw [← (takeReading_marking s (corrected s.thermalCfg s.scan.pos raw)).ownq]
  exact dealResult_prefix _ _

/-- What a conversion makes of the sweep and of the own-access queue, by what becomes of its result (R54). -/
structure ReadingDealt (m : Meas) (s t : State) : Prop where
  unlogged : ¬s.ResultLogged → s.SweepGoesOn s.clock t.scan ∧ t.path.ownq = s.path.ownq
  logged : s.ResultLogged → s.path.ownq.length < 16 →
    s.SweepGoesOn s.clock t.scan ∧ t.path.ownq = s.path.ownq ++ [{ item := .meas m }]
  held : s.ResultLogged → 16 ≤ s.path.ownq.length →
    t.scan.state = .paused ∧ t.scan.held = some m ∧ t.scan.conv = none ∧ t.scan.pos = s.scan.pos ∧
      t.path.ownq = s.path.ownq

theorem resultLogged_takeReading (s : State) (v : Int) : (s.takeReading v).ResultLogged ↔ s.ResultLogged := by
  have h := takeReading_marking s v
  unfold State.ResultLogged State.region
  rw [takeReading_scan, header_congr h.store, regions_congr h.inst]
  rfl

theorem readingDealt_dealt (s : State) (raw : Int) :
    ReadingDealt (s.resultRecord (corrected s.thermalCfg s.scan.pos raw)) s (s.readingDealt raw) := by
  unfold State.readingDealt
  generalize corrected s.thermalCfg s.scan.pos raw = v
  have took := takeReading_marking s v
  have scan := takeReading_scan s v
  have logs := resultLogged_takeReading s v
  have head : (s.takeReading v).header = s.header := header_congr took.store
  have record : (s.takeReading v).resultRecord v = s.resultRecord v := by
    unfold State.resultRecord State.partTime
    rw [took.clock, scan]
    rfl
  have goesOn : s.SweepGoesOn s.clock
      ((s.takeReading v).scan.swept (s.takeReading v).header (s.takeReading v).clock) := by
    rw [head, took.clock]
    exact sweepGoesOn_swept (by rw [scan]; rfl) (by rw [scan]; rfl) _
  refine ⟨fun h => ?_, fun h hq => ?_, fun h hq => ?_⟩
  · rw [dealResult_unlogged (logs.not.mpr h)]
    exact ⟨goesOn, took.ownq⟩
  · rw [dealResult_logged (logs.mpr h) (by rwa [took.ownq]), record, took.ownq]
    exact ⟨goesOn, rfl⟩
  · rw [dealResult_held (logs.mpr h) (by rwa [took.ownq]), record]
    exact ⟨rfl, rfl, rfl, (by rw [scan]; rfl : (s.takeReading v).scan.pos = s.scan.pos), took.ownq⟩

end Sys2Proof.Machine
end

section
/-! PROOFS. The thermal evaluation that ends a temperature conversion, and the entry to CRITICAL (R60 to R64, R80,
R147). -/

namespace Sys2Proof.Machine
open Sys2Proof

/-! ## The cases of an evaluation (R61) -/

/-- The thermal state that an evaluation of the values held gives. -/
def State.thermalNext (s : State) : Thermal := nextThermal s.thermalCfg s.highestTemp s.scan.thermal

/-- The part in another thermal state, with the hold signal of the limit that it has there (R80). -/
def State.thermalMoved (s : State) (new : Thermal) : State :=
  let moved := { s with scan := { s.scan with thermal := new } }
  if s.scan.thermal = .hot ∨ new = .hot then moved.reHold else moved

/-- The part in CRITICAL with the latch set. -/
def State.latched (s : State) : State := { s with scan := { s.scan with thermal := .critical, latch := true } }

/-- The entry to CRITICAL up to the bank switch that may be pending: the latch set, all work stopped and a test in
progress aborted (R64). -/
def State.criticalEntered (s : State) : State :=
  (s.thermalMoved .critical).latched.stopAll.abortTest .thermal false

/-- What an evaluation makes of the part. -/
inductive Evaluated (s : State) : State → Prop
  | same (h : s.thermalNext = s.scan.thermal) : Evaluated s s
  | quiet (h : s.thermalNext ≠ s.scan.thermal) (hot : s.thermalNext ≠ .hot) (critical : s.thermalNext ≠ .critical) :
      Evaluated s (s.thermalMoved s.thermalNext)
  | hot (h : s.thermalNext ≠ s.scan.thermal) (hot : s.thermalNext = .hot) :
      Evaluated s (s.thermalMoved .hot).raiseThermal
  | critical (h : s.thermalNext ≠ s.scan.thermal) (critical : s.thermalNext = .critical) :
      Evaluated s s.criticalEntered.applyTarget.raiseThermal

theorem evalThermal_eq (s : State) : s.evalThermal =
    if s.thermalNext = s.scan.thermal then s
    else if s.thermalNext = .critical then (s.thermalMoved s.thermalNext).enterCritical
    else if s.thermalNext = .hot then (s.thermalMoved s.thermalNext).raiseThermal
    else s.thermalMoved s.thermalNext := rfl

theorem enterCritical_moved (s : State) :
    (s.thermalMoved .critical).enterCritical = s.criticalEntered.applyTarget.raiseThermal := rfl

theorem evalThermal_evaluated (s : State) : Evaluated s s.evalThermal := by
  rw [evalThermal_eq]
  by_cases same : s.thermalNext = s.scan.thermal
  · rw [if_pos same]
    exact .same same
  rw [if_neg same]
  by_cases critical : s.thermalNext = .critical
  · rw [if_pos critical, critical, enterCritical_moved]
    exact .critical same critical
  rw [if_neg critical]
  by_cases hot : s.thermalNext = .hot
  · rw [if_pos hot, hot]
    exact .hot same hot
  rw [if_neg hot]
  exact .quiet same hot critical

/-! ## Entries put behind those that wait -/

/-- Entries have only been put behind those of the own-access queue, and a full queue has taken none. -/
def Appended (s t : State) : Prop :=
  s.path.ownq <+: t.path.ownq ∧ (16 ≤ s.path.ownq.length → t.path.ownq = s.path.ownq)

theorem Appended.of_eq {s t : State} (h : t.path.ownq = s.path.ownq) : Appended s t :=
  ⟨h ▸ List.prefix_rfl, fun _ => h⟩

theorem Appended.trans {s t u : State} (h : Appended s t) (k : Appended t u) : Appended s u :=
  ⟨h.1.trans k.1, fun full => (k.2 (full.trans h.1.length_le)).trans (h.2 full)⟩

/-- An event that is no refusal goes to the staging list of a full queue (R130). -/
theorem place_full {ringOpen : Bool} {marker e : Event} {x : Spool} (he : e.kind ≠ .writeRefused)
    (full : 16 ≤ x.queue.length) : (x.place ringOpen marker e).queue = x.queue := by
  have noPlace : ¬(x.queue.length < Config.queuePlaces ∧ x.staging = []) := fun h => absurd h.1 (Nat.not_lt.mpr full)
  unfold Spool.place
  rw [if_neg he, if_neg he]
  split
  · rfl
  · dsimp only
    split <;> rfl

theorem raiseTagged_appended (s : State) {kind : EventKind} (h : kind ≠ .writeRefused) (subject : Nat) (value : Int)
    (cause tag : Nat) : Appended s (s.raiseTagged kind subject value cause tag) :=
  ⟨raiseTagged_prefix s h subject value cause tag, fun full =>
    place_full (x := ⟨s.path.ownq, s.ev.staging, s.ev.unkept⟩) (e := s.entry kind subject value cause tag) h full⟩

theorem raiseThermal_scan (s : State) : s.raiseThermal.scan = s.scan := rfl

theorem raiseThermal_appended (s : State) : Appended s s.raiseThermal := raiseTagged_appended s (by decide) ..

theorem endTest_appended (s : State) (run : TestRun) (result : TestResult) (value : Nat) (span : Option (Nat × Nat)) :
    Appended s (s.endTest run result value span false) := by
  rw [endTest_eq]
  exact (Appended.of_eq (leftTest_marking s run result value).ownq).trans (raiseTagged_appended _ (by decide) ..)

theorem abortTest_appended (s : State) (cause : AbortCause) : Appended s (s.abortTest cause false) := by
  cases h : s.test.run with
  | none => rw [abortTest_none h]; exact .of_eq rfl
  | some run => rw [abortTest_some h]; exact endTest_appended ..

/-! ## An applied switch and the parts it leaves -/

theorem SwitchApplied.only {target : Bank} {s t : State} (hline : t.line = s.line)
    (h : State.SwitchApplied target s t) : Only [.ports, .scan, .acct, .sched, .test, .ev, .store, .path] s t := by
  obtain ⟨clock, -, -, -, self, other⟩ := h
  by_cases ht : target = s.store.active
  · rw [self ht]
    exact (Only.setStore s _).mono
  · obtain ⟨bank, -, refused, taken⟩ := other ht
    rw [← bank] at refused taken
    by_cases hv : (t.bank target).validity = .valid
    · obtain ⟨-, -, -, -, -, -, -, -, same⟩ := taken hv
      exact ⟨hline, clock, same.2⟩
    · obtain ⟨-, -, -, -, same⟩ := refused hv
      exact Only.mono ⟨hline, clock, same.2⟩

theorem applySwitch_only (s : State) (target : Bank) :
    Only [.ports, .scan, .acct, .sched, .test, .ev, .store, .path] s (s.applySwitch target) :=
  SwitchApplied.only (applySwitch_inner s target).toCalm.line_eq (applySwitch_applied target s)

/-- A pending target has been applied, or the part is as it was. -/
theorem applyTarget_cases (s : State) : s.applyTarget = s ∨ ∃ target, s.applyTarget = s.applySwitch target := by
  unfold State.applyTarget
  split
  · next target _ =>
    split
    · exact .inr ⟨target, rfl⟩
    · exact .inl rfl
  · exact .inl rfl

theorem applyTarget_only (s : State) :
    Only [.ports, .scan, .acct, .sched, .test, .ev, .store, .path] s s.applyTarget := by
  rcases applyTarget_cases s with h | ⟨target, h⟩ <;> rw [h]
  · exact .refl s
  · exact applySwitch_only s target

/-- An applied switch leaves a round that does not run. -/
theorem applySwitch_running (s : State) (target : Bank) : (s.applySwitch target).sched.running = s.sched.running := by
  obtain ⟨-, -, -, -, self, other⟩ := applySwitch_applied target s
  by_cases ht : target = s.store.active
  · rw [self ht]
  · obtain ⟨bank, -, refused, taken⟩ := other ht
    rw [← bank] at refused taken
    by_cases hv : ((s.applySwitch target).bank target).validity = .valid
    · obtain ⟨-, -, -, carried, -⟩ := taken hv
      rw [carried.sched]
    · obtain ⟨-, -, -, -, same⟩ := refused hv
      rw [same.2 .sched (by decide)]

theorem applyTarget_running (s : State) : s.applyTarget.sched.running = s.sched.running := by
  rcases applyTarget_cases s with h | ⟨target, h⟩ <;> rw [h]
  exact applySwitch_running s target

theorem header_of_plan {s t : State} (h : t.store.plan = s.store.plan) : t.header = s.header := by
  unfold State.header
  rw [h]

theorem holdNow_congr {s t : State} (ha : t.acct = s.acct) (hc : t.scan.thermal = s.scan.thermal)
    (hp : t.store.plan = s.store.plan) : t.holdNow = s.holdNow := by
  unfold State.holdNow State.limit State.filter
  rw [ha, hc, header_of_plan hp]

/-- The hold signal stays the one of the limit in force, also under the plan of an applied switch (R80, R149). -/
theorem applySwitch_hold {s : State} (target : Bank) (h : s.acct.hold = s.holdNow) :
    (s.applySwitch target).acct.hold = (s.applySwitch target).holdNow := by
  obtain ⟨-, -, -, -, self, other⟩ := applySwitch_applied target s
  by_cases ht : target = s.store.active
  · rw [self ht]
    exact h
  · obtain ⟨bank, -, refused, taken⟩ := other ht
    rw [← bank] at refused taken
    by_cases hv : ((s.applySwitch target).bank target).validity = .valid
    · obtain ⟨-, -, -, carried, -⟩ := taken hv
      rw [carried.acct]
    · obtain ⟨-, plan, -, -, same⟩ := refused hv
      have acct : (s.applySwitch target).acct = s.acct := same.2 .acct (by decide)
      have scan : (s.applySwitch target).scan = s.scan := same.2 .scan (by decide)
      rw [acct, h]
      exact (holdNow_congr acct (by rw [scan]) plan).symm

theorem applyTarget_hold {s : State} (h : s.acct.hold = s.holdNow) :
    s.applyTarget.acct.hold = s.applyTarget.holdNow := by
  rcases applyTarget_cases s with e | ⟨target, e⟩ <;> rw [e]
  · exact h
  · exact applySwitch_hold target h

theorem Inner.scanView {s t : State} (h : Inner s t) : t.scan.view = s.scan.view :=
  congrArg (fun v => v.2.2.2.2.2.1) h.calm

theorem Inner.thermal_eq {s t : State} (h : Inner s t) : t.scan.thermal = s.scan.thermal :=
  Scan.thermal_of_view h.scanView

theorem Inner.latch_eq {s t : State} (h : Inner s t) : t.scan.latch = s.scan.latch :=
  Scan.latch_of_view h.scanView

theorem Inner.last_eq {s t : State} (h : Inner s t) : t.test.last = s.test.last :=
  congrArg (fun v => v.2.2.2.2.2.2.1.1) h.calm

/-! ## Another thermal state -/

theorem thermalMoved_only (s : State) (new : Thermal) : Only [.scan, .acct] s (s.thermalMoved new) := by
  unfold State.thermalMoved
  dsimp only
  split
  · exact (Only.setScan s { s.scan with thermal := new }).next (reHold_only _)
  · exact (Only.setScan s _).mono

theorem thermalMoved_scan (s : State) (new : Thermal) : (s.thermalMoved new).scan = { s.scan with thermal := new } := by
  unfold State.thermalMoved
  dsimp only
  split <;> rfl

theorem thermalMoved_hold {s : State} {new : Thermal} (h : new = .hot ∨ s.scan.thermal = .hot) :
    (s.thermalMoved new).acct.hold = (s.thermalMoved new).holdNow := by
  unfold State.thermalMoved
  rw [if_pos h.symm]
  rfl

/-! ## The entry to CRITICAL (R64) -/

theorem latched_only (s : State) : Only [.scan] s s.latched := .setScan s _

theorem criticalEntered_only (s : State) :
    Only [.ports, .gate, .scan, .acct, .sched, .test, .ev, .path] s s.criticalEntered :=
  (((thermalMoved_only s .critical).next (n := [.scan, .acct]) (latched_only _)).next
    (n := [.ports, .gate, .scan, .acct, .sched, .path]) (stopAll_marking _).toOnly).next (abortTest_only _ _)

theorem criticalEntered_scan (s : State) :
    s.criticalEntered.scan = { s.scan with thermal := .critical, latch := true } := by
  unfold State.criticalEntered
  rw [(abortTest_only _ _).scan, (stopAll_marking _).scan]
  show { (s.thermalMoved .critical).scan with thermal := .critical, latch := true } = _
  rw [thermalMoved_scan]

theorem criticalEntered_sched (s : State) :
    s.criticalEntered.sched = Sched.abandoned { s.sched with queue := [] } := by
  unfold State.criticalEntered
  rw [(abortTest_only _ _).sched, stopAll_sched, (latched_only _).sched, (thermalMoved_only _ _).sched]

theorem criticalEntered_acct (s : State) : s.criticalEntered.acct = (s.thermalMoved .critical).acct := by
  unfold State.criticalEntered
  rw [(abortTest_only _ _).acct, (stopAll_marking _).acct, (latched_only _).acct]

theorem criticalEntered_atRest (s : State) : s.criticalEntered.AtRest where
  queue := by rw [criticalEntered_sched]; rfl
  waiting := by
    unfold State.criticalEntered
    rw [abortTest_gate_of_empty (by rw [stopAll_gate]), stopAll_gate]
  timer := by rw [criticalEntered_sched]; rfl
  run := by unfold State.criticalEntered; exact abortTest_run _ _
  work p := by
    unfold State.criticalEntered
    exact abortTest_action _ (by rw [stopAll_port]; exact workEnded_action_ne _)

/-- The test in progress before the entry is the one that it aborts. -/
theorem stopped_run (s : State) : (s.thermalMoved .critical).latched.stopAll.test.run = s.test.run := by
  rw [(stopAll_marking _).test, (latched_only _).test, (thermalMoved_only _ _).test]

theorem stopped_ownq (s : State) : (s.thermalMoved .critical).latched.stopAll.path.ownq = s.path.ownq := by
  rw [(stopAll_marking _).ownq, (latched_only _).path, (thermalMoved_only _ _).path]

theorem criticalEntered_appended (s : State) : Appended s s.criticalEntered := by
  unfold State.criticalEntered
  exact (Appended.of_eq (stopped_ownq s)).trans (abortTest_appended _ _)

/-- The result of the test that an entry to CRITICAL aborts (R64, R117). -/
theorem criticalEntered_last {s : State} {run : TestRun} (h : s.test.run = some run) :
    ∃ last, s.criticalEntered.test.last = some last ∧ last.result = .aborted .thermal ∧ last.port = run.port := by
  unfold State.criticalEntered
  rw [abortTest_some ((stopped_run s).trans h), (endTest_ended ..).test]
  exact ⟨_, rfl, rfl, rfl⟩

theorem criticalEntered_ev {s : State} (h : s.test.run = none) : s.criticalEntered.ev = s.ev := by
  unfold State.criticalEntered
  rw [abortTest_none ((stopped_run s).trans h), (stopAll_marking _).ev, (latched_only _).ev, (thermalMoved_only _ _).ev]

/-! ## What an evaluation keeps -/

theorem evalThermal_only (s : State) :
    Only [.ports, .gate, .scan, .acct, .sched, .test, .ev, .store, .path] s s.evalThermal := by
  have h := evalThermal_evaluated s
  generalize s.evalThermal = t at h
  cases h with
  | same => exact .refl s
  | quiet => exact (thermalMoved_only s _).mono
  | hot => exact (thermalMoved_only s _).next (raise_only _ _ _ _ _)
  | critical =>
    exact ((criticalEntered_only s).next (n := [.ports, .gate, .scan, .acct, .sched, .test, .ev, .store, .path])
      (applyTarget_only _)).next (raise_only _ _ _ _ _)

/-- The values and the ages of the channels. -/
def Scan.readings (x : Scan) := (x.values, x.ages)

theorem Scan.readings_of_view {x y : Scan} (h : y.view = x.view) : y.readings = x.readings :=
  Prod.ext (Scan.values_of_view h) (Scan.ages_of_view h)

theorem evalThermal_readings (s : State) : s.evalThermal.scan.readings = s.scan.readings := by
  have h := evalThermal_evaluated s
  generalize s.evalThermal = t at h
  cases h with
  | same => rfl
  | quiet => rw [thermalMoved_scan]; rfl
  | hot => rw [raiseThermal_scan, thermalMoved_scan]; rfl
  | critical =>
    rw [raiseThermal_scan, Scan.readings_of_view (applyTarget_inner _).scanView, criticalEntered_scan]
    rfl

/-- Without a switch to apply, an evaluation leaves the sweep where it is, and its events come behind the entries that
wait. -/
theorem evalThermal_sweep {s : State} (h : s.store.target = none ∨ s.store.load ≠ none) :
    s.evalThermal.scan.sweep = s.scan.sweep ∧ Appended s s.evalThermal := by
  have moved (new : Thermal) : Appended s (s.thermalMoved new) := .of_eq (by rw [(thermalMoved_only s new).path])
  have h' := evalThermal_evaluated s
  generalize s.evalThermal = t at h'
  cases h' with
  | same => exact ⟨rfl, .of_eq rfl⟩
  | quiet => exact ⟨by rw [thermalMoved_scan]; rfl, moved _⟩
  | hot => exact ⟨by rw [raiseThermal_scan, thermalMoved_scan]; rfl, (moved _).trans (raiseThermal_appended _)⟩
  | critical =>
    rw [applyTarget_held (by rwa [(criticalEntered_only s).store]), raiseThermal_scan, criticalEntered_scan]
    exact ⟨rfl, (criticalEntered_appended s).trans (raiseThermal_appended _)⟩

end Sys2Proof.Machine
end

section
/-! PROOFS. A conversion with its thermal evaluation (R46, R47, R54, R60 to R64; O38, O39). -/

namespace Sys2Proof.Machine
open Sys2Proof

/-! ## A conversion with its evaluation -/

theorem conversionPart_channel {s : State} (h : ¬50 ≤ s.scan.pos.val) (raw : Int) :
    s.conversionPart raw = s.readingDealt raw := if_neg h

theorem conversionPart_sensor {s : State} (h : 50 ≤ s.scan.pos.val) (raw : Int) :
    s.conversionPart raw = (s.readingDealt raw).evalThermal := if_pos h

theorem conversionPart_only (s : State) (raw : Int) :
    Only [.ports, .gate, .scan, .acct, .sched, .test, .ev, .store, .path] s (s.conversionPart raw) := by
  by_cases h : 50 ≤ s.scan.pos.val
  · rw [conversionPart_sensor h]
    exact (readingDealt_only s raw).next (evalThermal_only _)
  · rw [conversionPart_channel h]
    exact (readingDealt_only s raw).mono

/-- The readings of a conversion are the ones it keeps, whatever its evaluation does. -/
theorem conversionPart_readings (s : State) (raw : Int) :
    (s.conversionPart raw).scan.readings = (s.scan.withReading (corrected s.thermalCfg s.scan.pos raw)).readings := by
  have dealt := Scan.readings_of_view (readingDealt_view s raw)
  by_cases h : 50 ≤ s.scan.pos.val
  · rw [conversionPart_sensor h, evalThermal_readings, dealt]
  · rw [conversionPart_channel h, dealt]

/-- One channel has a new reading of age 0, the others keep theirs. -/
theorem withReading_read {x y : Scan} {v : Int} (h : y.readings = (x.withReading v).readings) :
    y.values.get x.pos = v ∧ y.ages.get x.pos = 0 ∧
      ∀ d, d ≠ x.pos → y.values.get d = x.values.get d ∧ y.ages.get d = x.ages.get d := by
  simp only [Scan.readings, Scan.withReading, Prod.mk.injEq] at h
  obtain ⟨values, ages⟩ := h
  rw [values, ages]
  refine ⟨by simp, by simp, fun d hd => ?_⟩
  rw [Tab.get_set, Tab.get_set, if_neg hd, if_neg hd]
  exact ⟨rfl, rfl⟩

/-- Without a switch that an entry to CRITICAL applies, the sweep is where the result left it, and the entries wait as
it left them, before those of the evaluation's events. -/
theorem conversionPart_sweep {s : State} (raw : Int)
    (h : s.scan.pos.val < 50 ∨ s.store.target = none ∨ s.store.load ≠ none) :
    (s.conversionPart raw).scan.sweep = (s.readingDealt raw).scan.sweep ∧
      Appended (s.readingDealt raw) (s.conversionPart raw) := by
  by_cases hc : 50 ≤ s.scan.pos.val
  · rw [conversionPart_sensor hc]
    exact evalThermal_sweep (by rw [(readingDealt_only s raw).store]; exact h.resolve_left (by omega))
  · rw [conversionPart_channel hc]
    exact ⟨rfl, .of_eq rfl⟩

/-- Settles O38: the reading, what becomes of its result, and the part without a thermal evaluation; then the
conversion that failed. -/
theorem conversionKeepsReading : Obligations.ConversionKeepsReading := by
  intro τ t0 raw s hline hconv hdue now c clamp v logs m
  have value : corrected (s.advance τ).thermalCfg (s.advance τ).scan.pos raw = v := corrected_eq ..
  have dealt : ReadingDealt m (s.advance τ) ((s.advance τ).readingDealt raw) := by
    have h := readingDealt_dealt (s.advance τ) raw
    rwa [value] at h
  constructor
  · obtain ⟨valueAt, ageAt, others⟩ := withReading_read (conversionPart_readings (s.advance τ) raw)
    refine ⟨_, exec_conversionComplete hline hconv hdue, (conversionPart_only _ raw).clock, valueAt.trans value, ageAt,
      others, fun held => ?_, fun channel => ?_⟩
    · obtain ⟨sweep, appended⟩ := conversionPart_sweep (s := s.advance τ) raw held
      refine ⟨fun h => ?_, fun h hq => ?_, fun h hq => ?_⟩
      · obtain ⟨goesOn, ownq⟩ := dealt.unlogged h
        exact ⟨goesOn.congr sweep, ownq ▸ appended.1⟩
      · obtain ⟨goesOn, ownq⟩ := dealt.logged h hq
        exact ⟨goesOn.congr sweep, ownq ▸ appended.1⟩
      · obtain ⟨state, heldResult, conv, pos, ownq⟩ := dealt.held h hq
        simp only [Scan.sweep, Prod.mk.injEq] at sweep
        obtain ⟨state', pos', conv', held', -⟩ := sweep
        exact ⟨state'.trans state, held'.trans heldResult, conv'.trans conv, pos'.trans pos,
          (appended.2 (ownq ▸ hq)).trans ownq⟩
    · have unsensed : ¬50 ≤ (s.advance τ).scan.pos.val := Nat.not_le.mpr channel
      rw [conversionPart_channel unsensed]
      refine ⟨readingDealt_thermal (s.advance τ) raw, readingDealt_latch (s.advance τ) raw, fun h => ?_,
        fun h hq => (dealt.logged h hq).2, readingDealt_queueAndMarks (s.advance τ) raw,
        (readingDealt_only (s.advance τ) raw).sameBut_advance⟩
      by_cases hl : logs
      · obtain ⟨-, -, -, -, ownq⟩ := dealt.held hl (h.resolve_left (not_not_intro hl))
        exact ownq
      · exact (dealt.unlogged hl).2
  · have view := Scan.swept_view s.scan s.header now
    exact ⟨_, exec_conversionFailed hline hconv hdue, rfl, Scan.values_of_view view, Scan.ages_of_view view,
      Scan.thermal_of_view view, Scan.latch_of_view view, sweepGoesOn_swept rfl rfl now,
      (Only.setScan (s.advance τ) _).sameBut_advance⟩

end Sys2Proof.Machine
end

section
/-! PROOFS. The thermal state after a conversion, and what an entry to HOT or CRITICAL leaves (R61, R62, R64, R80, R147;
O39). -/

namespace Sys2Proof.Machine
open Sys2Proof

/-! ## What an evaluation says of the part -/

/-- The lowest-numbered of the sensors that show the highest temperature (R62). -/
theorem hottestSensor_first (s : State) : ∃ n : Fin 4, s.hottestSensor = n.val ∧
    s.value (Fin.ofNat 54 (50 + n.val)) = s.highestTemp ∧
    ∀ m : Fin 4, m < n → s.value (Fin.ofNat 54 (50 + m.val)) < s.highestTemp := by
  have top : s.highestTemp = max (max (s.value 50) (s.value 51)) (max (s.value 52) (s.value 53)) := rfl
  have below {c : Fin 54} (le : s.value c ≤ s.highestTemp) (ne : s.value c ≠ s.highestTemp) :
      s.value c < s.highestTemp := lt_of_le_of_ne le ne
  have le0 : s.value 50 ≤ s.highestTemp := by omega
  have le1 : s.value 51 ≤ s.highestTemp := by omega
  have le2 : s.value 52 ≤ s.highestTemp := by omega
  unfold State.hottestSensor
  by_cases h0 : s.value 50 = s.highestTemp
  · exact ⟨0, by rw [if_pos h0]; rfl, h0, fun m hm => absurd hm (Fin.not_lt_zero m)⟩
  by_cases h1 : s.value 51 = s.highestTemp
  · refine ⟨1, by rw [if_neg h0, if_pos h1]; rfl, h1, fun m hm => ?_⟩
    obtain rfl : m = 0 := by omega
    exact below le0 h0
  by_cases h2 : s.value 52 = s.highestTemp
  · refine ⟨2, by rw [if_neg h0, if_neg h1, if_pos h2]; rfl, h2, fun m hm => ?_⟩
    obtain rfl | rfl : m = 0 ∨ m = 1 := by omega
    · exact below le0 h0
    · exact below le1 h1
  · have h3 : s.value 53 = s.highestTemp := by omega
    refine ⟨3, by rw [if_neg h0, if_neg h1, if_neg h2]; rfl, h3, fun m hm => ?_⟩
    obtain rfl | rfl | rfl : m = 0 ∨ m = 1 ∨ m = 2 := by omega
    · exact below le0 h0
    · exact below le1 h1
    · exact below le2 h2

theorem raiseThermal_test (s : State) : s.raiseThermal.test = s.test := rfl

theorem raiseThermal_acct (s : State) : s.raiseThermal.acct = s.acct := rfl

theorem raiseThermal_sched (s : State) : s.raiseThermal.sched = s.sched := rfl

theorem raiseThermal_holdNow (s : State) : s.raiseThermal.holdNow = s.holdNow := rfl

theorem raiseThermal_atRest {s : State} (rest : s.AtRest) : s.raiseThermal.AtRest := rest.congr rfl rfl rfl rfl

theorem raiseThermal_store (s : State) : s.raiseThermal.store = s.store := rfl

theorem readings_value {s t : State} (h : t.scan.readings = s.scan.readings) (c : Fin 54) : t.value c = s.value c :=
  congrArg (fun v => v.1.get c) h

theorem readings_highestTemp {s t : State} (h : t.scan.readings = s.scan.readings) : t.highestTemp = s.highestTemp := by
  unfold State.highestTemp
  simp only [readings_value h]

theorem evalThermal_thermal (s : State) : s.evalThermal.scan.thermal = s.thermalNext := by
  have h := evalThermal_evaluated s
  generalize s.evalThermal = t at h
  cases h with
  | same h => exact h.symm
  | quiet => rw [thermalMoved_scan]
  | hot _ hot => rw [raiseThermal_scan, thermalMoved_scan, hot]
  | critical _ critical =>
    rw [raiseThermal_scan, (applyTarget_inner _).thermal_eq, criticalEntered_scan, critical]

/-- The hold signal of the limit in force (R80), also after an entry to CRITICAL from HOT. -/
theorem evalThermal_hold {s : State} (moved : s.thermalNext ≠ s.scan.thermal)
    (hot : s.thermalNext = .hot ∨ s.scan.thermal = .hot) : s.evalThermal.acct.hold = s.evalThermal.holdNow := by
  have h := evalThermal_evaluated s
  generalize s.evalThermal = t at h
  cases h with
  | same h => exact absurd h moved
  | quiet => exact thermalMoved_hold hot
  | hot => exact thermalMoved_hold (.inl rfl)
  | critical _ critical =>
    have was : s.scan.thermal = .hot := hot.resolve_left (by rw [critical]; decide)
    have before : (s.thermalMoved .critical).acct.hold = (s.thermalMoved .critical).holdNow :=
      thermalMoved_hold (.inr was)
    have entered : s.criticalEntered.acct.hold = s.criticalEntered.holdNow := by
      rw [criticalEntered_acct, before]
      refine (holdNow_congr (criticalEntered_acct s) ?_ ?_).symm
      · rw [criticalEntered_scan, thermalMoved_scan]
      · rw [(criticalEntered_only s).store, (thermalMoved_only s _).store]
    rw [raiseThermal_acct, raiseThermal_holdNow, applyTarget_hold entered]

/-- THERMAL raised last, from the part `v` as the state entered left it (R62). -/
structure ThermalRaised (s v t : State) : Prop where
  raised : t = v.raiseThermal
  quiet : s.test.run = none → s.store.target = none ∨ s.store.load ≠ none ∨ s.thermalNext = .hot →
    v.ev = s.ev ∧ s.path.ownq <+: v.path.ownq
  applied : s.thermalNext = .critical → v = s.criticalEntered.applyTarget

theorem evalThermal_raised {s : State} (moved : s.thermalNext ≠ s.scan.thermal)
    (entered : s.thermalNext = .hot ∨ s.thermalNext = .critical) : ∃ v, ThermalRaised s v s.evalThermal := by
  have h := evalThermal_evaluated s
  generalize s.evalThermal = t at h ⊢
  cases h with
  | same h => exact absurd h moved
  | quiet _ hot critical => exact absurd entered (not_or.mpr ⟨hot, critical⟩)
  | hot _ hot =>
    have only := thermalMoved_only s .hot
    exact ⟨_, rfl, fun _ _ => ⟨only.ev, by rw [only.path]⟩, fun critical => nomatch hot.symm.trans critical⟩
  | critical _ critical =>
    refine ⟨_, rfl, fun idle held => ?_, fun _ => rfl⟩
    have held : s.store.target = none ∨ s.store.load ≠ none :=
      held.imp_right fun h => h.resolve_right (by rw [critical]; decide)
    rw [applyTarget_held (by rwa [(criticalEntered_only s).store])]
    exact ⟨criticalEntered_ev idle, (criticalEntered_appended s).1⟩

/-- What an entry to CRITICAL leaves of the part's work (R64). -/
structure CriticalEntered (s t : State) : Prop where
  latch : t.scan.latch = true
  rest : t.AtRest
  running : t.sched.running = false
  last : ∀ run, s.test.run = some run →
    ∃ last, t.test.last = some last ∧ last.result = .aborted .thermal ∧ last.port = run.port

theorem evalThermal_critical {s : State} (moved : s.thermalNext ≠ s.scan.thermal)
    (critical : s.thermalNext = .critical) : CriticalEntered s s.evalThermal := by
  obtain ⟨v, raised, -, applied⟩ := evalThermal_raised moved (.inr critical)
  rw [raised, applied critical]
  have inner := applyTarget_inner s.criticalEntered
  exact
    { latch := by rw [raiseThermal_scan, inner.latch_eq, criticalEntered_scan]
      rest := raiseThermal_atRest (applyTarget_atRest (criticalEntered_atRest s))
      running := by rw [raiseThermal_sched, applyTarget_running, criticalEntered_sched]; rfl
      last := fun run hrun => by
        rw [raiseThermal_test, inner.last_eq]
        exact criticalEntered_last hrun }

/-- An evaluation that finds the state again changes nothing. -/
theorem evalThermal_same {s : State} (h : s.thermalNext = s.scan.thermal) : s.evalThermal = s := by
  rw [evalThermal_eq, if_pos h]

/-- The plan store is left alone but for a switch that an entry to CRITICAL applies. -/
theorem evalThermal_store {s : State} (h : s.store.target = none ∨ s.store.load ≠ none ∨
    s.thermalNext = s.scan.thermal ∨ s.thermalNext ≠ .critical) : s.evalThermal.store = s.store := by
  have evaluated := evalThermal_evaluated s
  generalize s.evalThermal = t at evaluated
  cases evaluated with
  | same => rfl
  | quiet => exact (thermalMoved_only s _).store
  | hot => exact (thermalMoved_only s _).store
  | critical moved critical =>
    have held : s.store.target = none ∨ s.store.load ≠ none :=
      h.imp_right fun h => h.resolve_right (by rintro (h | h); exacts [moved h, h critical])
    rw [raiseThermal_store, applyTarget_held (by rwa [(criticalEntered_only s).store]), (criticalEntered_only s).store]

/-- The table as the statement writes it (R61). -/
theorem nextThermal_table (cfg : ThermalCfg) (top : Int) (was : Thermal) : nextThermal cfg top was =
    match was with
    | .critical => .critical
    | .normal => if cfg.critical ≤ top then .critical else if cfg.hot ≤ top then .hot
      else if cfg.warm ≤ top then .warm else .normal
    | .warm => if cfg.critical ≤ top then .critical else if cfg.hot ≤ top then .hot
      else if cfg.warm ≤ top then .warm else if top < cfg.warm - cfg.hyst then .normal else .warm
    | .hot => if cfg.critical ≤ top then .critical else if cfg.hot ≤ top then .hot
      else if top < cfg.hot - cfg.hyst then .warm else .hot := by
  cases was <;> rfl

/-- THERMAL of an evaluation told of the part `s` that the conversion found: its subject the lowest-numbered hottest
sensor, its cause the code of the state entered. -/
theorem ThermalRaised.event {s v t : State} (h : ThermalRaised s v t) (thermal : t.scan.thermal = s.thermalNext)
    (entered : s.thermalNext = .hot ∨ s.thermalNext = .critical) :
    t.ev.lastKind = some .thermal ∧ ∃ n : Fin 4, t.value (Fin.ofNat 54 (50 + n.val)) = t.highestTemp ∧
      (∀ m : Fin 4, m < n → t.value (Fin.ofNat 54 (50 + m.val)) < t.highestTemp) ∧
      Raised .thermal n.val t.highestTemp (if s.thermalNext = .hot then 2 else 3) t.store.plan.tag v t := by
  obtain ⟨n, subject, top, first⟩ := hottestSensor_first v
  have code : v.scan.thermal.code = if s.thermalNext = .hot then 2 else 3 := by
    rw [h.raised, raiseThermal_scan] at thermal
    rw [thermal]
    rcases entered with e | e <;> rw [e] <;> rfl
  have raised := raise_raised v .thermal v.hottestSensor v.highestTemp v.scan.thermal.code
  rw [subject, code] at raised
  have same : v.raiseThermal = v.raise .thermal n.val v.highestTemp (if s.thermalNext = .hot then 2 else 3) := by
    unfold State.raiseThermal
    rw [subject, code]
  rw [h.raised]
  refine ⟨rfl, n, top, first, ?_⟩
  rw [same]
  exact raised

/-- Settles O39: the evaluation of the part that has kept its reading, case by case. -/
theorem thermalStateFollowsTable : Obligations.ThermalStateFollowsTable := by
  intro τ t0 raw s hline hconv hdue sensor cfg
  have before := readingDealt_only (s.advance τ) raw
  have was : ((s.advance τ).readingDealt raw).scan.thermal = s.scan.thermal :=
    readingDealt_thermal (s.advance τ) raw
  have latch : ((s.advance τ).readingDealt raw).scan.latch = s.scan.latch :=
    readingDealt_latch (s.advance τ) raw
  have ran := exec_conversionComplete (raw := raw) hline hconv hdue
  rw [conversionPart_sensor (s := s.advance τ) sensor] at ran
  have only := before.next (n := [.ports, .gate, .scan, .acct, .sched, .test, .ev, .store, .path])
    (evalThermal_only ((s.advance τ).readingDealt raw))
  have ownq : s.path.ownq <+: ((s.advance τ).readingDealt raw).path.ownq :=
    readingDealt_prefix (s.advance τ) raw
  have cfgKept : ((s.advance τ).readingDealt raw).thermalCfg = cfg := readingDealt_thermalCfg ..
  generalize (s.advance τ).readingDealt raw = r at *
  refine ⟨_, ran, ?_⟩
  intro top new
  have highest : r.evalThermal.highestTemp = r.highestTemp := readings_highestTemp (evalThermal_readings r)
  have next : new = r.thermalNext := by
    unfold State.thermalNext
    rw [was, cfgKept, ← highest, nextThermal_table]
    rfl
  have thermal : r.evalThermal.scan.thermal = r.thermalNext := evalThermal_thermal r
  clear_value new
  subst next
  rw [← was, ← latch]
  have test : r.test = s.test := before.test
  have store : r.store = s.store := before.store
  rw [← test, ← store]
  refine ⟨thermal, evalThermal_hold, fun moved entered => ?event, fun moved critical => ?entry, fun same => ?same,
    evalThermal_store, only.sameBut_advance⟩
  case event =>
    obtain ⟨v, raised⟩ := evalThermal_raised moved entered
    obtain ⟨kind, n, hottest, first, event⟩ := raised.event thermal entered
    refine ⟨kind, n, v, hottest, first, event, fun idle held => ?_, fun target critical pending ready idle => ?_⟩
    · obtain ⟨ev, behind⟩ := raised.quiet idle held
      exact ⟨ev.trans before.ev, ownq.trans behind⟩
    · have entry : r.criticalEntered.store = r.store := (criticalEntered_only r).store
      refine ⟨r.criticalEntered, entry, (criticalEntered_atRest r).queue, (criticalEntered_atRest r).run, ?_, ?_⟩
      · rw [← entry] at pending ready idle
        rw [raised.applied critical, applyTarget_some pending ready idle]
        exact applySwitch_applied ..
      · rw [raised.raised, raiseThermal_store]
  case entry =>
    obtain ⟨latched, rest, running, last⟩ := evalThermal_critical moved critical
    exact ⟨latched, rest.queue, running, rest.timer, rest.waiting, rest.run, last, rest.work⟩
  case same =>
    rw [evalThermal_same same]
    exact ⟨rfl, before.ev, before.ports, before.gate, before.sched, rfl⟩

end Sys2Proof.Machine
end

section
/-! PROOFS. The freed place of the own-access queue, and an own write that completes (R55, R59, R131, R135, R165, R167;
O58). -/

namespace Sys2Proof.Machine
open Sys2Proof

/-! ## The head of the queue leaves (R55, R131) -/

/-- The own-access queue without its head, the freed place not yet passed on. -/
def State.headLeft (s : State) : State := { s with path := { s.path with ownq := s.path.ownq.drop 1 } }

theorem leaveQueue_eq (s : State) : s.leaveQueue = s.headLeft.fillPlace := rfl

theorem fillPlace_full {s : State} (full : Config.queuePlaces ≤ s.path.ownq.length) : s.fillPlace = s :=
  if_neg (Nat.not_lt.mpr full)

/-- The staging head takes a free place (R131). -/
theorem fillPlace_staged {s : State} {e : Event} {rest : List Event} (place : s.path.ownq.length < Config.queuePlaces)
    (staged : s.ev.staging = e :: rest) : s.fillPlace = { s with
      path := { s.path with ownq := s.path.ownq ++ [{ item := .event e }] }
      ev := { s.ev with staging := rest } } := by
  unfold State.fillPlace
  rw [if_pos place, staged]

/-- The held result takes a free place that the staging list leaves, and the scanner leaves PAUSED (R55). -/
theorem fillPlace_held {s : State} {m : Meas} (place : s.path.ownq.length < Config.queuePlaces)
    (staged : s.ev.staging = []) (held : s.scan.held = some m) : s.fillPlace = { s with
      path := { s.path with ownq := s.path.ownq ++ [{ item := .meas m }] }
      scan := s.scan.afterChannel s.header s.clock } := by
  unfold State.fillPlace
  rw [if_pos place, staged, held]

theorem fillPlace_idle {s : State} (staged : s.ev.staging = []) (held : s.scan.held = none) : s.fillPlace = s := by
  unfold State.fillPlace
  split
  · rw [staged, held]
  · rfl

/-- A place passed on: to the staging head, else to the held result, else to none. -/
inductive Filled (s : State) : State → Prop
  | staged (place : s.path.ownq.length < Config.queuePlaces) (e : Event) (rest : List Event)
      (h : s.ev.staging = e :: rest) : Filled s { s with
        path := { s.path with ownq := s.path.ownq ++ [{ item := .event e }] }
        ev := { s.ev with staging := rest } }
  | held (place : s.path.ownq.length < Config.queuePlaces) (m : Meas) (h : s.ev.staging = [])
      (hm : s.scan.held = some m) : Filled s { s with
        path := { s.path with ownq := s.path.ownq ++ [{ item := .meas m }] }
        scan := s.scan.afterChannel s.header s.clock }
  | same (h : Config.queuePlaces ≤ s.path.ownq.length ∨ s.ev.staging = [] ∧ s.scan.held = none) : Filled s s

theorem fillPlace_filled (s : State) : Filled s s.fillPlace := by
  by_cases place : s.path.ownq.length < Config.queuePlaces
  · cases staged : s.ev.staging with
    | cons e rest => rw [fillPlace_staged place staged]; exact .staged place e rest staged
    | nil =>
      cases held : s.scan.held with
      | some m => rw [fillPlace_held place staged held]; exact .held place m staged held
      | none => rw [fillPlace_idle staged held]; exact .same (.inr ⟨staged, held⟩)
  · have full := Nat.not_lt.mp place
    rw [fillPlace_full full]
    exact .same (.inl full)

/-- What passing a place on leaves of the part: of the path unit all but the queue, of the events all but the staging
list, of the scanner its readings, its latch and its record index. -/
structure PlaceOnly (s t : State) : Prop where
  only : Only [.scan, .ev, .path] s t
  path : t.path = { s.path with ownq := t.path.ownq }
  ev : t.ev = { s.ev with staging := t.ev.staging }
  scan : t.scan.view = s.scan.view
  mem : t.mem = s.mem

theorem PlaceOnly.trans {s t u : State} (h : PlaceOnly s t) (k : PlaceOnly t u) : PlaceOnly s u where
  only := h.only.trans k.only
  path := by rw [k.path, h.path]
  ev := by rw [k.ev, h.ev]
  scan := k.scan.trans h.scan
  mem := k.mem.trans h.mem

theorem fillPlace_placeOnly (s : State) : PlaceOnly s s.fillPlace := by
  have h := fillPlace_filled s
  generalize s.fillPlace = t at h
  cases h with
  | staged _ e rest =>
    exact ⟨(Only.setPath s { s.path with ownq := s.path.ownq ++ [{ item := .event e }] }).next
      (.setEv { s with path := _ } _), rfl, rfl, rfl, rfl⟩
  | held _ m =>
    exact ⟨(Only.setPath s { s.path with ownq := s.path.ownq ++ [{ item := .meas m }] }).next
      (.setScan { s with path := _ } _), rfl, rfl, Scan.afterChannel_view .., rfl⟩
  | same => exact ⟨.refl s, rfl, rfl, rfl, rfl⟩

theorem leaveQueue_placeOnly (s : State) : PlaceOnly s s.leaveQueue :=
  have left : PlaceOnly s s.headLeft := ⟨(Only.setPath s _).mono, rfl, rfl, rfl, rfl⟩
  left.trans (fillPlace_placeOnly s.headLeft)

/-- The head has left a queue, and its place has been passed on. -/
structure PlacePassed (s t : State) : Prop where
  held : ∀ m, s.ev.staging = [] → s.scan.held = some m → s.scan.startUp = false →
    s.path.ownq.length ≤ 16 → s.path.ownq ≠ [] →
    t.path.ownq = s.path.ownq.drop 1 ++ [{ item := .meas m }] ∧ t.ev.staging = [] ∧ s.SweepGoesOn s.clock t.scan
  idle : s.ev.staging = [] → s.scan.held = none → t.path.ownq = s.path.ownq.drop 1 ∧ t.ev.staging = []
  staged : ∀ e rest, s.ev.staging = e :: rest → s.path.ownq.length ≤ 16 → s.path.ownq ≠ [] →
    t.path.ownq = s.path.ownq.drop 1 ++ [{ item := .event e }] ∧ t.ev.staging = rest ∧ t.scan.held = s.scan.held

theorem headLeft_place {s : State} (hq : s.path.ownq.length ≤ 16) (hne : s.path.ownq ≠ []) :
    s.headLeft.path.ownq.length < Config.queuePlaces := by
  have pos := List.length_pos_iff.mpr hne
  show (s.path.ownq.drop 1).length < 16
  rw [List.length_drop]
  omega

theorem leaveQueue_passed (s : State) : PlacePassed s s.leaveQueue where
  held m staged held started hq hne := by
    rw [leaveQueue_eq, fillPlace_held (headLeft_place hq hne) staged held]
    have goesOn := sweepGoesOn_swept (s := s) (x := s.scan) rfl rfl s.clock
    unfold Scan.swept at goesOn
    rw [started, if_neg Bool.false_ne_true] at goesOn
    exact ⟨rfl, staged, goesOn⟩
  idle staged held := by
    rw [leaveQueue_eq, fillPlace_idle (s := s.headLeft) staged held]
    exact ⟨rfl, staged⟩
  staged e rest staged hq hne := by
    rw [leaveQueue_eq, fillPlace_staged (headLeft_place hq hne) (s := s.headLeft) staged]
    exact ⟨rfl, rfl, rfl⟩

/-! ## The access leaves the link (R165, R167) -/

theorem setMem_only (s : State) (m : Mem) : Only [.mem] s { s with mem := m } :=
  ⟨rfl, rfl, fun b hb => by cases b <;> simp_all [Part.Same]⟩

theorem endOwn_only (s : State) (o : Own) : Only [.path, .mem] s (s.endOwn o) :=
  (setMem_only s (s.mem.writeBytes o.addr o.data)).next
    (.setPath { s with mem := s.mem.writeBytes o.addr o.data } (s.endOwn o).path)

/-- The turn goes to the marks once an entry has been written (R164). -/
def State.marksNext (s : State) : State := { s with path := { s.path with turn := .marks } }

theorem marksNext_only (s : State) : Only [.path] s s.marksNext := .setPath s _

theorem markInst_only (s : State) : Only [.path] s s.markInst := .setPath s _

theorem reAlert_only (s : State) : Only [.ev] s s.reAlert := .setEv s _

theorem advanceRing_only (s : State) : Only [.ev] s s.advanceRing := .setEv s _

theorem ownDone_some {s : State} {o : Own} {isKind : OwnKind → Bool} (h : s.path.own = some o) (hl : s.path.link = .own)
    (hk : isKind o.kind = true) : s.ownDone isKind = some o := by
  unfold State.ownDone
  rw [h, hl]
  simp [hk]

/-! ## The four writes -/

/-- The index of the measurement records moves to the next place (R59). -/
def State.measMoved (s : State) : State :=
  { s with scan := { s.scan with measIdx := (s.scan.measIdx + 1) % s.measN } }

theorem measMoved_only (s : State) : Only [.scan] s s.measMoved := .setScan s _

/-- The part once a measurement record stands in its region, the entry still in the queue (R59). -/
def State.measCounted (s : State) (o : Own) : State := (s.endOwn o).measMoved.markInst.marksNext

theorem measWritten_eq {s : State} {o : Own} (hv : o.void = false) (hn : 0 < s.measN) :
    s.measWritten o = (s.measCounted o).leaveQueue := by
  have ended : 0 < (s.endOwn o).measN := hn
  unfold State.measWritten
  dsimp only
  rw [hv, if_neg Bool.false_ne_true, if_pos ended]
  rfl

/-- The part once an event record stands in the ring, the entry still in the queue (R135, R138). -/
def State.eventCounted (s : State) (o : Own) : State := (s.endOwn o).advanceRing.markInst.reAlert.marksNext

theorem eventWritten_eq {s : State} {o : Own} (hv : o.void = false) (hn : 0 < s.ringN) :
    s.eventWritten o = (s.eventCounted o).leaveQueue := by
  have ended : 0 < (s.endOwn o).ringN := hn
  unfold State.eventWritten
  dsimp only
  rw [hv, if_neg Bool.false_ne_true, if_pos ended]
  rfl

theorem measCounted_only (s : State) (o : Own) : Only [.scan, .path, .mem] s (s.measCounted o) :=
  (((endOwn_only s o).next (n := [.scan, .path, .mem]) (measMoved_only _)).next (n := [.scan, .path, .mem])
    (markInst_only _)).next (marksNext_only _)

theorem eventCounted_only (s : State) (o : Own) : Only [.ev, .path, .mem] s (s.eventCounted o) :=
  ((((endOwn_only s o).next (n := [.ev, .path, .mem]) (advanceRing_only _)).next (n := [.ev, .path, .mem])
    (markInst_only _)).next (n := [.ev, .path, .mem]) (reAlert_only _)).next (marksNext_only _)

theorem markInst_path (s : State) : s.markInst.path = { s.path with
    dirtyInst := s.configured || s.path.dirtyInst
    own := if s.configured then Own.overtaken .inst s.path.own else s.path.own } := rfl

/-- The path unit once a record is counted: the access gone, the installation mark set, the marks' turn next. -/
theorem recordCounted_path {s t : State} {o : Own} (h : t.path = (s.endOwn o).path) :
    t.markInst.marksNext.path = { (s.endOwn o).path with
      dirtyInst := s.configured || s.path.dirtyInst, turn := .marks } := by
  have conf : t.configured = s.configured := by unfold State.configured; rw [h]; rfl
  show { t.markInst.path with turn := .marks } = _
  rw [markInst_path, h, conf]
  cases s.configured <;> rfl

theorem measCounted_path (s : State) (o : Own) : (s.measCounted o).path = { (s.endOwn o).path with
    dirtyInst := s.configured || s.path.dirtyInst, turn := .marks } :=
  recordCounted_path (t := (s.endOwn o).measMoved) rfl

theorem eventCounted_path (s : State) (o : Own) : (s.eventCounted o).path = { (s.endOwn o).path with
    dirtyInst := s.configured || s.path.dirtyInst, turn := .marks } :=
  recordCounted_path (t := (s.endOwn o).advanceRing) rfl

theorem eventCounted_ev (s : State) (o : Own) : (s.eventCounted o).ev = { s.ev with
    w := (s.ev.w + 1) % s.ringM
    r := if s.unread = s.ringN then (s.ev.r + 1) % s.ringM else s.ev.r
    newest := if s.headAttention then some s.ev.w else s.ev.newest
    alert := (s.eventCounted o).alertLevel } := by
  have ring : (s.endOwn o).advanceRing.ev = { s.ev with
      w := (s.ev.w + 1) % s.ringM
      r := if s.unread = s.ringN then (s.ev.r + 1) % s.ringM else s.ev.r
      newest := if s.headAttention then some s.ev.w else s.ev.newest } := by
    show { s.ev with
      w := (s.ev.w + 1) % s.ringM
      r := if decide (s.unread = s.ringN) then (s.ev.r + 1) % s.ringM else s.ev.r
      newest := if s.headAttention then some s.ev.w else s.ev.newest } = _
    simp only [decide_eq_true_eq]
  calc (s.eventCounted o).ev
    _ = { (s.endOwn o).advanceRing.ev with alert := (s.eventCounted o).alertLevel } := rfl
    _ = _ := by rw [ring]

/-- A completed own write places its bytes and no other, and leaves the link (R165, R167). -/
structure Written (o : Own) (s t : State) : Prop where
  clock : t.clock = s.clock
  mem : t.mem = s.mem.writeBytes o.addr o.data
  own : t.path.own = none
  link : t.path.link = if s.path.txn.any (·.stuck) then .stuck else .idle

theorem Written.outside {o : Own} {s t : State} (h : Written o s t) (hm : s.MemOk) {a : Nat}
    (ha : a < o.addr ∨ o.addr + o.data.length ≤ a) : t.mem.read a = s.mem.read a := by
  rw [h.mem]
  exact Mem.read_writeBytes_outside hm o.addr o.data ha

theorem Written.leaveQueue {o : Own} {s t : State} (h : Written o s t) : Written o s t.leaveQueue := by
  have place := leaveQueue_placeOnly t
  refine ⟨place.only.clock.trans h.clock, place.mem.trans h.mem, ?_, ?_⟩
  · rw [place.path]; exact h.own
  · rw [place.path]; exact h.link

theorem measCounted_written (s : State) (o : Own) : Written o s (s.measCounted o) := by
  refine ⟨(measCounted_only s o).clock, rfl, ?_, ?_⟩ <;> rw [measCounted_path] <;> rfl

theorem eventCounted_written (s : State) (o : Own) : Written o s (s.eventCounted o) := by
  refine ⟨(eventCounted_only s o).clock, rfl, ?_, ?_⟩ <;> rw [eventCounted_path] <;> rfl

theorem imageWritten_eq {s : State} {o : Own} (hv : o.void = false) (p : Fin 48) : s.imageWritten o p =
    { s.endOwn o with path := { (s.endOwn o).path with
      dirty := s.path.dirty.set p (s.path.dirty.get p && o.redirty), turn := .queue, lastMark := .port p } } := by
  unfold State.imageWritten
  dsimp only
  rw [hv, if_neg Bool.false_ne_true]
  rfl

theorem instWritten_eq {s : State} {o : Own} (hv : o.void = false) : s.instWritten o =
    { s.endOwn o with path := { (s.endOwn o).path with
      inst := s.path.inst.map fun m => m.writeBytes 3 o.data
      dirtyInst := s.path.dirtyInst && o.redirty, turn := .queue, lastMark := .inst } } := by
  unfold State.instWritten
  dsimp only
  rw [hv, if_neg Bool.false_ne_true]
  rfl

/-- The attention flag of the head is that of the event it holds (R135). -/
theorem headAttention_event {s : State} {e : Event} {begun : Bool} {rest : List OwnEntry}
    (h : s.path.ownq = { item := .event e, begun := begun } :: rest) : s.headAttention = e.kind.attention := by
  unfold State.headAttention
  rw [h]
  rfl

/-- ALERT# stays the level that its rule gives when a place is passed on (R138). -/
theorem PlaceOnly.alert {s t : State} (h : PlaceOnly s t) (alert : s.ev.alert = s.alertLevel) :
    t.ev.alert = t.alertLevel := by
  have level : t.alertLevel = s.alertLevel :=
    alertLevel_congr (by rw [h.only.store]) (by rw [h.path]) (by rw [h.ev]) (by rw [h.ev]) (by rw [h.ev]) (by rw [h.ev])
  rw [level, ← alert, h.ev]

section
variable {τ : Nat} {s : State} {o : Own} (hline : s.line = .released) (hown : s.path.own = some o)
  (hlink : s.path.link = .own)
include hline hown hlink

theorem exec_measRecordWriteComplete (hk : o.kind = .meas) :
    exec (.measRecordWriteComplete τ) s = .next ((s.advance τ).measWritten o) := by
  simp only [exec, execMeasRecordWriteComplete, timed_released hline]
  rw [ownDone_some (s := s.advance τ) hown hlink (decide_eq_true hk)]

theorem exec_eventRecordWriteComplete (hk : o.kind = .event) :
    exec (.eventRecordWriteComplete τ) s = .next ((s.advance τ).eventWritten o) := by
  simp only [exec, execEventRecordWriteComplete, timed_released hline]
  rw [ownDone_some (s := s.advance τ) hown hlink (decide_eq_true hk)]

theorem exec_portImageWriteComplete {p : Fin 48} (hk : o.kind = .image p) :
    exec (.portImageWriteComplete τ) s = .next ((s.advance τ).imageWritten o p) := by
  have own : (s.advance τ).path.own = some o := hown
  have link : (s.advance τ).path.link = .own := hlink
  simp only [exec, execPortImageWriteComplete, timed_released hline, own, hk, link, if_true]

theorem exec_installationWriteComplete (hk : o.kind = .inst) :
    exec (.installationWriteComplete τ) s = .next ((s.advance τ).instWritten o) := by
  simp only [exec, execInstallationWriteComplete, timed_released hline]
  rw [ownDone_some (s := s.advance τ) hown hlink (decide_eq_true hk)]

end

/-- Settles O58: each of the four writes on the part at its moment. -/
theorem ownWriteCompletes : Obligations.OwnWriteCompletes := by
  intro τ o s hline hmem hown hlink hvoid now link written moved
  have writes {t : State} (h : Written o (s.advance τ) t) : written t :=
    ⟨h.clock, h.mem, fun _ ha => h.outside hmem ha, h.own, h.link⟩
  refine ⟨fun hk hn => ?meas, fun hk hn => ?event, fun p hk => ?image, fun hk => ?inst⟩
  case meas =>
    have ran := exec_measRecordWriteComplete (τ := τ) hline hown hlink hk
    rw [measWritten_eq (s := s.advance τ) hvoid hn] at ran
    have place := leaveQueue_placeOnly ((s.advance τ).measCounted o)
    have passed := leaveQueue_passed ((s.advance τ).measCounted o)
    have only := (measCounted_only (s.advance τ) o).next (n := [.scan, .ev, .path, .mem]) place.only
    have path := place.path.trans (by rw [measCounted_path])
    refine ⟨_, ran, writes (measCounted_written (s.advance τ) o).leaveQueue, ⟨passed.held, passed.idle, passed.staged⟩,
      Scan.measIdx_of_view place.scan, congrArg Path.dirtyInst path, congrArg Path.turn path,
      (congrArg Path.dirty path :), only.sameBut_advance⟩
  case event =>
    have ran := exec_eventRecordWriteComplete (τ := τ) hline hown hlink hk
    rw [eventWritten_eq (s := s.advance τ) hvoid hn] at ran
    have place := leaveQueue_placeOnly ((s.advance τ).eventCounted o)
    have passed := leaveQueue_passed ((s.advance τ).eventCounted o)
    have only := (eventCounted_only (s.advance τ) o).next (n := [.scan, .ev, .path, .mem]) place.only
    have path := place.path.trans (by rw [eventCounted_path])
    have ev := eventCounted_ev (s.advance τ) o
    have after := place.ev.trans (by rw [ev])
    have alert : ((s.advance τ).eventCounted o).ev.alert = ((s.advance τ).eventCounted o).alertLevel := by rw [ev]
    refine ⟨_, ran, writes (eventCounted_written (s.advance τ) o).leaveQueue, ⟨passed.held, passed.idle, passed.staged⟩,
      congrArg EventUnit.w after, congrArg EventUnit.r after, fun e begun rest head => ?_, place.alert alert,
      (congrArg EventUnit.lastKind after :), congrArg Path.dirtyInst path, congrArg Path.turn path,
      (congrArg Path.dirty path :), only.sameBut_advance⟩
    rw [← headAttention_event head]
    exact congrArg EventUnit.newest after
  case image =>
    have ran := exec_portImageWriteComplete (τ := τ) hline hown hlink hk
    rw [imageWritten_eq (s := s.advance τ) hvoid p] at ran
    exact ⟨_, ran, writes ⟨rfl, rfl, rfl, rfl⟩, rfl,
      ((endOwn_only (s.advance τ) o).next (n := [.path, .mem]) (.setPath _ _)).sameBut_advance⟩
  case inst =>
    have ran := exec_installationWriteComplete (τ := τ) hline hown hlink hk
    rw [instWritten_eq (s := s.advance τ) hvoid] at ran
    exact ⟨_, ran, writes ⟨rfl, rfl, rfl, rfl⟩, rfl,
      ((endOwn_only (s.advance τ) o).next (n := [.path, .mem]) (.setPath _ _)).sameBut_advance⟩

end Sys2Proof.Machine
end

section
/-! PROOFS. Which own access starts: the marks in their cyclic order, and what is dropped before the choice (R135, R164
to R166; O57). -/

namespace Sys2Proof.Machine
open Sys2Proof

/-! ## The marks in their cyclic order (R164) -/

/-- Steps from the mark after the last one served to a mark. -/
def State.markSteps (s : State) (m : MarkId) : Nat := (m.place + 48 - s.path.lastMark.place) % 49

theorem MarkId.place_le (m : MarkId) : m.place ≤ 48 := by
  cases m with
  | inst => exact Nat.zero_le _
  | port p => exact p.isLt

theorem markAt_place (m : MarkId) {n : Nat} (h : n % 49 = m.place) : markAt n = m := by
  unfold markAt
  cases m with
  | inst => exact if_pos h
  | port p =>
    have hp : n % 49 = p.val + 1 := h
    have back : Fin.ofNat 48 (p.val + 1 - 1) = p := by
      rw [Nat.add_sub_cancel]
      exact Fin.ext (Nat.mod_eq_of_lt p.isLt)
    rw [if_neg (by omega), hp, back]

theorem place_markAt (n : Nat) : (markAt n).place = n % 49 := by
  unfold markAt
  split
  · next h => exact h.symm
  · show (n % 49 - 1) % 48 + 1 = n % 49
    omega

/-- The mark at a number of steps after the last one served. -/
def State.markAfter (s : State) (i : Nat) : MarkId := markAt (s.path.lastMark.place + 1 + i)

theorem markAfter_steps (s : State) (m : MarkId) : s.markAfter (s.markSteps m) = m := by
  have last := s.path.lastMark.place_le
  have le := m.place_le
  refine markAt_place m ?_
  unfold State.markSteps
  omega

theorem markSteps_after (s : State) {i : Nat} (h : i < 49) : s.markSteps (s.markAfter i) = i := by
  have last := s.path.lastMark.place_le
  unfold State.markSteps State.markAfter
  rw [place_markAt]
  omega

theorem markSteps_lt (s : State) (m : MarkId) : s.markSteps m < 49 := Nat.mod_lt _ (by decide)

theorem nextMark_eq (s : State) :
    s.nextMark = ((List.range 49).find? (s.marked ∘ s.markAfter)).map s.markAfter := by
  unfold State.nextMark
  rw [List.find?_map]
  rfl

theorem nextMark_none (s : State) : s.nextMark = none ↔ ∀ m, ¬s.marked m = true := by
  rw [nextMark_eq, Option.map_eq_none_iff, List.find?_range_eq_none]
  constructor
  · intro h m hm
    have unset := h (s.markSteps m) (markSteps_lt s m)
    rw [Function.comp_apply, markAfter_steps, hm] at unset
    exact absurd unset (by decide)
  · intro h i _
    rw [Function.comp_apply, Bool.eq_false_iff.mpr (h _)]
    rfl

/-- The next mark is the set one that the fewest steps reach. -/
theorem nextMark_some (s : State) (m : MarkId) :
    s.nextMark = some m ↔ s.marked m = true ∧ ∀ k, s.marked k = true → s.markSteps m ≤ s.markSteps k := by
  rw [nextMark_eq, Option.map_eq_some_iff]
  constructor
  · rintro ⟨i, found, rfl⟩
    obtain ⟨set, hi, before⟩ := List.find?_range_eq_some.mp found
    refine ⟨set, fun k hk => ?_⟩
    rw [markSteps_after s (List.mem_range.mp hi)]
    refine Nat.le_of_not_lt fun lt => ?_
    have unset := before _ lt
    rw [Function.comp_apply, markAfter_steps, hk] at unset
    exact absurd unset (by decide)
  · rintro ⟨set, first⟩
    refine ⟨s.markSteps m, List.find?_range_eq_some.mpr ⟨?_, List.mem_range.mpr (markSteps_lt s m), fun j hj => ?_⟩,
      markAfter_steps s m⟩
    · rw [Function.comp_apply, markAfter_steps]
      exact set
    · rw [Function.comp_apply, Bool.not_eq_true', Bool.eq_false_iff]
      intro hset
      have le := first _ hset
      rw [markSteps_after s (hj.trans (markSteps_lt s m))] at le
      omega

/-! ## Entries dropped without their ring (R165) -/

theorem dropEntries_placed {s : State} (n : Nat) (h : ∀ x, s.path.ownq.head? = some x → s.entryPlaced x = true) :
    State.dropEntries n s = s := by
  cases n with
  | zero => rfl
  | succ n =>
    unfold State.dropEntries
    split
    · rfl
    · next x rest hq =>
      rw [if_pos (h x (by rw [hq]; rfl))]

theorem head_placed {s : State} {x : OwnEntry} {rest : List OwnEntry} (hq : s.path.ownq = x :: rest)
    (h : s.entryPlaced x = true) : ∀ y, s.path.ownq.head? = some y → s.entryPlaced y = true := by
  rw [hq]
  rintro y ⟨⟩
  exact h

theorem dropEntries_dead {s : State} (n : Nat) {x : OwnEntry} {rest : List OwnEntry} (hq : s.path.ownq = x :: rest)
    (h : s.entryPlaced x = false) : State.dropEntries (n + 1) s = State.dropEntries n s.leaveQueue := by
  rw [State.dropEntries, hq]
  simp only [h, Bool.false_eq_true, if_false]

theorem dropEntries_placeOnly (n : Nat) : ∀ s, PlaceOnly s (State.dropEntries n s) := by
  have refl (s : State) : PlaceOnly s s := ⟨.refl s, rfl, rfl, rfl, rfl⟩
  induction n with
  | zero => exact refl
  | succ n ih =>
    intro s
    unfold State.dropEntries
    split
    · exact refl s
    · split
      · exact refl s
      · exact (leaveQueue_placeOnly s).trans (ih _)

/-- The entries that wait for the own-access queue, in it, behind it and held. -/
def State.waitingEntries (s : State) : Nat :=
  s.path.ownq.length + s.ev.staging.length + if s.scan.held = none then 0 else 1

theorem Scan.afterChannel_held (x : Scan) (h : Header) (now : Nat) : (x.afterChannel h now).held = none := by
  unfold Scan.afterChannel
  split
  · split <;> rfl
  · split <;> rfl
  · rfl
  · rfl

/-- A place passed on makes no entry. -/
theorem fillPlace_waiting (s : State) : s.fillPlace.waitingEntries = s.waitingEntries := by
  have h := fillPlace_filled s
  generalize s.fillPlace = t at h
  unfold State.waitingEntries
  cases h with
  | staged _ e rest staged =>
    simp only [staged, List.length_append, List.length_cons, List.length_nil]
    omega
  | held _ m staged held =>
    simp only [Scan.afterChannel_held, held, staged, List.length_append, List.length_cons, List.length_nil, if_true,
      reduceCtorEq, if_false]
  | same => rfl

theorem leaveQueue_waiting {s : State} {x : OwnEntry} {rest : List OwnEntry} (hq : s.path.ownq = x :: rest) :
    s.leaveQueue.waitingEntries + 1 = s.waitingEntries := by
  rw [leaveQueue_eq, fillPlace_waiting]
  unfold State.waitingEntries State.headLeft
  simp only [hq, List.drop_succ_cons, List.drop_zero, List.length_cons]
  omega

/-- With fuel for all the entries that wait, one more unit changes nothing. -/
theorem dropEntries_fuel (n : Nat) : ∀ s : State, s.waitingEntries ≤ n →
    State.dropEntries (n + 1) s = State.dropEntries n s := by
  induction n with
  | zero =>
    intro s h
    unfold State.waitingEntries at h
    have empty : s.path.ownq = [] := List.eq_nil_of_length_eq_zero (by omega)
    exact dropEntries_placed 1 (by rw [empty]; nofun)
  | succ n ih =>
    intro s h
    cases hq : s.path.ownq with
    | nil =>
      rw [dropEntries_placed _ (by rw [hq]; nofun), dropEntries_placed _ (by rw [hq]; nofun)]
    | cons x rest =>
      cases placed : s.entryPlaced x with
      | true =>
        have head := head_placed hq placed
        rw [dropEntries_placed _ head, dropEntries_placed _ head]
      | false =>
        have fewer := leaveQueue_waiting hq
        rw [dropEntries_dead _ hq placed, dropEntries_dead _ hq placed]
        exact ih _ (by omega)

/-! ## What is dropped before the choice (R165, log 29) -/

/-- The part with other port marks and another access owed a restart. -/
def State.withOwed (s : State) (dirty : Tab Bool 48) (preempted : Option OwnKind) : State :=
  { s with path := { s.path with dirty := dirty, preempted := preempted } }

section
variable (s : State) (dirty : Tab Bool 48) (preempted : Option OwnKind)

theorem fillPlace_withOwed : (s.withOwed dirty preempted).fillPlace = s.fillPlace.withOwed dirty preempted := by
  by_cases place : s.path.ownq.length < Config.queuePlaces
  · cases staged : s.ev.staging with
    | cons e rest =>
      rw [fillPlace_staged place staged, fillPlace_staged (s := s.withOwed dirty preempted) place staged]
      rfl
    | nil =>
      cases held : s.scan.held with
      | some m =>
        rw [fillPlace_held place staged held, fillPlace_held (s := s.withOwed dirty preempted) place staged held]
        rfl
      | none => rw [fillPlace_idle staged held, fillPlace_idle (s := s.withOwed dirty preempted) staged held]
  · have full := Nat.not_lt.mp place
    rw [fillPlace_full full, fillPlace_full (s := s.withOwed dirty preempted) full]

theorem leaveQueue_withOwed : (s.withOwed dirty preempted).leaveQueue = s.leaveQueue.withOwed dirty preempted :=
  fillPlace_withOwed s.headLeft dirty preempted

theorem dropEntries_withOwed (n : Nat) : ∀ s : State,
    State.dropEntries n (s.withOwed dirty preempted) = (State.dropEntries n s).withOwed dirty preempted := by
  induction n with
  | zero => exact fun _ => rfl
  | succ n ih =>
    intro s
    have same : (s.withOwed dirty preempted).path.ownq = s.path.ownq := rfl
    cases hq : s.path.ownq with
    | nil =>
      rw [dropEntries_placed _ (by rw [same, hq]; nofun), dropEntries_placed _ (by rw [hq]; nofun)]
    | cons x rest =>
      cases placed : s.entryPlaced x with
      | true =>
        have head := head_placed hq placed
        rw [dropEntries_placed _ head, dropEntries_placed (s := s.withOwed dirty preempted) _ head]
      | false =>
        rw [dropEntries_dead _ hq placed, dropEntries_dead (s := s.withOwed dirty preempted) _ hq placed,
          leaveQueue_withOwed, ih]

end

theorem stillOwed_congr {s t : State} (hs : t.store = s.store) (hi : t.path.inst = s.path.inst) :
    t.stillOwed = s.stillOwed := by
  funext k
  unfold State.stillOwed State.measN State.ringN State.imageRegion State.configured State.region
  rw [hs, hi, regions_congr hi]

theorem imageRegion_congr {s t : State} (hi : t.path.inst = s.path.inst) : t.imageRegion = s.imageRegion := by
  unfold State.imageRegion State.region
  rw [regions_congr hi]

/-- What is dropped: entries, port marks without their region, a preempted access no longer owed. -/
theorem dropDead_eq {s : State} (hr : s.store.ready = true) : s.dropDead = (State.dropEntries 32 s).withOwed
    (if s.imageRegion.isSome then s.path.dirty else Tab.fill 48 false) (s.path.preempted.filter s.stillOwed) := by
  have kept := dropEntries_placeOnly 32 s
  have inst : (State.dropEntries 32 s).path.inst = s.path.inst := by rw [kept.path]
  have dirty : (State.dropEntries 32 s).path.dirty = s.path.dirty := by rw [kept.path]
  have preempted : (State.dropEntries 32 s).path.preempted = s.path.preempted := by rw [kept.path]
  unfold State.dropDead
  rw [if_pos hr]
  dsimp only
  rw [imageRegion_congr inst, stillOwed_congr kept.only.store inst, dirty, preempted]
  rfl

theorem dropDead_loading {s : State} (hr : s.store.ready = false) : s.dropDead = s :=
  if_neg (by rw [hr]; exact Bool.false_ne_true)

end Sys2Proof.Machine
end

section
/-! PROOFS. The own access that starts, with what is dropped before it (R164 to R166; O57). -/

namespace Sys2Proof.Machine
open Sys2Proof

/-! ## Nothing dead is owed -/

/-- Nothing that waits has lost its region: not the head of the queue, not a port mark, not a preempted access. -/
structure State.Whole (s : State) : Prop where
  head : ∀ x, s.path.ownq.head? = some x → s.entryPlaced x = true
  dirty : s.imageRegion = none → ∀ p, s.path.dirty.get p = false
  preempted : ∀ k, s.path.preempted = some k → s.stillOwed k = true

theorem tab_eq_fill {α : Type} {n : Nat} {t : Tab α n} {x : α} (h : ∀ i, t.get i = x) : t = Tab.fill n x := by
  refine Subtype.ext (List.eq_replicate_iff.mpr ⟨t.property, fun y hy => ?_⟩)
  obtain ⟨i, hi, rfl⟩ := List.getElem_of_mem hy
  exact h ⟨i, t.property ▸ hi⟩

theorem dropDead_whole {s : State} (h : s.store.ready = false ∨ s.Whole) : s.dropDead = s := by
  cases hr : s.store.ready with
  | false => exact dropDead_loading hr
  | true =>
    obtain ⟨head, dirty, preempted⟩ := h.resolve_left (by rw [hr]; decide)
    have marks : (if s.imageRegion.isSome then s.path.dirty else Tab.fill 48 false) = s.path.dirty := by
      split
      · rfl
      · next none => exact (tab_eq_fill (dirty (Option.not_isSome_iff_eq_none.mp none))).symm
    have access : s.path.preempted.filter s.stillOwed = s.path.preempted := by
      cases hp : s.path.preempted with
      | none => rfl
      | some k => rw [Option.filter_some, if_pos (preempted k hp)]
    rw [dropDead_eq hr, dropEntries_placed 32 head, marks, access]
    rfl

section
variable {s : State} (hr : s.store.ready = true)
include hr

/-- A preempted access that has lost its region is dropped (R166). -/
theorem dropDead_preempted {k : OwnKind} (hp : s.path.preempted = some k) (h : s.stillOwed k = false) :
    (s.withOwed s.path.dirty none).dropDead = s.dropDead := by
  have gone : s.path.preempted.filter s.stillOwed = none := by
    rw [hp, Option.filter_some, h, if_neg Bool.false_ne_true]
  rw [dropDead_eq hr, gone, dropDead_eq (s := s.withOwed s.path.dirty none) hr, dropEntries_withOwed]
  rfl

/-- Port marks without a PORT_IMAGE region are dropped. -/
theorem dropDead_marks (h : s.imageRegion = none) :
    (s.withOwed (Tab.fill 48 false) s.path.preempted).dropDead = s.dropDead := by
  have none : (s.withOwed (Tab.fill 48 false) s.path.preempted).imageRegion = none := h
  rw [dropDead_eq hr, h, dropDead_eq (s := s.withOwed (Tab.fill 48 false) s.path.preempted) hr, none,
    dropEntries_withOwed]
  rfl

/-- A head entry without its ring is dropped, its place passed on. -/
theorem dropDead_head {x : OwnEntry} {rest : List OwnEntry} (hq : s.path.ownq = x :: rest)
    (h : s.entryPlaced x = false) (few : s.waitingEntries ≤ 32) : s.leaveQueue.dropDead = s.dropDead := by
  have place := leaveQueue_placeOnly s
  have fewer := leaveQueue_waiting hq
  have inst : s.leaveQueue.path.inst = s.path.inst := by rw [place.path]
  have dirty : s.leaveQueue.path.dirty = s.path.dirty := by rw [place.path]
  have preempted : s.leaveQueue.path.preempted = s.path.preempted := by rw [place.path]
  have ready : s.leaveQueue.store.ready = true := by rw [place.only.store]; exact hr
  rw [dropDead_eq ready, dropDead_eq hr, imageRegion_congr inst, stillOwed_congr place.only.store inst, dirty,
    preempted, dropEntries_dead 31 hq h, dropEntries_fuel 31 _ (by omega)]

end

/-! ## The access chosen (R164) -/

section
variable {s : State}

theorem chooseOwn_preempted {k : OwnKind} (h : s.path.preempted = some k) : s.chooseOwn = some k := by
  unfold State.chooseOwn
  rw [h]

theorem chooseOwn_load (h : s.path.preempted = none) (hl : s.store.load.isSome = true) : s.chooseOwn = some .load := by
  unfold State.chooseOwn
  rw [h]
  simp only [hl, if_true]

theorem chooseOwn_shut (h : s.path.preempted = none) (hl : s.store.load = none)
    (shut : s.store.ready = false ∨ s.configured = false ∨ s.path.ownq = [] ∧ s.nextMark = none) :
    s.chooseOwn = none := by
  unfold State.chooseOwn
  rw [h, hl]
  rcases shut with shut | shut | ⟨queue, mark⟩
  · simp [shut]
  · simp [shut]
  · simp [queue, mark]

variable (h : s.path.preempted = none) (hl : s.store.load = none) (hr : s.store.ready = true)
  (hc : s.configured = true)
include h hl hr hc

/-- With no preempted access and no load, the head of the queue and the next mark take turns. -/
theorem chooseOwn_turn : s.chooseOwn = match s.path.ownq.head?, s.nextMark with
    | none, none => none
    | some x, none => some x.kind
    | none, some m => some m.kind
    | some x, some m => if s.path.turn = .queue then some x.kind else some m.kind := by
  unfold State.chooseOwn
  rw [h, hl, hr, hc]
  rfl

theorem chooseOwn_head {x : OwnEntry} {rest : List OwnEntry} (hq : s.path.ownq = x :: rest)
    (turn : s.path.turn = .queue ∨ s.nextMark = none) : s.chooseOwn = some x.kind := by
  rw [chooseOwn_turn h hl hr hc, hq]
  cases hm : s.nextMark with
  | none => rfl
  | some m => exact if_pos (turn.resolve_right (by rw [hm]; nofun))

theorem chooseOwn_mark {m : MarkId} (hm : s.nextMark = some m) (turn : s.path.ownq = [] ∨ s.path.turn = .marks) :
    s.chooseOwn = some m.kind := by
  rw [chooseOwn_turn h hl hr hc, hm]
  cases hq : s.path.ownq with
  | nil => rfl
  | cons x rest =>
    have marks : s.path.turn = .marks := turn.resolve_left (by rw [hq]; nofun)
    exact if_neg (by rw [marks]; decide)

end

/-! ## The start (R164) -/

section
variable {s : State}

theorem startOwn_shut (h : s.linkFree = false) : s.startOwn = s := by
  unfold State.startOwn
  rw [h]
  rfl

theorem startOwn_free (h : s.linkFree = true) (hown : s.path.own = none) : s.startOwn =
    match s.dropDead.chooseOwn with
    | some k => s.dropDead.beginOwn k
    | none => s.dropDead := by
  unfold State.startOwn
  rw [h, hown]
  rfl

/-- Two parts that are the same once the dead work is dropped start the same access. -/
theorem startOwn_dropped {t : State} (h : s.linkFree = true) (hown : s.path.own = none) (ht : t.linkFree = true)
    (htown : t.path.own = none) (same : t.dropDead = s.dropDead) : t.startOwn = s.startOwn := by
  rw [startOwn_free h hown, startOwn_free ht htown, same]

/-- An access has started, of a part whose own-access queue has become `q`. -/
structure Started (o : Own) (q : List OwnEntry) (s t : State) : Prop where
  path : t.path = { s.path with own := some o, link := .own, preempted := none, ownq := q }
  only : Only [.path] s t

theorem beginOwn_only (k : OwnKind) : Only [.path] s (s.beginOwn k) := .setPath s _

theorem beginOwn_started {k : OwnKind} (h : ¬(k = .meas ∨ k = .event)) :
    Started (s.ownFor k) s.path.ownq s (s.beginOwn k) := by
  refine ⟨?_, beginOwn_only k⟩
  unfold State.beginOwn
  rw [if_neg h]

theorem beginOwn_head {k : OwnKind} (h : k = .meas ∨ k = .event) {x : OwnEntry} {rest : List OwnEntry}
    (hq : s.path.ownq = x :: rest) : Started (s.ownFor k) ({ x with begun := true } :: rest) s (s.beginOwn k) := by
  refine ⟨?_, beginOwn_only k⟩
  unfold State.beginOwn
  rw [if_pos h, hq]
  rfl

/-- The content of an entry's own write is that of the head (R165). -/
theorem headBytes_meas {m : Meas} {begun : Bool} {rest : List OwnEntry}
    (h : s.path.ownq = { item := .meas m, begun := begun } :: rest) : s.headBytes = m.bytes := by
  unfold State.headBytes
  rw [h]
  rfl

theorem headBytes_event {e : Event} {begun : Bool} {rest : List OwnEntry}
    (h : s.path.ownq = { item := .event e, begun := begun } :: rest) : s.headBytes = e.bytes := by
  unfold State.headBytes
  rw [h]
  rfl

variable (free : s.linkFree = true) (hown : s.path.own = none) (whole : s.store.ready = false ∨ s.Whole)
include free hown whole

theorem startOwn_begins {k : OwnKind} (chosen : s.chooseOwn = some k) : s.startOwn = s.beginOwn k := by
  rw [startOwn_free free hown, dropDead_whole whole, chosen]

theorem startOwn_nothing (chosen : s.chooseOwn = none) : s.startOwn = s := by
  rw [startOwn_free free hown, dropDead_whole whole, chosen]

theorem startOwn_meas (chosen : s.chooseOwn = some .meas) {m : Meas} {begun : Bool} {rest : List OwnEntry}
    (hq : s.path.ownq = { item := .meas m, begun := begun } :: rest) :
    Started { kind := .meas, addr := s.base .meas + 8 * s.scan.measIdx, data := m.bytes }
      ({ item := .meas m, begun := true } :: rest) s s.startOwn := by
  rw [startOwn_begins free hown whole chosen, ← headBytes_meas hq]
  exact beginOwn_head (.inl rfl) hq

theorem startOwn_event (chosen : s.chooseOwn = some .event) {e : Event} {begun : Bool} {rest : List OwnEntry}
    (hq : s.path.ownq = { item := .event e, begun := begun } :: rest) :
    Started { kind := .event, addr := s.base .events + 16 * (s.ev.w % s.ringN), data := e.bytes }
      ({ item := .event e, begun := true } :: rest) s s.startOwn := by
  rw [startOwn_begins free hown whole chosen, ← headBytes_event hq]
  exact beginOwn_head (.inr rfl) hq

theorem startOwn_image {p : Fin 48} (chosen : s.chooseOwn = some (.image p)) :
    Started { kind := .image p, addr := s.base .portImage + 32 * p.val, data := s.portImage p } s.path.ownq s
      s.startOwn := by
  rw [startOwn_begins free hown whole chosen]
  exact beginOwn_started (k := .image p) (by rintro (h | h) <;> cases h)

theorem startOwn_inst (chosen : s.chooseOwn = some .inst) :
    Started { kind := .inst, addr := 3, data := s.ownedBytes } s.path.ownq s s.startOwn := by
  rw [startOwn_begins free hown whole chosen]
  exact beginOwn_started (k := .inst) (by decide)

theorem startOwn_load {l : Load} (chosen : s.chooseOwn = some .load) (hl : s.store.load = some l) :
    Started { kind := .load, addr := s.loadAddr l, data := [] } s.path.ownq s s.startOwn := by
  have access : s.ownFor .load = { kind := .load, addr := s.loadAddr l, data := [] } := by
    unfold State.ownFor
    rw [hl]
    rfl
  rw [startOwn_begins free hown whole chosen, ← access]
  exact beginOwn_started (k := .load) (by decide)

end

/-- Starting an access takes no time. -/
theorem startOwn_clock (s : State) : s.startOwn.clock = s.clock := by
  have dropped : s.dropDead.clock = s.clock := congrArg (fun v => v.2.1) (dropDead_outer s).view
  unfold State.startOwn
  split
  · dsimp only
    split
    · exact dropped
    · exact dropped
  · rfl

theorem exec_ownAccessStart {τ : Nat} {s : State} (hline : s.line = .released) :
    exec (.ownAccessStart τ) s = .next (s.advance τ).startOwn := by
  simp only [exec, execOwnAccessStart, timed_released hline]

end Sys2Proof.Machine
end

section
/-! PROOFS. The own access chosen in the order of the rules (R164 to R166; O57). -/

namespace Sys2Proof.Machine
open Sys2Proof

/-- The link is free where it is STUCK, or IDLE with the quiet gap behind it (R164). -/
theorem linkFree_iff (s : State) : s.linkFree = true ↔
    s.path.link = .stuck ∨ s.path.link = .idle ∧ s.path.csLow = false ∧ s.path.csSince + 2 ≤ s.clock := by
  unfold State.linkFree Config.quietGap
  simp only [Bool.or_eq_true, Bool.and_eq_true, decide_eq_true_eq, Bool.not_eq_true', and_assoc]

/-- A state that differs from `s` in nothing but dead work starts the access of `s`. -/
theorem exec_ownAccessStart_dropped {τ : Nat} {s t : State} (hline : t.line = .released)
    (free : (s.advance τ).linkFree = true) (hown : s.path.own = none) (tfree : (t.advance τ).linkFree = true)
    (town : t.path.own = none) (same : (t.advance τ).dropDead = (s.advance τ).dropDead) :
    exec (.ownAccessStart τ) t = .next (s.advance τ).startOwn := by
  rw [exec_ownAccessStart hline, startOwn_dropped (s := s.advance τ) free hown (t := t.advance τ) tfree town same]

/-- A queue of at most 16 entries, a staging list of at most 8 and a held result are within the fuel. -/
theorem waitingEntries_le {s : State} (hq : s.path.ownq.length ≤ 16) (hs : s.ev.staging.length ≤ 8) :
    s.waitingEntries ≤ 32 := by
  unfold State.waitingEntries
  split <;> omega

theorem headLeft_eq {s : State} {x : OwnEntry} {rest : List OwnEntry} (hq : s.path.ownq = x :: rest) :
    s.headLeft = { s with path := { s.path with ownq := rest } } := by
  unfold State.headLeft
  rw [hq]
  rfl

/-- The head leaves a queue whose place nothing waits for. -/
theorem leaveQueue_idle {s : State} {x : OwnEntry} {rest : List OwnEntry} (hq : s.path.ownq = x :: rest)
    (staged : s.ev.staging = []) (held : s.scan.held = none) :
    s.leaveQueue = { s with path := { s.path with ownq := rest } } := by
  rw [leaveQueue_eq, fillPlace_idle (s := s.headLeft) staged held, headLeft_eq hq]

/-- The head leaves, and the staging head takes its place (R131). -/
theorem leaveQueue_staged {s : State} {x : OwnEntry} {rest : List OwnEntry} {e : Event} {more : List Event}
    (hq : s.path.ownq = x :: rest) (few : s.path.ownq.length ≤ 16) (staged : s.ev.staging = e :: more) :
    s.leaveQueue = { s with
      path := { s.path with ownq := rest ++ [{ item := .event e }] }
      ev := { s.ev with staging := more } } := by
  rw [leaveQueue_eq, fillPlace_staged (headLeft_place few (by rw [hq]; nofun)) (s := s.headLeft) staged, headLeft_eq hq]

/-- Settles O57: the first part on the part at its moment, its dead work and its choice; then the order of the marks. -/
theorem ownAccessChosenInOrder : Obligations.OwnAccessChosenInOrder := by
  constructor
  · intro τ s hline now placed owed whole starts meas event image inst queueFirst markFirst
    have placedIff (x : OwnEntry) : (s.advance τ).entryPlaced x = true ↔ placed x := by
      obtain ⟨item, begun⟩ := x
      cases item <;> exact decide_eq_true_iff
    have owedIff (k : OwnKind) : (s.advance τ).stillOwed k = true ↔ owed k := by
      cases k with
      | load | image => exact Option.isSome_iff_ne_none
      | meas | event => exact decide_eq_true_iff
      | inst => exact Iff.rfl
    have wholeIs (h : whole) : (s.advance τ).Whole := by
      obtain ⟨head, dirty, preempted⟩ := h
      exact ⟨fun x hx => (placedIff x).mpr (head x hx), dirty, fun k hk => (owedIff k).mpr (preempted k hk)⟩
    have begins {o : Own} {q : List OwnEntry} {t : State} (h : Started o q (s.advance τ) t) : starts o q t :=
      ⟨h.path, h.only.sameBut_advance⟩
    have nothing : SameBut [] s (s.advance τ) := (Only.refl (s.advance τ)).sameBut_advance
    refine ⟨_, exec_ownAccessStart hline, startOwn_clock (s.advance τ), fun hl busy => ?gap, fun hown gap => ?free⟩
    case gap =>
      have shut : (s.advance τ).linkFree = false := by
        refine Bool.eq_false_iff.mpr fun free => ?_
        rcases (linkFree_iff (s.advance τ)).mp free with stuck | ⟨idle, low, quiet⟩
        · exact hl stuck
        · rcases busy with busy | busy | busy
          · exact absurd (low.symm.trans busy) (by decide)
          · exact Nat.not_le.mpr busy quiet
          · exact busy idle
      rw [startOwn_shut shut]
      exact nothing
    case free =>
      have free : (s.advance τ).linkFree = true := (linkFree_iff (s.advance τ)).mpr gap
      refine ⟨fun hr => ⟨fun k hk hno => ?_, fun hno => ?_, fun x rest hq hno few => ?_⟩, fun hw => ?_,
        fun hr hc hw => ?_⟩
      · exact exec_ownAccessStart_dropped (t := s.withOwed s.path.dirty none) hline free hown free hown
          (dropDead_preempted (s := s.advance τ) hr hk (Bool.eq_false_iff.mpr ((owedIff k).not.mpr hno)))
      · exact exec_ownAccessStart_dropped (t := s.withOwed (Tab.fill 48 false) s.path.preempted) hline free hown free
          hown (dropDead_marks (s := s.advance τ) hr hno)
      · have dead := Bool.eq_false_iff.mpr ((placedIff x).not.mpr hno)
        refine ⟨fun staged held => ?_, fun e more staged short => ?_⟩
        · have left := leaveQueue_idle (s := s.advance τ) hq staged held
          have same := dropDead_head (s := s.advance τ) hr hq dead
            (waitingEntries_le (s := s.advance τ) few (by rw [show (s.advance τ).ev.staging = [] from staged]; decide))
          rw [left] at same
          exact exec_ownAccessStart_dropped (t := { s with path := { s.path with ownq := rest } }) hline free hown free
            hown same
        · have left := leaveQueue_staged (s := s.advance τ) hq few staged
          have same := dropDead_head (s := s.advance τ) hr hq dead (waitingEntries_le (s := s.advance τ) few short)
          rw [left] at same
          exact exec_ownAccessStart_dropped (t := { s with
            path := { s.path with ownq := rest ++ [{ item := .event e }] }, ev := { s.ev with staging := more } })
            hline free hown free hown same
      · have alive := hw.imp_right wholeIs
        refine ⟨fun l hp hl => ?_, fun hp hl shut => ?_⟩
        · have chosen : (s.advance τ).chooseOwn = some .load := by
            rcases hp with hp | hp
            · exact chooseOwn_load hp (Option.isSome_iff_exists.mpr ⟨l, hl⟩)
            · exact chooseOwn_preempted hp
          exact begins (startOwn_load free hown alive chosen hl)
        · rw [startOwn_nothing free hown alive (chooseOwn_shut hp hl shut)]
          exact nothing
      · have alive : (s.advance τ).store.ready = false ∨ (s.advance τ).Whole := .inr (wholeIs hw)
        refine ⟨fun p hp => ?_, fun m begun rest hp hq => ?_, fun e begun rest hp hq => ?_, fun hp => ?_, fun hp hl =>
          ⟨fun m begun rest turn hq => ?_, fun e begun rest turn hq => ?_, fun p turn hm => ?_, fun turn hm => ?_⟩⟩
        · exact begins (startOwn_image free hown alive (chooseOwn_preempted hp))
        · exact begins (startOwn_meas free hown alive (chooseOwn_preempted hp) hq)
        · exact begins (startOwn_event free hown alive (chooseOwn_preempted hp) hq)
        · exact begins (startOwn_inst free hown alive (chooseOwn_preempted hp))
        · exact begins (startOwn_meas free hown alive (chooseOwn_head (s := s.advance τ) hp hl hr hc hq turn) hq)
        · exact begins (startOwn_event free hown alive (chooseOwn_head (s := s.advance τ) hp hl hr hc hq turn) hq)
        · exact begins (startOwn_image free hown alive (chooseOwn_mark (s := s.advance τ) hp hl hr hc hm turn))
        · exact begins (startOwn_inst free hown alive (chooseOwn_mark (s := s.advance τ) hp hl hr hc hm turn))
  · intro s place set after
    have marked (m : MarkId) : s.marked m = true ↔ set m := by cases m <;> exact Iff.rfl
    have steps (m : MarkId) : s.markSteps m = after m := by
      have same (m : MarkId) : m.place = place m := by cases m <;> rfl
      unfold State.markSteps
      rw [same, same]
    refine ⟨?_, fun m => ?_⟩
    · rw [nextMark_none]
      simp only [marked]
    · rw [nextMark_some]
      simp only [marked, steps]

end Sys2Proof.Machine
end

section
/-! PROOFS. The steps of a round start before its slots are filled: the number, the timer, the feeds that end and the
one that is shed (R91, R93, R94; O42). -/

namespace Sys2Proof.Machine
open Sys2Proof

/-! ## Feeds that end (R93, R94) -/

theorem feedOver_iff (s : State) (p : Fin 48) : s.feedOver p = true ↔
    (s.port p).u ≤ (s.policy p).stop ∨ s.permitted p = false ∨ s.condition p = false := by
  unfold State.feedOver
  simp only [Bool.or_eq_true, decide_eq_true_eq, Bool.not_eq_true', or_assoc]

theorem endDone_marking (s : State) : Marking [.ports, .path] s s.endDone := .fold _ endFeed_marking s

theorem endDone_port (s : State) (p : Fin 48) :
    s.endDone.port p = if s.feedOver p = true then (s.port p).feedEnded else s.port p := by
  have h := foldl_port (f := State.endFeed) (g := fun _ => Port.feedEnded) (R := fun _ => True)
    (fun _ _ _ => trivial) (fun s p q _ => endFeed_port s p q) (fun _ => feedEnded_idem) (allPorts.filter s.feedOver) s
    trivial p
  have mem : p ∈ allPorts.filter s.feedOver ↔ s.feedOver p = true := by
    rw [List.mem_filter]
    exact and_iff_right (mem_allPorts p)
  simp only [mem] at h
  exact h

theorem shedOne_marking (s : State) : Marking [.ports, .path] s s.shedOne := by
  unfold State.shedOne
  split
  · exact endLowestFeed_marking s
  · exact .refl s

/-- The feed that is shed: the lowest, of equal keys the one of the higher port (R94). -/
def State.Lowest (s : State) (p : Fin 48) : Prop :=
  (s.port p).action = .feeding ∧ ∀ q, (s.port q).action = .feeding → q ≠ p →
    (s.port p).key < (s.port q).key ∨ (s.port p).key = (s.port q).key ∧ q.val < p.val

theorem lowestFeed_iff (s : State) (p : Fin 48) : s.lowestFeed = some p ↔ s.Lowest p := by
  have spec := lowestFeed_spec s
  constructor
  · intro h
    rw [h] at spec
    obtain ⟨-, feeding, lowest⟩ := spec
    refine ⟨feeding, fun q hq hne => ?_⟩
    have ne : q.val ≠ p.val := fun e => hne (Fin.ext e)
    have low := lowest q (mem_allPorts q) hq
    omega
  · rintro ⟨feeding, lowest⟩
    cases h : s.lowestFeed with
    | none =>
      rw [h] at spec
      exact absurd feeding (spec p (mem_allPorts p))
    | some b =>
      rw [h] at spec
      obtain ⟨-, bfeeding, blowest⟩ := spec
      by_contra hne
      have low := lowest b bfeeding fun e => hne (congrArg some e)
      have blow := blowest p (mem_allPorts p) feeding
      omega

/-- Step 4 ends the lowest feed while the shed signal is on, and no other. -/
theorem shedOne_port (s : State) (p : Fin 48) :
    (s.shed = true → s.Lowest p → s.shedOne.port p = (s.port p).feedEnded) ∧
    (¬(s.shed = true ∧ s.Lowest p) → s.shedOne.port p = s.port p) := by
  have lowest := lowestFeed_iff s p
  unfold State.shedOne State.endLowestFeed
  constructor
  · intro hs low
    rw [if_pos hs, lowest.mpr low]
    dsimp only
    rw [endFeed_port, if_pos rfl]
  · intro no
    split
    · next hs =>
      split
      · next b hb =>
        rw [endFeed_port, if_neg]
        rintro rfl
        exact no ⟨hs, lowest.mp hb⟩
      · rfl
    · rfl

/-! ## The round opened (R91) -/

/-- A round begun, its timer running. -/
def State.roundTimed (s : State) : State := s.roundBegun.startTimer

/-- A round before its slots are filled. -/
def State.roundOpened (s : State) : State := s.roundTimed.endDone.shedOne.readFeedEnable

theorem roundTimed_only (s : State) : Only [.sched] s s.roundTimed := .setSched s _

theorem readFeedEnable_only (s : State) : Only [.sched] s s.readFeedEnable := .setSched s _

theorem roundFed_marking (s : State) : Marking [.ports, .path] s s.endDone.shedOne :=
  (endDone_marking s).trans (shedOne_marking _)

theorem roundOpened_marking (s : State) : Marking [.ports, .sched, .path] s s.roundOpened :=
  ((roundTimed_only s).marking.next (n := [.ports, .sched, .path]) (roundFed_marking _)).next
    (readFeedEnable_only _).marking

theorem roundOpened_sched (s : State) : s.roundOpened.sched = { s.sched with
    number := (s.sched.number + 1) % 65536, running := true, slots := Tab.fill 4 {}
    timer := some (s.clock + s.header.period * Config.sec), dry := !s.header.feedEnable } := by
  have fed := roundFed_marking s.roundTimed
  show { s.roundTimed.endDone.shedOne.sched with dry := !s.roundTimed.endDone.shedOne.header.feedEnable } = _
  rw [fed.sched, header_congr fed.store]
  rfl

/-- A feed that step 3 ends (R93). -/
def State.Spent (s : State) (p : Fin 48) : Prop :=
  (s.port p).u ≤ (s.policy p).stop ∨ s.permitted p = false ∨ s.condition p = false

/-- A feed that step 3 leaves. -/
def State.Stays (s : State) (p : Fin 48) : Prop := (s.port p).action = .feeding ∧ ¬s.Spent p

theorem State.Stays.feeding {s : State} {p : Fin 48} (h : s.Stays p) : (s.port p).action = .feeding := h.1

theorem State.Stays.unspent {s : State} {p : Fin 48} (h : s.Stays p) : ¬s.Spent p := h.2

/-- The feed that step 4 sheds (R81, R94). -/
def State.Sheds (s : State) (p : Fin 48) : Prop :=
  s.limit + s.limit / 4 < s.filter ∧ s.Stays p ∧ ∀ q, s.Stays q → q ≠ p →
    (s.port p).key < (s.port q).key ∨ (s.port p).key = (s.port q).key ∧ q.val < p.val

theorem State.Sheds.stays {s : State} {p : Fin 48} (h : s.Sheds p) : s.Stays p := h.2.1

theorem roundTimed_over (s : State) (p : Fin 48) : s.roundTimed.feedOver p = true ↔ s.Spent p := feedOver_iff s p

theorem feedEnded_of_not {x : Port} (h : x.action ≠ .feeding) : x.feedEnded = x := if_neg h

/-- Step 3 leaves exactly the feeds that stay, with their records. -/
theorem roundDone_feeding (s : State) (p : Fin 48) :
    (s.roundTimed.endDone.port p).action = .feeding ↔ s.Stays p := by
  rw [endDone_port]
  have done := roundTimed_over s p
  have port : s.roundTimed.port p = s.port p := rfl
  by_cases spent : s.Spent p
  · rw [if_pos (done.mpr spent)]
    exact iff_of_false (feedEnded_action_ne _) fun stays => stays.unspent spent
  · rw [if_neg (done.not.mpr spent), port]
    exact ⟨fun feeding => ⟨feeding, spent⟩, And.left⟩

theorem roundDone_stays {s : State} {p : Fin 48} (h : s.Stays p) : s.roundTimed.endDone.port p = s.port p := by
  rw [endDone_port, if_neg ((roundTimed_over s p).not.mpr h.2)]
  rfl

theorem roundDone_sheds (s : State) (p : Fin 48) :
    (s.roundTimed.endDone.shed = true ∧ s.roundTimed.endDone.Lowest p) ↔ s.Sheds p := by
  have done := endDone_marking s.roundTimed
  have shed : s.roundTimed.endDone.shed = s.shed := by
    unfold State.shed State.limit State.filter
    rw [done.scan, done.acct, header_congr done.store]
    rfl
  rw [shed]
  unfold State.shed State.Lowest State.Sheds
  simp only [roundDone_feeding, decide_eq_true_eq]
  refine and_congr_right fun _ => and_congr_right fun stays => forall_congr' fun q => ?_
  refine imp_congr_right fun hq => ?_
  rw [roundDone_stays stays, roundDone_stays hq]

/-- The ports once steps 3 and 4 have ended their feeds (R93, R94). -/
theorem roundOpened_port (s : State) (p : Fin 48) :
    ((s.port p).action = .feeding ∧ (s.Spent p ∨ s.Sheds p) → s.roundOpened.port p = { s.port p with
      action := .idle, switch := false, absence := none, fed := false }) ∧
    (¬((s.port p).action = .feeding ∧ (s.Spent p ∨ s.Sheds p)) → s.roundOpened.port p = s.port p) := by
  have opened : s.roundOpened.port p = s.roundTimed.endDone.shedOne.port p := rfl
  have port : s.roundTimed.port p = s.port p := rfl
  have sheds := roundDone_sheds s p
  obtain ⟨shed, kept⟩ := shedOne_port s.roundTimed.endDone p
  rw [opened]
  constructor
  · rintro ⟨feeding, spent | hs⟩
    · rw [kept fun h => (sheds.mp h).stays.unspent spent, endDone_port, if_pos ((roundTimed_over s p).mpr spent), port]
      exact feedEnded_of_feeding feeding
    · obtain ⟨signal, lowest⟩ := sheds.mpr hs
      rw [shed signal lowest, roundDone_stays hs.stays]
      exact feedEnded_of_feeding feeding
  · intro no
    have unshed : ¬s.Sheds p := fun hs => no ⟨hs.stays.feeding, .inr hs⟩
    rw [kept (sheds.not.mpr unshed), endDone_port, port]
    split
    · next spent =>
      exact feedEnded_of_not fun feeding => no ⟨feeding, .inl ((roundTimed_over s p).mp spent)⟩
    · rfl

/-- The ports that feed once the round is opened. -/
theorem roundOpened_feeding (s : State) (p : Fin 48) :
    (s.roundOpened.port p).action = .feeding ↔ s.Stays p ∧ ¬s.Sheds p := by
  obtain ⟨ended, kept⟩ := roundOpened_port s p
  by_cases h : (s.port p).action = .feeding ∧ (s.Spent p ∨ s.Sheds p)
  · rw [ended h]
    refine iff_of_false nofun fun ⟨stays, remains⟩ => h.2.elim stays.unspent remains
  · rw [kept h]
    refine ⟨fun feeding => ⟨⟨feeding, fun spent => h ⟨feeding, .inl spent⟩⟩, fun sheds => h ⟨feeding, .inr sheds⟩⟩,
      fun ⟨stays, _⟩ => stays.feeding⟩

end Sys2Proof.Machine
end

section
/-! PROOFS. What the slots of a round hold once they are filled (R95, R96; O42). -/

namespace Sys2Proof.Machine
open Sys2Proof

theorem tab_ext {α : Type} {n : Nat} {t u : Tab α n} (h : ∀ i, t.get i = u.get i) : t = u := by
  refine Subtype.ext (List.ext_getElem (t.property.trans u.property.symm) fun i hi _ => ?_)
  exact h ⟨i, t.property ▸ hi⟩

/-! ## Slots with content -/

/-- A slot that the fill of a round has given content: a rota test start in slot 0, or a feed or wake start of a port of
the queue. -/
structure State.SlotFilled (v : State) (i : Fin 4) (p : Fin 48) (x : Slot) : Prop where
  port : x.port = some p
  outcome : x.outcome = none
  action : x.action ≠ .none
  test : x.action = .test → i = 0 ∧ v.testAllowed = true ∧ ∃ r k, x.rota = some r ∧ v.rotaReady r = some (p, k)
  work : x.action ≠ .test → ∃ e ∈ v.sched.queue, e.port = p

/-- The slots are being filled: each is free or has content, and nothing but slots, queue and marks has changed. -/
structure Filling (v t : State) : Prop where
  marking : Marking [.sched, .path] v t
  queue : ∀ e ∈ t.sched.queue, e ∈ v.sched.queue
  sched : t.sched = { v.sched with queue := t.sched.queue, slots := t.sched.slots }
  slots : ∀ i, t.sched.slots.get i = {} ∨ ∃ p, v.SlotFilled i p (t.sched.slots.get i)

theorem Filling.start {v : State} (h : v.sched.slots = Tab.fill 4 {}) : Filling v v :=
  ⟨.refl v, fun _ => id, rfl, fun i => .inl (by rw [h]; exact Tab.get_fill ..)⟩

theorem fill_sched (s : State) (i : Fin 4) (action : SlotAction) (p : Fin 48) (rota : Option (Fin 16)) :
    (s.fill i action p rota).sched = { s.sched with
      slots := s.sched.slots.set i { action := action, port := some p, rota := rota }
      queue := s.sched.queue.filter fun e => e.port ≠ p } := dequeue_sched _ p

theorem fill_marking (s : State) (i : Fin 4) (action : SlotAction) (p : Fin 48) (rota : Option (Fin 16)) :
    Marking [.sched, .path] s (s.fill i action p rota) :=
  (Only.setSched s { s.sched with
    slots := s.sched.slots.set i { action := action, port := some p, rota := rota } }).marking.next
      (dequeue_marking _ p)

/-- One slot more. -/
theorem Filling.fill {v t : State} (h : Filling v t) {i : Fin 4} {action : SlotAction} {p : Fin 48}
    {rota : Option (Fin 16)} (filled : v.SlotFilled i p { action := action, port := some p, rota := rota }) :
    Filling v (t.fill i action p rota) where
  marking := h.marking.trans (fill_marking t i action p rota)
  queue e he := by
    rw [fill_sched] at he
    exact h.queue e (List.mem_filter.mp he).1
  sched := by rw [fill_sched, h.sched]
  slots j := by
    rw [fill_sched]
    dsimp only
    rw [Tab.get_set]
    split
    · next e => exact .inr ⟨p, e ▸ filled⟩
    · exact h.slots j

theorem fillTest_filling {v : State} (h : v.sched.slots = Tab.fill 4 {}) : Filling v v.fillTest := by
  unfold State.fillTest
  split
  · next allowed =>
    split
    · next r _ =>
      split
      · next p k ready =>
        exact (Filling.start h).fill ⟨rfl, rfl, nofun, fun _ => ⟨rfl, allowed, r, k, rfl, ready⟩,
          fun no => absurd rfl no⟩
      · exact .start h
    · exact .start h
  · exact .start h

/-- The walk over entries of the queue fills slots with their ports. -/
theorem walk_filling {v : State} (l : List QueueEntry) (hl : ∀ e ∈ l, e ∈ v.sched.queue) :
    ∀ (n : Nat) (t : State), Filling v t → Filling v (State.walk l n t) := by
  induction l with
  | nil => exact fun _ _ h => h
  | cons e rest ih =>
    intro n t h
    have later := ih fun d hd => hl d (List.mem_cons_of_mem e hd)
    have work (i : Fin 4) (action : SlotAction) (named : action ≠ .none) (untested : action ≠ .test) :
        v.SlotFilled i e.port { action := action, port := some e.port } :=
      ⟨rfl, rfl, named, fun test => absurd test untested, fun _ => ⟨e, hl e List.mem_cons_self, rfl⟩⟩
    unfold State.walk
    dsimp only
    split
    · exact later _ _ h
    · split
      · split
        · exact later _ _ (h.fill (work _ .wake nofun nofun))
        · exact later _ _ h
      · split
        · exact later _ _ (h.fill (work _ .feed nofun nofun))
        · exact later _ _ h

/-! ## The slots filled (R96) -/

/-- A slot once its fill is over: EMPTY, or with content. -/
structure State.SlotsFilled (v t : State) : Prop where
  marking : Marking [.sched, .path] v t
  sched : t.sched = { v.sched with queue := t.sched.queue, slots := t.sched.slots }
  slots : ∀ i, t.sched.slots.get i = { outcome := some .empty } ∨ ∃ p, v.SlotFilled i p (t.sched.slots.get i)

theorem emptySlots_only (s : State) : Only [.sched] s s.emptySlots := .setSched s _

theorem Filling.filled {v t : State} (h : Filling v t) : v.SlotsFilled t.emptySlots where
  marking := h.marking.next (emptySlots_only t).marking
  sched := by
    show { t.sched with slots := t.emptySlots.sched.slots } = _
    rw [h.sched]
    rfl
  slots i := by
    show (Tab.map _ t.sched.slots).get i = _ ∨ ∃ p, v.SlotFilled i p ((Tab.map _ t.sched.slots).get i)
    rw [Tab.get_map]
    rcases h.slots i with free | ⟨p, filled⟩
    · rw [free]
      exact .inl rfl
    · rw [if_neg filled.action]
      exact .inr ⟨p, filled⟩

theorem fillSlots_filled {v : State} (h : v.sched.slots = Tab.fill 4 {}) : v.SlotsFilled v.fillSlots := by
  have test := fillTest_filling h
  exact (walk_filling _ test.queue _ _ test).filled

/-! ## Rota entries -/

/-- A rota entry that is due and ready: its kind, its place in the rota and its readiness (R112, R120). -/
theorem rotaReady_some {s : State} {r : Fin 16} {p : Fin 48} {k : TestKind} (h : s.rotaReady r = some (p, k)) :
    (s.store.plan.rota r).kind = some k ∧ r.val < s.header.rotaN ∧ s.readyFor p k = true := by
  unfold State.rotaReady at h
  dsimp only at h
  split at h
  · next hkind =>
    split at h
    · next due =>
      obtain ⟨rfl, rfl⟩ := Prod.mk.inj (Option.some.inj h)
      exact ⟨hkind, due.1, due.2.2⟩
    · cases h
  · cases h

theorem testAllowed_idle {s : State} (h : s.testAllowed = true) : s.test.run = none := by
  unfold State.testAllowed at h
  simp only [Bool.and_eq_true, Option.isNone_iff_eq_none] at h
  obtain ⟨⟨⟨⟨idle, -⟩, -⟩, -⟩, -⟩ := h
  exact idle

/-- Without rota entries no slot holds a test start. -/
theorem State.SlotFilled.untested {v : State} {i : Fin 4} {p : Fin 48} {x : Slot} (h : v.SlotFilled i p x)
    (hn : v.header.rotaN = 0) : x.action ≠ .test := by
  intro test
  obtain ⟨-, -, r, k, -, ready⟩ := h.test test
  have place := (rotaReady_some ready).2.1
  omega

theorem State.SlotsFilled.untested {v t : State} (h : v.SlotsFilled t) (hn : v.header.rotaN = 0) (i : Fin 4) :
    (t.sched.slots.get i).action ≠ .test := by
  rcases h.slots i with empty | ⟨p, filled⟩
  · rw [empty]; nofun
  · exact filled.untested hn

/-- Without rota entries and queue every slot is EMPTY. -/
theorem State.SlotsFilled.empty {v t : State} (h : v.SlotsFilled t) (hn : v.header.rotaN = 0)
    (hq : v.sched.queue = []) (i : Fin 4) : t.sched.slots.get i = { outcome := some .empty } := by
  rcases h.slots i with empty | ⟨p, filled⟩
  · exact empty
  · obtain ⟨e, he, -⟩ := filled.work (filled.untested hn)
    rw [hq] at he
    cases he

end Sys2Proof.Machine
end

section
/-! PROOFS. What the issue of a round's slots changes of ports, tests and slots, the first slot, and a dry round (R91,
R97, R98; O42). -/

namespace Sys2Proof.Machine
open Sys2Proof

/-! ## What issuing leaves -/

/-- A port's record while slots are issued: as it was, or taken by a test, its switch not closed by that. -/
def Port.Taken (x y : Port) : Prop := y = x ∨ y.action = .testing ∧ (x.switch = false → y.switch = false)

theorem Port.Taken.trans {x y z : Port} (h : x.Taken y) (k : y.Taken z) : x.Taken z := by
  rcases k with rfl | ⟨testing, opened⟩
  · exact h
  · refine .inr ⟨testing, fun hx => opened ?_⟩
    rcases h with rfl | ⟨-, openedFirst⟩
    · exact hx
    · exact openedFirst hx

/-- While slots are issued they keep their work, ports are at most taken by a test, and none is where no slot holds a
test start or a test is in progress already. -/
structure Issuing (s t : State) : Prop where
  action : ∀ i, (t.sched.slots.get i).action = (s.sched.slots.get i).action
  sched : t.sched = { s.sched with queue := t.sched.queue, slots := t.sched.slots }
  ports : ∀ p, (s.port p).Taken (t.port p)
  quiet : (∀ i, (s.sched.slots.get i).action ≠ .test) ∨ s.test.run ≠ none → t.ports = s.ports ∧ t.test = s.test

namespace Issuing

variable {s t u : State}

theorem refl (s : State) : Issuing s s := ⟨fun _ => rfl, rfl, fun _ => .inl rfl, fun _ => ⟨rfl, rfl⟩⟩

theorem trans (h : Issuing s t) (k : Issuing t u) : Issuing s u where
  action i := (k.action i).trans (h.action i)
  sched := by rw [k.sched, h.sched]
  ports p := (h.ports p).trans (k.ports p)
  quiet hs := by
    obtain ⟨ports, test⟩ := h.quiet hs
    obtain ⟨ports', test'⟩ := k.quiet (by simpa only [h.action, test] using hs)
    exact ⟨ports'.trans ports, test'.trans test⟩

/-- A change of gate and outcomes alone. -/
theorem of_only (h : Only [.gate, .sched] s t)
    (action : ∀ i, (t.sched.slots.get i).action = (s.sched.slots.get i).action)
    (sched : t.sched = { s.sched with queue := t.sched.queue, slots := t.sched.slots }) : Issuing s t :=
  ⟨action, sched, fun p => .inl (h.port p), fun _ => ⟨h.ports, h.test⟩⟩

end Issuing

/-- A slot with another outcome keeps its work. -/
theorem slots_set_action {slots : Tab Slot 4} {i : Fin 4} (o : Option SlotOutcome) (j : Fin 4) :
    ((slots.set i { slots.get i with outcome := o }).get j).action = (slots.get j).action := by
  rw [Tab.get_set]
  split
  · next e => rw [e]
  · rfl

theorem resolve_issuing (s : State) (i : Fin 4) (o : SlotOutcome) : Issuing s (s.resolve i o) :=
  .of_only (resolve_only s i o).mono (slots_set_action (some o)) rfl

theorem resolvePort_issuing (s : State) (p : Fin 48) (o : SlotOutcome) : Issuing s (s.resolvePort p o) := by
  unfold State.resolvePort
  split
  · exact resolve_issuing s _ o
  · exact .refl s

theorem gate_issuing (s : State) (x : Gate) : Issuing s { s with gate := x } :=
  .of_only (Only.setGate s x).mono (fun _ => rfl) rfl

theorem checkHead_issuing (s : State) : Issuing s s.checkHead := by
  unfold State.checkHead
  split
  · exact .refl s
  · split
    · exact .refl s
    · split
      · exact .refl s
      · split
        · exact (gate_issuing s _).trans (resolvePort_issuing _ _ _)
        · exact gate_issuing s _

/-- A test start of the rota, no slot request of its port at the gate. -/
theorem startTest_issuing {s : State} {i : Fin 4} {p : Fin 48} (hw : s.slotWaits p = false) (hrun : s.test.run = none)
    (ha : (s.sched.slots.get i).action = .test) (k : TestKind) (mins : Nat) (rota : Option (Fin 16)) :
    Issuing s (s.startTest p k false mins rota) := by
  have started := startTest_started s p k false mins rota
  have slots := started.slots hw
  refine ⟨fun j => by rw [slots], ?_, fun q => ?_, fun quiet => ?_⟩
  · rw [started.queue]
  · by_cases hq : q = p
    · have port := started.port_eq
      rw [hq, show (s.startTest p k false mins rota).port p = _ from port]
      exact .inr ⟨rfl, fun opened => (congrArg (decide _ && ·) opened).trans (Bool.and_false _)⟩
    · exact .inl (started.others q hq)
  · rcases quiet with untested | busy
    · exact absurd ha (untested i)
    · exact absurd hrun busy

theorem issueSlot_issuing {s : State} {i : Fin 4} {p : Fin 48} (hw : s.slotWaits p = false) :
    Issuing s (s.issueSlot i p) := by
  have resolved (o : SlotOutcome) : Issuing s (s.resolve i o) := resolve_issuing s i o
  unfold State.issueSlot
  dsimp only
  split
  · exact resolved _
  · split
    · next ha _ =>
      split
      · split
        · next ready =>
          have idle : s.test.run = none := by
            rw [Bool.and_eq_true, Option.isNone_iff_eq_none] at ready
            exact ready.1
          exact (startTest_issuing hw idle ha _ _ _).trans (resolve_issuing _ i .issued)
        · exact resolved _
      · exact resolved _
    · split
      · exact resolved _
      · split
        · exact resolved _
        · exact (gate_issuing s _).trans (checkHead_issuing _)

theorem issueSlots_issuing (n : Nat) (s : State) : Issuing s (State.issueSlots n s) := by
  induction n generalizing s with
  | zero => exact .refl s
  | succ n ih =>
    unfold State.issueSlots
    split
    · exact .refl s
    · split
      · exact (resolve_issuing s _ _).trans (ih _)
      · split
        · exact .refl s
        · next hw => exact (issueSlot_issuing (Bool.eq_false_iff.mpr hw)).trans (ih _)

/-- A round that ends keeps its slots and its number. -/
theorem finishRound_slots (s : State) : s.finishRound.sched.slots = s.sched.slots := by
  unfold State.finishRound
  split <;> rfl

/-! ## The first slot (R97) -/

/-- The first slot once it is issued: resolved with an outcome that stays, its port taken by the test where it held a
test start. -/
theorem issueSlots_first_test {s : State} {p : Fin 48} {r : Fin 16} {k : TestKind} (hq : s.NoSlotRequest)
    (hi : s.FirstOpen 0) (hp : (s.sched.slots.get 0).port = some p) (dry : s.sched.dry = false)
    (ha : (s.sched.slots.get 0).action = .test) (hrota : (s.sched.slots.get 0).rota = some r)
    (hk : (s.store.plan.rota r).kind = some k) (hrun : s.test.run = none) (hready : s.readyFor p k = true) (n : Nat) :
    let t := State.issueSlots (n + 1) s
    (t.sched.slots.get 0).outcome = some .issued ∧ (t.port p).action = .testing ∧ t.test.run.map (·.port) = some p := by
  dsimp only
  rw [issueSlots_issue hi hp (hq.slotWaits p), issueSlot_test (p := p) dry ha hrota hk hrun hready]
  have started := startTest_started s p k false (s.store.plan.rota r).minutes (some r)
  have outcome : (((s.startTest p k false (s.store.plan.rota r).minutes (some r)).resolve 0 .issued).sched.slots.get
      0).outcome = some .issued := congrArg Slot.outcome (Tab.get_set_same ..)
  have test : ((s.startTest p k false (s.store.plan.rota r).minutes (some r)).resolve 0 .issued).test.run =
      some (s.newRun p k false (s.store.plan.rota r).minutes (some r)) := congrArg TestUnit.run started.test_eq
  have port : (((s.startTest p k false (s.store.plan.rota r).minutes (some r)).resolve 0 .issued).port p).action =
      .testing := congrArg Port.action started.port_eq
  generalize (s.startTest p k false (s.store.plan.rota r).minutes (some r)).resolve 0 .issued = u at outcome test port ⊢
  obtain ⟨ports, same⟩ := (issueSlots_issuing n u).quiet (.inr (by rw [test]; nofun))
  refine ⟨?_, ?_, by rw [same, test]; rfl⟩
  · rw [(issueSlots_issued n u).resolved 0 (by unfold State.SlotOpen; rw [outcome]; nofun), outcome]
  · exact (congrArg (fun x => (Tab.get x p).action) ports).trans port

/-- The request of a feed or wake start at an open gate: it waits, or its window was full (R40). -/
theorem request_outcome {s : State} {i : Fin 4} {p : Fin 48} (hq : s.NoSlotRequest) (hr : s.sched.running = true)
    (hi : s.FirstOpen i) (hp : (s.sched.slots.get i).port = some p) (hopen : s.gateClosed = false) :
    let t := (s.request p .slot).checkHead
    (t.sched = s.sched ∧ ∃ r ∈ t.gate.waiting, r.port = p ∧ r.kind = .slot ∧ r.placed = s.clock) ∨
    (t.sched.slots.get i).outcome = some .windowFull ∧ ∃ g, s.segOf p = some g ∧ s.windowFull g = true := by
  have waiting : s.slotRequest p ∈ (s.request p .slot).gate.waiting := by
    rw [request_slot hopen]
    exact List.mem_append_right _ (List.mem_singleton_self _)
  have waits : ∃ r ∈ (s.request p .slot).gate.waiting, r.port = p ∧ r.kind = .slot ∧ r.placed = s.clock :=
    ⟨_, waiting, rfl, rfl, rfl⟩
  dsimp only
  cases hg : s.segOf p with
  | none =>
    have seg : (s.request p .slot).segOf (s.slotRequest p).port = none := hg
    have same : (s.request p .slot).checkHead = s.request p .slot := by
      unfold State.checkHead
      simp only [find_slot (request_slot_one hq hopen p), seg, ite_self]
    rw [same]
    exact .inl ⟨rfl, waits⟩
  | some g =>
    have check := checkHead_slot (s := s.request p .slot) (r := s.slotRequest p) hg (request_slot_one hq hopen p)
    split at check
    · rw [check]
      exact .inl ⟨rfl, waits⟩
    · split at check
      · next full =>
        refine .inr ⟨?_, g, rfl, full⟩
        rw [check, show (s.slotRequest p).port = p from rfl, request_dropped hr hi hp hopen]
        exact congrArg Slot.outcome (Tab.get_set_same ..)
      · rw [check]
        refine .inl ⟨rfl, _, List.mem_map.mpr ⟨_, waiting, rfl⟩, ?_⟩
        rw [if_pos rfl]
        exact ⟨rfl, rfl, rfl⟩

/-- The first slot of an idle port's feed or wake start: its request waits at the gate, or it is WINDOW_FULL. -/
theorem issueSlots_first_work {s : State} {p : Fin 48} (hq : s.NoSlotRequest) (hr : s.sched.running = true)
    (hi : s.FirstOpen 0) (hp : (s.sched.slots.get 0).port = some p) (dry : s.sched.dry = false)
    (ha : (s.sched.slots.get 0).action ≠ .test) (hidle : (s.port p).action = .idle) (hopen : s.gateClosed = false)
    (n : Nat) :
    let t := State.issueSlots (n + 1) s
    t.FirstOpen 0 ∧ (∃ r ∈ t.gate.waiting, r.port = p ∧ r.kind = .slot ∧ r.placed = s.clock) ∨
    (t.sched.slots.get 0).outcome = some .windowFull ∧ ∃ g, s.segOf p = some g ∧ s.windowFull g = true := by
  have issued : s.issueSlot 0 p = (s.request p .slot).checkHead :=
    (issueSlot_work dry ha p).trans ((if_neg (not_not_intro hidle)).trans (if_neg (by rw [hopen]; nofun)))
  dsimp only
  rw [issueSlots_issue hi hp (hq.slotWaits p), issued]
  rcases request_outcome hq hr hi hp hopen with ⟨sched, r, hm, hrp, hk, placed⟩ | ⟨outcome, full⟩
  · have first : (s.request p .slot).checkHead.FirstOpen 0 := by
      unfold State.FirstOpen State.SlotOpen
      rw [sched]
      exact hi
    have waits : (s.request p .slot).checkHead.slotWaits p = true :=
      List.any_eq_true.mpr ⟨r, hm, by simp [hrp, hk]⟩
    rw [issueSlots_waits first (by rw [sched]; exact hp) waits]
    exact .inl ⟨first, r, hm, hrp, hk, placed⟩
  · refine .inr ⟨?_, full⟩
    rw [(issueSlots_issued n _).resolved 0 (by unfold State.SlotOpen; rw [outcome]; nofun), outcome]

/-! ## A dry round (R18, R97) -/

/-- A slot as a dry round leaves it. -/
def Slot.dried (x : Slot) : Slot := if x.outcome = none then { x with outcome := some .dry } else x

/-- In a dry round every open slot is resolved DRY, and nothing else happens. -/
theorem issueSlots_dry (n : Nat) {s : State} (dry : s.sched.dry = true) (hq : s.NoSlotRequest)
    (ports : ∀ i, s.SlotOpen i → (s.sched.slots.get i).port ≠ none) (enough : s.openCount ≤ n) :
    State.issueSlots n s = { s with sched := { s.sched with slots := s.sched.slots.map Slot.dried } } := by
  induction n generalizing s with
  | zero =>
    have closed (i : Fin 4) : ¬s.SlotOpen i := fun hi => by
      have fewer := openCount_resolved (t := s.resolve i .dry) hi rfl
      omega
    have same : s.sched.slots.map Slot.dried = s.sched.slots := tab_ext fun i => by
      rw [Tab.get_map]
      exact if_neg (closed i)
    rw [same]
    rfl
  | succ n ih =>
    cases hfirst : s.firstOpen with
    | none =>
      have closed (i : Fin 4) : ¬s.SlotOpen i := fun hi =>
        List.find?_eq_none.mp hfirst i (List.mem_finRange i) (Option.isNone_iff_eq_none.mpr hi)
      have same : s.sched.slots.map Slot.dried = s.sched.slots := tab_ext fun i => by
        rw [Tab.get_map]
        exact if_neg (closed i)
      rw [issueSlots_none hfirst, same]
    | some i =>
      have hi := firstOpen_some hfirst
      obtain ⟨p, hp⟩ := Option.ne_none_iff_exists'.mp (ports i hi.1)
      have fewer := openCount_resolved (t := s.resolve i .dry) hi.1 rfl
      rw [issueSlots_issue hi hp (hq.slotWaits p), issueSlot_dry dry,
        ih (s := s.resolve i .dry) dry hq (fun j hj => ?_) (by omega)]
      · have same : (s.resolve i .dry).sched.slots.map Slot.dried = s.sched.slots.map Slot.dried := tab_ext fun j => by
          rw [Tab.get_map, Tab.get_map]
          show Slot.dried ((s.sched.slots.set i _).get j) = _
          rw [Tab.get_set]
          split
          · next e =>
            rw [e]
            exact (if_neg nofun).trans (if_pos hi.1).symm
          · rfl
        rw [same]
        rfl
      · have hne : j ≠ i := by
          rintro rfl
          have resolved : ((s.resolve j .dry).sched.slots.get j).outcome = some .dry :=
            congrArg Slot.outcome (Tab.get_set_same ..)
          exact nomatch resolved.symm.trans hj
        have slot : (s.resolve i .dry).sched.slots.get j = s.sched.slots.get j := Tab.get_set_ne _ _ hne
        rw [slot]
        refine ports j ?_
        unfold State.SlotOpen at hj ⊢
        rwa [slot] at hj

end Sys2Proof.Machine
end

section
/-! PROOFS. A bank switch does not see the round: the round begun before it or after it (R91, R92, R147; O42). -/

namespace Sys2Proof.Machine
open Sys2Proof

/-- The state with another round: number, whether it runs, and slots. -/
def State.withRound (number : Nat) (running : Bool) (slots : Tab Slot 4) (s : State) : State :=
  { s with sched := { s.sched with number := number, running := running, slots := slots } }

/-- An operation that neither reads nor changes the round. -/
def RoundBlind (f : State → State) : Prop :=
  ∀ (number : Nat) (running : Bool) (slots : Tab Slot 4) (s : State),
    f (s.withRound number running slots) = (f s).withRound number running slots

theorem RoundBlind.comp {f g : State → State} (hf : RoundBlind f) (hg : RoundBlind g) : RoundBlind fun s => g (f s) :=
  fun n r x s => (congrArg g (hf n r x s)).trans (hg n r x (f s))

theorem RoundBlind.fold {α : Type} {f : State → α → State} (h : ∀ a, RoundBlind fun s => f s a) (l : List α) :
    RoundBlind fun s => l.foldl f s :=
  fun n r x _ => List.foldl_hom (State.withRound n r x) fun y a => h a n r x y

theorem markPortIf_blind (c : Bool) (p : Fin 48) : RoundBlind fun s => s.markPortIf c p := by
  cases c
  · exact fun _ _ _ _ => rfl
  · exact fun _ _ _ _ => rfl

theorem dequeue_blind (p : Fin 48) : RoundBlind fun s => s.dequeue p := fun n r x s =>
  markPortIf_blind (s.queued p) p n r x
    { s with sched := { s.sched with queue := s.sched.queue.filter fun e => e.port ≠ p } }

theorem replanPorts_blind : RoundBlind State.replanPorts := by
  have marks (c : Fin 48 → Bool) : RoundBlind fun s => allPorts.foldl (fun y p => y.markPortIf (c p) p) s :=
    .fold (fun p => markPortIf_blind (c p) p) allPorts
  intro n r x s
  have policy (p : Fin 48) : (s.withRound n r x).policy p = s.policy p := rfl
  have port (p : Fin 48) : (s.withRound n r x).port p = s.port p := rfl
  unfold State.replanPorts
  simp only [policy, port]
  exact marks _ n r x { s with ports := Tab.ofFn fun p => (s.port p).replan (s.policy p) }

theorem purge_blind : RoundBlind State.purge := by
  intro n r x s
  unfold State.purge
  exact RoundBlind.fold dequeue_blind _ n r x s

theorem endFeed_blind (p : Fin 48) : RoundBlind fun s => s.endFeed p := by
  intro n r x s
  have port : (s.withRound n r x).port p = s.port p := rfl
  dsimp only
  unfold State.endFeed
  rw [port]
  by_cases h : (s.port p).action = .feeding
  · simp only [if_pos h]; rfl
  · simp only [if_neg h]

theorem endLowestFeed_blind : RoundBlind State.endLowestFeed := by
  intro n r x s
  have lowest : (s.withRound n r x).lowestFeed = s.lowestFeed := rfl
  unfold State.endLowestFeed
  rw [lowest]
  cases s.lowestFeed with
  | none => rfl
  | some p => exact endFeed_blind p n r x s

theorem trimFeeds_blind (n : Nat) : RoundBlind (State.trimFeeds n) := by
  induction n with
  | zero => exact fun _ _ _ _ => rfl
  | succ n ih =>
    intro m r x s
    unfold State.trimFeeds
    rw [endLowestFeed_blind, ih]
    exact (apply_ite (State.withRound m r x) (s.header.feedLimit < s.feedingCount) _ _).symm

theorem loadLimits_blind : RoundBlind State.loadLimits :=
  .fold (fun p n r x s => by
    have port : (s.withRound n r x).port p = s.port p := rfl
    dsimp only
    rw [port]
    split <;> rfl) allPorts

theorem carry_blind (old : PlanUse) : RoundBlind fun s => s.carry old := by
  have reorder : RoundBlind State.reorder := fun _ _ _ _ => rfl
  have tail : RoundBlind fun s => ((s.scanPlan old).adjustRota.clearEdges).reHold := fun _ _ _ _ => rfl
  have ports := (((replanPorts_blind.comp purge_blind).comp reorder).comp (trimFeeds_blind 48)).comp loadLimits_blind
  intro n r x s
  have carried := ports.comp tail n r x s
  dsimp only at carried ⊢
  unfold State.carry
  exact carried

/-- The target made active and told of (R148, R150). -/
theorem switched_blind (target : Bank) : RoundBlind fun s => s.switched target := by
  have activated : RoundBlind fun s => (s.judging target).activated target := by
    intro n r x s
    cases target <;> rfl
  have dropped : RoundBlind fun s => s.dropForwarded target := by
    intro n r x s
    have region : (s.withRound n r x).bankRegion target = s.bankRegion target := rfl
    have phase : (s.withRound n r x).phase = s.phase := rfl
    dsimp only
    unfold State.dropForwarded
    rw [region]
    cases s.bankRegion target with
    | none => rfl
    | some b =>
      simp only [phase]
      split <;> rfl
  intro n r x s
  have both := activated.comp dropped n r x s
  dsimp only at both ⊢
  unfold State.switched
  rw [both]
  rfl

theorem applySwitch_blind (target : Bank) : RoundBlind fun s => s.applySwitch target := by
  intro n r x s
  have judged : (s.withRound n r x).judged target = s.judged target := rfl
  have switched := switched_blind target n r x s
  dsimp only at switched ⊢
  by_cases h : target = s.store.active
  · rw [applySwitch_self (s := s.withRound n r x) h, applySwitch_self h]
    rfl
  · rw [applySwitch_other (s := s.withRound n r x) h, applySwitch_other h, judged, switched]
    cases (s.judged target).validity with
    | valid => exact carry_blind _ n r x _
    | invalid | absent => cases target <;> rfl

/-- A round begun before a switch or after it. -/
theorem applySwitch_roundBegun (s : State) (target : Bank) :
    s.roundBegun.applySwitch target = (s.applySwitch target).roundBegun := by
  have number : (s.applySwitch target).sched.number = s.sched.number :=
    congrArg (fun v => v.1) (applySwitch_inner s target).round
  have begun (y : State) : y.roundBegun = y.withRound ((y.sched.number + 1) % 65536) true (Tab.fill 4 {}) := rfl
  rw [begun, begun, number]
  exact applySwitch_blind target ((s.sched.number + 1) % 65536) true (Tab.fill 4 {}) s

end Sys2Proof.Machine
end

section
/-! PROOFS. The round that the timer starts (R90 to R97, R100, R147; O42). -/

namespace Sys2Proof.Machine
open Sys2Proof

/-! ## The part before its slots are issued -/

/-- A round with its slots filled. -/
def State.roundFilled (s : State) : State := s.roundOpened.fillSlots

/-- A round with its slots issued. -/
def State.roundIssued (s : State) : State := State.issueSlots 9 s.roundFilled

/-- With no switch to apply, a round start is the fill and the issue of its slots, and the round trigger. -/
theorem roundStart_held {s : State} (held : s.store.target = none ∨ s.store.load ≠ none) :
    s.roundStart = s.roundIssued.finishRound.trigger .round := by
  have applied : s.roundBegun.applyTarget = s.roundBegun := applyTarget_held held
  rw [roundStart_eq, applied]
  rfl

section
variable (s : State)

theorem roundFilled_filled : s.roundOpened.SlotsFilled s.roundFilled :=
  fillSlots_filled (by rw [roundOpened_sched])

theorem roundFilled_marking : Marking [.ports, .sched, .path] s s.roundFilled :=
  (roundOpened_marking s).next (roundFilled_filled s).marking

theorem roundFilled_port (p : Fin 48) : s.roundFilled.port p = s.roundOpened.port p :=
  (roundFilled_filled s).marking.port p

theorem roundFilled_running : s.roundFilled.sched.running = true := by
  rw [(roundFilled_filled s).sched, roundOpened_sched]

theorem roundFilled_dry : s.roundFilled.sched.dry = !s.header.feedEnable := by
  rw [(roundFilled_filled s).sched, roundOpened_sched]

theorem roundOpened_queue : s.roundOpened.sched.queue = s.sched.queue := by rw [roundOpened_sched]

theorem roundOpened_header : s.roundOpened.header = s.header := header_congr (roundOpened_marking s).store

theorem roundFilled_quiet {s : State} (hq : s.NoSlotRequest) : s.roundFilled.NoSlotRequest := by
  unfold State.NoSlotRequest
  rw [(roundFilled_marking s).gate]
  exact hq

theorem roundIssued_issuing : Issuing s.roundFilled s.roundIssued := issueSlots_issuing 9 _

theorem roundIssued_slotPort (i : Fin 4) :
    (s.roundIssued.sched.slots.get i).port = (s.roundFilled.sched.slots.get i).port :=
  (issueSlots_issued 9 _).slotPort i

theorem roundIssued_marking : Marking [.ports, .gate, .sched, .test, .path] s s.roundIssued :=
  (roundFilled_marking s).next (issueSlots_marking 9 _)

theorem roundIssued_running : s.roundIssued.sched.running = true := by
  rw [(roundIssued_issuing s).sched]
  exact roundFilled_running s

/-- Number, timer and pending start once the slots are issued and the round has ended where none is open. -/
theorem roundIssued_roundView : s.roundIssued.finishRound.roundView =
    ((s.sched.number + 1) % 65536, some (s.clock + s.header.period * Config.sec), s.sched.startPending) := by
  have inner : Inner s.roundOpened s.roundIssued.finishRound :=
    ((fillSlots_inner _).trans (issueSlots_inner 9 _)).trans (finishRound_inner _)
  rw [inner.round]
  unfold State.roundView
  rw [roundOpened_sched]

end

/-! ## The round ends with its last slot, or goes on -/

theorem finishRound_ended {s : State} (hr : s.sched.running = true) (h : ∀ i, ¬s.SlotOpen i) :
    s.finishRound = s.endRound := if_pos ⟨hr, firstOpen_none h⟩

theorem finishRound_open {s : State} {i : Fin 4} (h : s.FirstOpen i) : s.finishRound = s :=
  if_neg (by rw [h.eq]; rintro ⟨-, none⟩; cases none)

theorem finishRound_port (s : State) (p : Fin 48) : s.finishRound.port p = s.port p := (finishRound_only s).port p

/-! ## What the started round makes of ports, slots and record -/

section
variable {s : State} (held : s.store.target = none ∨ s.store.load ≠ none)
include held

theorem roundStart_only : Only [.ports, .gate, .scan, .sched, .test, .path] s s.roundStart := by
  rw [roundStart_held held]
  exact ((roundIssued_marking s).toOnly.next (n := [.ports, .gate, .sched, .test, .path]) (finishRound_only _)).next
    (trigger_only _ _)

theorem roundStart_port (p : Fin 48) : s.roundStart.port p = s.roundIssued.port p := by
  rw [roundStart_held held, (trigger_only _ _).port p, finishRound_port]

theorem roundStart_gate : s.roundStart.gate = s.roundIssued.gate := by
  rw [roundStart_held held, (trigger_only _ _).gate, (finishRound_only _).gate]

theorem roundStart_test : s.roundStart.test = s.roundIssued.test := by
  rw [roundStart_held held, (trigger_only _ _).test, (finishRound_only _).test]

theorem roundStart_sched : s.roundStart.sched = s.roundIssued.finishRound.sched := by
  rw [roundStart_held held, (trigger_only _ _).sched]

theorem roundStart_slots : s.roundStart.sched.slots = s.roundIssued.sched.slots := by
  rw [roundStart_sched held, finishRound_slots]

/-- A feed that the round start ends feeds no more, and its switch is open. -/
theorem roundStart_ended {p : Fin 48} (feeding : (s.port p).action = .feeding) (ends : s.Spent p ∨ s.Sheds p) :
    (s.roundStart.port p).action ≠ .feeding ∧ (s.roundStart.port p).switch = false := by
  have opened := (roundOpened_port s p).1 ⟨feeding, ends⟩
  have taken := (roundIssued_issuing s).ports p
  rw [roundFilled_port, opened] at taken
  rw [roundStart_port held]
  rcases taken with same | ⟨testing, switch⟩
  · rw [same]
    exact ⟨nofun, rfl⟩
  · rw [testing]
    exact ⟨nofun, switch rfl⟩

/-- Without a rota exactly the feeds that the round start leaves go on. -/
theorem roundStart_feeding (hn : s.header.rotaN = 0) (p : Fin 48) :
    (s.roundStart.port p).action = .feeding ↔ s.Stays p ∧ ¬s.Sheds p := by
  have untested := (roundFilled_filled s).untested (by rw [roundOpened_header]; exact hn)
  have ports := ((roundIssued_issuing s).quiet (.inl untested)).1
  have port : s.roundIssued.port p = s.roundFilled.port p := congrArg (Tab.get · p) ports
  rw [roundStart_port held, port, roundFilled_port]
  exact roundOpened_feeding s p

/-- With nothing to place the round ends at its start (R100). -/
theorem roundStart_nothing (hqueue : s.sched.queue = []) (hn : s.header.rotaN = 0) :
    s.roundStart.sched.running = false ∧ s.roundStart.gate = s.gate ∧ s.roundStart.test = s.test ∧
      s.roundStart.sched.record = { number := (s.sched.number + 1) % 65536, slots := Tab.fill 4 {} } := by
  have slots := (roundFilled_filled s).empty (by rw [roundOpened_header]; exact hn) (by rw [roundOpened_queue, hqueue])
  have closed (i : Fin 4) : ¬s.roundFilled.SlotOpen i := by
    unfold State.SlotOpen
    rw [slots i]
    nofun
  have issued : s.roundIssued = s.roundFilled := issueSlots_none (firstOpen_none closed) 9
  have record : s.roundFilled.sched.slots.map Slot.recorded = Tab.fill 4 {} := tab_ext fun i => by
    rw [Tab.get_map, slots i, Tab.get_fill]
    rfl
  have number : s.roundFilled.sched.number = (s.sched.number + 1) % 65536 := by
    rw [(roundFilled_filled s).sched, roundOpened_sched]
  rw [roundStart_sched held, roundStart_gate held, roundStart_test held, issued,
    finishRound_ended (roundFilled_running s) closed, (roundFilled_marking s).gate, (roundFilled_marking s).test]
  refine ⟨rfl, rfl, rfl, ?_⟩
  unfold State.endRound
  rw [record, number]

variable (hq : s.NoSlotRequest)
include hq

/-- A dry round ends at its start, with its filled slots DRY (R18). -/
theorem roundStart_dry (feeds : s.header.feedEnable = false) :
    s.roundStart.sched.running = false ∧ s.roundStart.gate = s.gate ∧ s.roundStart.test = s.test ∧
      s.roundStart.sched.record.number = (s.sched.number + 1) % 65536 ∧
      ∀ i, (s.roundStart.sched.record.slots.get i).outcome =
        if (s.roundStart.sched.record.slots.get i).action = .none then .empty else .dry := by
  have filled := roundFilled_filled s
  have dry : s.roundFilled.sched.dry = true := by rw [roundFilled_dry, feeds]; rfl
  have ports (i : Fin 4) (hi : s.roundFilled.SlotOpen i) : (s.roundFilled.sched.slots.get i).port ≠ none := by
    rcases filled.slots i with empty | ⟨p, content⟩
    · unfold State.SlotOpen at hi
      rw [empty] at hi
      cases hi
    · rw [content.port]
      nofun
  have issued : s.roundIssued = { s.roundFilled with sched := { s.roundFilled.sched with
      slots := s.roundFilled.sched.slots.map Slot.dried } } :=
    issueSlots_dry 9 dry (roundFilled_quiet hq) ports ((openCount_le _).trans (by decide))
  have slot (i : Fin 4) : s.roundIssued.sched.slots.get i = (s.roundFilled.sched.slots.get i).dried := by
    rw [issued]
    exact Tab.get_map ..
  have closed (i : Fin 4) : ¬s.roundIssued.SlotOpen i := by
    unfold State.SlotOpen
    rw [slot]
    unfold Slot.dried
    split
    · nofun
    · assumption
  have number : s.roundIssued.sched.number = (s.sched.number + 1) % 65536 := by
    rw [(roundIssued_issuing s).sched, filled.sched, roundOpened_sched]
  have gate : s.roundIssued.gate = s.gate := by rw [issued]; exact (roundFilled_marking s).gate
  have test : s.roundIssued.test = s.test := by rw [issued]; exact (roundFilled_marking s).test
  rw [roundStart_sched held, roundStart_gate held, roundStart_test held, gate, test,
    finishRound_ended (roundIssued_running s) closed]
  refine ⟨rfl, rfl, rfl, number, fun i => ?_⟩
  have recorded : s.roundIssued.endRound.sched.record.slots.get i = (s.roundFilled.sched.slots.get i).dried.recorded :=
    (Tab.get_map ..).trans (congrArg Slot.recorded (slot i))
  rw [recorded]
  rcases filled.slots i with empty | ⟨p, content⟩
  · rw [empty]
    rfl
  · unfold Slot.dried
    rw [if_pos content.outcome]
    exact (if_neg content.action).symm

/-- The first slot of a round whose work is placed: a test start is ISSUED, the request of a feed or wake start waits at
the gate or its window was full (R40, R97). -/
theorem roundStart_first {p : Fin 48} (feeds : s.header.feedEnable = true) (hopen : s.gateClosed = false)
    (idle : ∀ e ∈ s.sched.queue, (s.port e.port).action = .idle)
    (hp : (s.roundStart.sched.slots.get 0).port = some p) :
    ((s.roundStart.sched.slots.get 0).action = .test →
      (s.roundStart.sched.slots.get 0).outcome = some .issued ∧ (s.roundStart.port p).action = .testing ∧
      s.roundStart.test.run.map (·.port) = some p) ∧
    ((s.roundStart.sched.slots.get 0).action ≠ .test →
      (s.roundStart.sched.slots.get 0).outcome = none ∧ s.roundStart.sched.running = true ∧
          (∃ r ∈ s.roundStart.gate.waiting, r.port = p ∧ r.kind = .slot ∧ r.placed = s.clock) ∨
        (s.roundStart.sched.slots.get 0).outcome = some .windowFull ∧ ∃ g, s.segOf p = some g ∧
          4 ≤ (s.gate.hist.get g).countP fun x => s.clock < x + s.header.window * Config.sec) := by
  have filled := roundFilled_filled s
  have mk := roundFilled_marking s
  have quiet := roundFilled_quiet hq
  have dry : s.roundFilled.sched.dry = false := by rw [roundFilled_dry, feeds]; rfl
  rw [roundStart_slots held, roundIssued_slotPort] at hp
  rw [roundStart_slots held, (roundIssued_issuing s).action 0, roundStart_port held, roundStart_test held,
    roundStart_gate held]
  rcases filled.slots 0 with empty | ⟨q, content⟩
  · rw [empty] at hp
    cases hp
  · obtain rfl : q = p := Option.some.inj (content.port.symm.trans hp)
    have first : s.roundFilled.FirstOpen 0 := ⟨content.outcome, fun j hj => absurd hj (Fin.not_lt_zero j)⟩
    refine ⟨fun test => ?_, fun work => ?_⟩
    · obtain ⟨-, allowed, r, k, rota, ready⟩ := content.test test
      obtain ⟨kind, -, readyFor⟩ := rotaReady_some ready
      have store := filled.marking.store
      have readied : s.roundFilled.readyFor q k = true := by
        rw [← readyFor]
        unfold State.readyFor
        rw [filled.marking.port q, filled.marking.acct]
      exact issueSlots_first_test quiet first content.port dry test rota (by rw [store]; exact kind)
        (by rw [filled.marking.test]; exact testAllowed_idle allowed) readied 8
    · obtain ⟨e, he, rfl⟩ := content.work work
      rw [roundOpened_queue] at he
      have unfed : (s.port e.port).action ≠ .feeding := by rw [idle e he]; nofun
      have still : (s.roundFilled.port e.port).action = .idle := by
        rw [roundFilled_port, (roundOpened_port s e.port).2 fun h => unfed h.1]
        exact idle e he
      have gate : s.roundFilled.gateClosed = false := by
        rw [← hopen]
        unfold State.gateClosed
        rw [mk.phase, mk.scan]
      rcases issueSlots_first_work quiet (roundFilled_running s) first content.port dry work still gate 8 with
        ⟨waits, request⟩ | ⟨outcome, g, hg, full⟩
      · rw [mk.clock] at request
        have stays : s.roundIssued.finishRound = s.roundIssued := finishRound_open waits
        exact .inl ⟨waits.1, by rw [roundStart_sched held, stays]; exact roundIssued_running s, request⟩
      · have seg : s.roundFilled.segOf e.port = s.segOf e.port := by
          unfold State.segOf
          rw [show s.roundFilled.segBounds = s.segBounds from mk.parts .segments (by decide)]
        have window := (windowFull_iff _ g).mp full
        rw [mk.gate, mk.clock, header_congr mk.store] at window
        exact .inr ⟨outcome, g, by rw [← seg, hg], window⟩

end

/-- From the filled slots the round goes on as any running round does (R97, R100). -/
theorem roundFilled_goesOn {s : State} (hq : s.NoSlotRequest) (pending : s.sched.startPending = false) :
    s.roundFilled.runRound = s.roundIssued.finishRound := by
  have issued : s.roundFilled.issueOn = s.roundIssued.finishRound := by
    rw [issueOn_running (roundFilled_running s), (roundFilled_quiet hq).checkHead]
    rfl
  have unasked : s.roundIssued.finishRound.sched.startPending = false := by
    have view := congrArg (fun v => v.2.2) (roundIssued_roundView s)
    exact view.trans pending
  unfold State.runRound
  dsimp only
  rw [issued]
  exact if_neg fun both => absurd both.2 (by rw [unasked]; nofun)

/-! ## The expiry of the timer (R90) -/

section
variable {τ due : Nat} {s : State} (hline : s.line = .released) (htimer : s.sched.timer = some due)
  (hdue : due ≤ max s.clock τ)
include hline htimer hdue

theorem exec_roundTimerExpiry : exec (.roundTimerExpiry τ) s = .next (s.advance τ).roundTimerDone := by
  have run : hasRun (s.advance τ).sched.timer 0 (s.advance τ).clock = true := hasRun_some htimer hdue
  simp only [exec, execRoundTimerExpiry, timed_released hline, if_pos run]

theorem exec_roundTimerExpiry_start (hr : s.sched.running = false) :
    exec (.roundTimerExpiry τ) s = .next (s.advance τ).roundStart := by
  have done : (s.advance τ).roundTimerDone = ((s.advance τ).withTimer none).roundStart :=
    if_neg (by show ¬s.sched.running = true; rw [hr]; nofun)
  rw [exec_roundTimerExpiry hline htimer hdue, done, roundStart_withTimer]

end

/-- A part that stands at the moment of a command is not moved on by it. -/
theorem advance_now {s : State} {τ : Nat} (h : τ ≤ s.clock) : s.advance τ = s :=
  congrArg (fun c => { s with clock := c }) (max_eq_left h)

/-- A pending switch applied before the round start, or first thing in it (R91, R147). -/
theorem roundStart_switched {s : State} {target : Bank} (ht : s.store.target = some target)
    (hready : s.store.ready = true) (hload : s.store.load = none) :
    s.roundStart = (s.applySwitch target).roundStart := by
  obtain ⟨-, taken, -⟩ := applySwitch_applied target s
  have first : s.roundBegun.applyTarget = (s.applySwitch target).roundBegun.applyTarget := by
    rw [applyTarget_some (s := s.roundBegun) ht hready hload, applySwitch_roundBegun]
    exact (applyTarget_held (s := (s.applySwitch target).roundBegun) (.inl taken)).symm
  rw [roundStart_eq, roundStart_eq, first]

theorem exec_roundTimerExpiry_switched {τ due : Nat} {s : State} {target : Bank} (hline : s.line = .released)
    (htimer : s.sched.timer = some due) (hdue : due ≤ max s.clock τ) (hr : s.sched.running = false)
    (ht : s.store.target = some target) (hready : s.store.ready = true) (hload : s.store.load = none) :
    exec (.roundTimerExpiry τ) s = exec (.roundTimerExpiry τ) ((s.advance τ).applySwitch target) := by
  have inner := applySwitch_inner (s.advance τ) target
  have clock : ((s.advance τ).applySwitch target).clock = max s.clock τ := inner.toCalm.clock_eq
  have timer : ((s.advance τ).applySwitch target).sched.timer = some due :=
    (congrArg (fun v => v.2.1) inner.round).trans htimer
  have now : State.advance τ ((s.advance τ).applySwitch target) = (s.advance τ).applySwitch target :=
    advance_now (by rw [clock]; exact le_max_right ..)
  rw [exec_roundTimerExpiry_start hline htimer hdue hr,
    exec_roundTimerExpiry_start (inner.toCalm.line_eq.trans hline) timer (by rw [clock]; omega)
      ((applySwitch_running _ _).trans hr), now, roundStart_switched (s := s.advance τ) ht hready hload]

/-- Settles O42: the start that waits for the running round, the switch before the round, and the round from the part at
its moment. -/
theorem roundTimerStartsRound : Obligations.RoundTimerStartsRound := by
  intro τ due s hline htimer hdue now spent stays limit shed
  refine ⟨fun hr => ?_, fun target hr ht hready hload => ?_, fun hr held => ?_⟩
  · refine ⟨_, exec_roundTimerExpiry hline htimer hdue, ?_⟩
    have done : (s.advance τ).roundTimerDone =
        { s.advance τ with sched := { s.sched with timer := none, startPending := true } } := if_pos hr
    rw [done]
    exact ⟨rfl, rfl, (Only.setSched (s.advance τ) _).sameBut_advance⟩
  · exact ⟨_, applySwitch_applied target (s.advance τ),
      exec_roundTimerExpiry_switched hline htimer hdue hr ht hready hload⟩
  · have only := roundStart_only (s := s.advance τ) held
    have view := roundIssued_roundView (s.advance τ)
    have sched := roundStart_sched (s := s.advance τ) held
    refine ⟨_, exec_roundTimerExpiry_start hline htimer hdue hr, only.clock, ?_, ?_, ?_,
      fun p => roundStart_ended (s := s.advance τ) held, roundStart_feeding (s := s.advance τ) held,
      fun p feeds hopen hq idle => roundStart_first (s := s.advance τ) held hq feeds hopen idle,
      roundStart_nothing (s := s.advance τ) held, fun feeds hq => roundStart_dry (s := s.advance τ) held hq feeds,
      fun pending hq => ?_, only.sameBut_advance⟩
    · rw [sched]
      exact congrArg (fun v => v.1) view
    · rw [sched]
      exact congrArg (fun v => v.2.1) view
    · rw [sched]
      exact congrArg (fun v => v.2.2) view
    · have opened := roundOpened_marking (s.advance τ)
      have issued := (roundIssued_marking (s.advance τ)).toOnly.next (n := [.ports, .gate, .sched, .test, .path])
        (finishRound_only _)
      have clock : τ ≤ (s.advance τ).roundIssued.finishRound.clock := by rw [issued.clock]; exact le_max_right ..
      refine ⟨(s.advance τ).roundOpened, ?_, opened.clock, roundOpened_sched (s.advance τ),
        roundOpened_port (s.advance τ), opened.marks, opened.toOnly.sameBut_advance⟩
      show exec (.scanTrigger τ .round) (s.advance τ).roundFilled.runRound = _
      rw [roundFilled_goesOn (s := s.advance τ) hq pending,
        exec_scanTrigger_inner (issued.line.trans hline) (by decide), advance_now clock,
        roundStart_held (s := s.advance τ) held]

end Sys2Proof.Machine
end

section
/-! PROOFS. The charge of the string, the load filter and the hold signal at a period end (R75, R77 to R80; O24). -/

namespace Sys2Proof.Machine
open Sys2Proof

/-! ## The steps of the account (R67) -/

/-- The accounting unit's work before the charge of the string: the period's end noted, the feed seconds, and each
port's account (R27, R67 to R72). -/
def State.portsCounted (s : State) : State :=
  State.accountPorts (State.feedSeconds { s with acct := { s.acct with lastEnd := s.acct.lastEnd + Config.sec } })

theorem counted_eq (s : State) : s.counted = s.portsCounted.accountQ.accountLoad.reHold := by
  unfold State.counted State.accountPeriod State.portsCounted; rfl

theorem portsCounted_only (s : State) : Only [.ports, .acct, .path] s s.portsCounted :=
  ((Only.setAcct s _).next (n := [.ports, .acct]) (feedSeconds_only _)).next (accountPorts_marking _).toOnly

theorem portsCounted_acct (s : State) :
    s.portsCounted.acct = { s.acct with lastEnd := s.acct.lastEnd + Config.sec } := by
  unfold State.portsCounted
  rw [(accountPorts_marking _).acct, (feedSeconds_only _).acct]

theorem portsCounted_action (s : State) (p : Fin 48) : (s.portsCounted.port p).action = (s.port p).action := by
  have same : s.counted.port p = s.portsCounted.port p := by
    rw [counted_eq, (reHold_only _).port p, (accountLoad_only _).port p, (accountQ_only _).port p]
  have kept : s.counted.port p = _ := counted_port s p
  rw [← same, kept]

/-! ## The charge of the string (R75, R77) -/

theorem accountQ_acct (s : State) :
    let q := (clampI 0 s.acct.cap (s.acct.q - s.value 49)).toNat
    s.accountQ.acct = { s.acct with
      q := if s.phase.phase = .mains then s.acct.q else q
      level := if s.phase.phase = .mains then s.acct.level else q * 100 / s.acct.cap } := by
  unfold State.accountQ
  dsimp only
  split <;> rfl

/-- The string's account moves by what the phase, the scanner and the accounting unit hold; the period's end noted
beforehand it leaves alone. -/
theorem portsCounted_accountQ (s : State) : s.portsCounted.accountQ.acct =
    { s.accountQ.acct with lastEnd := s.acct.lastEnd + Config.sec } := by
  have ports := portsCounted_only s
  have current : s.portsCounted.value 49 = s.value 49 := by unfold State.value; rw [ports.scan]
  rw [accountQ_acct, accountQ_acct, current, ports.phase, portsCounted_acct]

/-! ## The load filter and the hold signal (R78 to R80) -/

theorem limit_congr {s t : State} (hscan : t.scan = s.scan) (hstore : t.store = s.store) : t.limit = s.limit := by
  unfold State.limit; rw [hscan, header_congr hstore]

/-- The load sample is read from what the ports do, the channels, the plan, the switch-on count and the test. -/
theorem loadSample_congr {s t : State} (haction : ∀ p, (t.port p).action = (s.port p).action)
    (hscan : t.scan = s.scan) (hstore : t.store = s.store) (hcount : t.acct.count = s.acct.count)
    (htest : t.test = s.test) : t.loadSample = s.loadSample := by
  unfold State.loadSample State.current State.value
  simp only [haction, hscan, header_congr hstore, hcount, htest]

/-- F16 after a period end. -/
def State.sampledF16 (s : State) : Nat := nextF16 s.acct.f16 s.loadSample s.header.k

/-- The accounting unit's record after its own work at a period end. -/
theorem counted_acct (s : State) : s.counted.acct = { s.accountQ.acct with
    f16 := s.sampledF16, count := 0, hold := decide (s.limit ≤ s.sampledF16 / 16)
    lastEnd := s.acct.lastEnd + Config.sec } := by
  have only : Only [.ports, .acct, .path] s s.portsCounted.accountQ :=
    (portsCounted_only s).next (accountQ_only _)
  have charged : s.portsCounted.accountQ.acct = { s.accountQ.acct with lastEnd := s.acct.lastEnd + Config.sec } :=
    portsCounted_accountQ s
  have action (p : Fin 48) : (s.portsCounted.accountQ.port p).action = (s.port p).action := by
    rw [(accountQ_only _).port p, portsCounted_action]
  rw [counted_eq]
  generalize s.portsCounted.accountQ = x at only charged action ⊢
  have load : x.acct.f16 = s.acct.f16 ∧ x.acct.count = s.acct.count := by
    rw [charged, accountQ_acct]; exact ⟨rfl, rfl⟩
  have sampled : x.sampledF16 = s.sampledF16 := by
    unfold State.sampledF16
    rw [load.1, loadSample_congr action only.scan only.store load.2 only.test, header_congr only.store]
  have limit : x.accountLoad.limit = s.limit := limit_congr only.scan only.store
  show { x.acct with
    f16 := x.sampledF16, count := 0, hold := decide (x.accountLoad.limit ≤ x.sampledF16 / 16) } = _
  rw [limit, sampled, charged]

/-! ## The two tests -/

/-- The accounting unit after an entry to CUTOFF by the level, where no bank switch is applied. -/
theorem enterCutoff_level_acct {s : State} (held : s.store.target = none ∨ s.store.load ≠ none) :
    (s.enterCutoff .level).acct = s.acct := by
  rw [enterCutoff_eq, applyTarget_held (by rwa [(cutoffReached_only .level).store]), cutoffReached_acct]
  exact if_neg nofun

/-- Of the two tests the UNDERVOLTAGE entry alone moves the charge (R76). -/
theorem Judgement.acct {s t : State} (h : Judgement s t) (stays : s.PlanStays t)
    (calm : s.phase.phase.active = true → s.uvCount < 5) : t.acct = s.acct := by
  have held := stays.held
  cases h with
  | inactive => rfl
  | undervoltage ha huv => exact absurd (calm ha) (Nat.not_lt.mpr huv)
  | cutoff ha => exact enterCutoff_level_acct (s := s.uvCounted) (held ha (by rw [enterCutoff_phase]))
  | reserve => exact (enterReserve_only s.uvCounted .level).acct
  | stay => rfl

/-- No UNDERVOLTAGE entry is due (R7). -/
theorem uvCount_lt {s : State}
    (h : s.phase.phase.active = false ∨ (s.busFloor : Int) ≤ s.value 48 ∨ s.phase.uv + 1 < 5)
    (ha : s.phase.phase.active = true) : s.uvCount < 5 := by
  unfold State.uvCount
  split
  · next low =>
    rcases h with hn | hfloor | huv
    · rw [ha] at hn; cases hn
    · exact absurd low (not_lt.mpr hfloor)
    · exact huv
  · decide

/-! ## O24 -/

/-- The load sample as the statement writes it. -/
theorem loadSample_eq (s : State) : s.loadSample = (allPorts.map fun p =>
      if (s.port p).action = .feeding ∨ (s.port p).action = .waking then s.current p else 0).sum
    + s.header.inrush * s.acct.count + (if s.test.run = none then 0 else s.header.testWeight) := by
  unfold State.loadSample
  cases s.test.run <;> rfl

/-- Settles O24: the accounting unit's own record, which the two tests keep where no UNDERVOLTAGE entry is made. -/
theorem periodEndMovesChargeAndLoad : Obligations.PeriodEndMovesChargeAndLoad := by
  intro τ s hline hready hdue calm q sample f16 limit
  refine ⟨(s.advance τ).periodPart, exec_periodPart hline hready hdue, fun stays => ?_⟩
  have counted := counted_marking (s.advance τ)
  have quiet : (s.advance τ).counted.phase.phase.active = true → (s.advance τ).counted.uvCount < 5 := by
    rw [counted.phase, counted_uvCount]
    exact uvCount_lt (s := s.advance τ) calm
  have sampled : (s.advance τ).sampledF16 = f16 := by
    have taken : (s.advance τ).loadSample = sample := loadSample_eq (s.advance τ)
    unfold State.sampledF16 nextF16
    rw [taken, Nat.cast_pow]
    rfl
  rw [periodPart_acct, (counted_judgement (s.advance τ)).acct (planStays_counted stays) quiet, counted_acct,
    accountQ_acct, sampled]
  rfl

end Sys2Proof.Machine
end

section
/-! PROOFS. The fill of a round's slots, entry by entry: the rota test of slot 0, the starts that each entry of the
queue is given, and what the entries after it leave (R95, R96, R112, R120; O43). -/

namespace Sys2Proof.Machine
open Sys2Proof

/-! ## The rota test of slot 0 (R95, R112, R120) -/

theorem portOf_eq_some {n : Nat} {p : Fin 48} : portOf n = some p ↔ n = p.val := by
  constructor
  · intro h
    obtain ⟨_, found⟩ := Option.dite_none_right_eq_some.mp h
    rw [← Option.some_inj.mp found]
  · rintro rfl
    exact portOf_val p

/-- The readiness of a test start by its kind, both ways (R112). -/
theorem readyFor_kind {s : State} {p : Fin 48} {k : TestKind} : s.readyFor p k = true ↔ match k with
    | .holdup => (s.port p).status = .run ∧
        ((s.port p).action = .idle ∨ (s.port p).action = .feeding ∧ (s.port p).fed = true)
    | .wake => (s.port p).action = .idle ∧ (s.port p).status = .sleep ∧ s.acct.hold = false
    | .draw => (s.port p).action = .feeding := by
  refine ⟨fun h => ?_, readyFor_of⟩
  cases k with
  | holdup => simpa [State.readyFor] using h
  | wake => simpa [State.readyFor, and_assoc] using h
  | draw => simpa [State.readyFor] using h

theorem rotaReady_iff {s : State} {j : Fin 16} {p : Fin 48} {k : TestKind} :
    s.rotaReady j = some (p, k) ↔ j.val < s.header.rotaN ∧ s.test.counters.get j = 0 ∧
      (s.store.plan.rota j).port = p.val ∧ (s.store.plan.rota j).kind = some k ∧ s.readyFor p k = true := by
  rw [← portOf_eq_some]
  unfold State.rotaReady
  dsimp only
  split
  · next q kind hq hk =>
    rw [hq, hk, Option.ite_none_right_eq_some, Option.some_inj, Option.some_inj, Option.some_inj, Prod.mk.injEq]
    constructor
    · rintro ⟨⟨place, due, ready⟩, rfl, rfl⟩
      exact ⟨place, due, rfl, rfl, ready⟩
    · rintro ⟨place, due, rfl, rfl, ready⟩
      exact ⟨⟨place, due, ready⟩, rfl, rfl⟩
  · next none =>
    exact iff_of_false nofun fun ⟨_, _, hp, hk, _⟩ => none p k hp hk

/-- A rota entry of a port is due and ready for a test of its kind. -/
theorem rotaDue_iff {s : State} {j : Fin 16} {p : Fin 48} : (∃ k, s.rotaReady j = some (p, k)) ↔
    j.val < s.header.rotaN ∧ s.test.counters.get j = 0 ∧ (s.store.plan.rota j).port = p.val ∧
      ∃ k, (s.store.plan.rota j).kind = some k ∧ s.readyFor p k = true := by
  simp only [rotaReady_iff, exists_and_left]

theorem testAllowed_iff {s : State} : s.testAllowed = true ↔
    s.test.run = none ∧ s.test.owner = .none ∧ s.scan.thermal = .normal ∧ s.phase.phase = .outage ∧
      ∀ e ∈ s.sched.queue, (s.policy e.port).cls = 0 → e.u < 896 := by
  simp [State.testAllowed, and_assoc, imp_iff_not_or]

/-- Slot 0 is left free, or given the start of a test that is allowed, due and ready. -/
theorem fillTest_cases (s : State) : s.fillTest = s ∨ ∃ j p k, s.testAllowed = true ∧
    s.rotaReady j = some (p, k) ∧ s.fillTest = s.fill 0 .test p (some j) := by
  unfold State.fillTest
  split
  · next allowed =>
    split
    · next j _ =>
      split
      · next p k ready => exact .inr ⟨j, p, k, allowed, ready, rfl⟩
      · exact .inl rfl
    · exact .inl rfl
  · exact .inl rfl

/-- The first test that is due and ready takes slot 0, where one is allowed. -/
theorem fillTest_first {s : State} {j : Fin 16} {p : Fin 48} {k : TestKind} (allowed : s.testAllowed = true)
    (ready : s.rotaReady j = some (p, k)) (first : ∀ i, i < j → s.rotaReady i = none) :
    s.fillTest = s.fill 0 .test p (some j) := by
  have found : s.rotaFirst = some j := find_finRange (by rw [ready]; rfl) fun i hi => by rw [first i hi]; rfl
  unfold State.fillTest
  rw [if_pos allowed, found]
  dsimp only
  rw [ready]

/-! ## The feed count with the starts placed -/

/-- The feeds, and the feed starts placed (R87, R96). -/
def State.feedTotal (t : State) : Nat := t.feedingCount + t.sched.slots.val.countP fun x => x.action = .feed

theorem tab_list {α : Type} {n : Nat} (t : Tab α n) : t.val = (List.finRange n).map t.get :=
  List.ext_getElem (by simp [t.property]) fun i _ _ => by simp [Tab.get]

theorem feedTotal_eq (t : State) : t.feedTotal =
    t.feedingCount + (List.finRange 4).countP fun i => (t.sched.slots.get i).action = .feed := by
  unfold State.feedTotal
  rw [tab_list, List.countP_map]
  rfl

theorem Filling.feedingCount {s t : State} (h : Filling s t) : t.feedingCount = s.feedingCount :=
  feedingCount_congr fun p => by rw [h.marking.port p]

theorem Filling.content {s t : State} (h : Filling s t) {i : Fin 4} (full : (t.sched.slots.get i).action ≠ .none) :
    ∃ p, s.SlotFilled i p (t.sched.slots.get i) :=
  (h.slots i).resolve_left fun empty => full (by rw [empty])

/-- A test start stands in slot 0, and is that of a test that is due and ready. -/
theorem Filling.test {s t : State} (h : Filling s t) {i : Fin 4} (test : (t.sched.slots.get i).action = .test) :
    i = 0 ∧ s.testAllowed = true ∧ ∃ j p k, s.rotaReady j = some (p, k) := by
  obtain ⟨p, filled⟩ := h.content (by rw [test]; nofun)
  obtain ⟨first, allowed, j, k, -, ready⟩ := filled.test test
  exact ⟨first, allowed, j, p, k, ready⟩

theorem fill_slot (t : State) (i j : Fin 4) (a : SlotAction) (p : Fin 48) (r : Option (Fin 16)) :
    (t.fill i a p r).sched.slots.get j =
      if j = i then { action := a, port := some p, rota := r } else t.sched.slots.get j := by
  rw [fill_sched]
  exact Tab.get_set ..

theorem feedTotal_fill {t : State} {i : Fin 4} (free : (t.sched.slots.get i).action = .none) (a : SlotAction)
    (p : Fin 48) (r : Option (Fin 16)) :
    (t.fill i a p r).feedTotal = t.feedTotal + if a = .feed then 1 else 0 := by
  have count : (t.fill i a p r).feedingCount = t.feedingCount :=
    feedingCount_congr fun q => by rw [(fill_marking t i a p r).port q]
  have unfed : t.sched.slots.val[i.val]'(by rw [t.sched.slots.property]; exact i.isLt) = t.sched.slots.get i := rfl
  unfold State.feedTotal
  rw [count, fill_sched]
  show _ + (t.sched.slots.val.set i.val _).countP _ = _
  rw [List.countP_set (by rw [t.sched.slots.property]; exact i.isLt), unfed, free]
  simp [Nat.add_assoc]

/-! ## One entry of the queue (R96) -/

/-- The start a port is given: a wake for SLEEP and ABSENT, a feed for RUN and LOW. -/
def State.workFor (s : State) (p : Fin 48) : SlotAction :=
  if (s.port p).status = .sleep ∨ (s.port p).status = .absent then .wake else .feed

/-- The slots below this number take the port's start. -/
def State.workBound (s : State) (p : Fin 48) : Nat :=
  if (s.port p).status = .sleep ∨ (s.port p).status = .absent then 2 else 4

/-- A start of the port may be placed: its condition, the hold signal and the feed limit allow it. -/
abbrev State.MayPlace (t : State) (p : Fin 48) : Prop :=
  t.condition p = true ∧ t.acct.hold = false ∧ t.feedTotal < t.header.feedLimit

/-- The walk's work on one entry of the queue. -/
def State.place (t : State) (e : QueueEntry) : State :=
  if t.MayPlace e.port then
    match t.freeSlot (t.workBound e.port) with
    | some i => t.fill i (t.workFor e.port) e.port none
    | none => t
  else t

theorem find_finRange_iff {n : Nat} {P : Fin n → Bool} {i : Fin n} :
    (List.finRange n).find? P = some i ↔ P i = true ∧ ∀ j, j < i → P j = false := by
  refine ⟨fun h => ⟨List.find?_some h, fun j hj => ?_⟩, fun h => find_finRange h.1 h.2⟩
  obtain ⟨-, k, hk, hki, before⟩ := List.find?_eq_some_iff_getElem.mp h
  rw [List.getElem_finRange] at hki
  have skipped := before j.val (by rw [← hki] at hj; exact hj)
  rwa [List.getElem_finRange, Bool.not_eq_true'] at skipped

theorem freeSlot_eq_some {t : State} {b : Nat} {i : Fin 4} : t.freeSlot b = some i ↔
    i.val < b ∧ (t.sched.slots.get i).action = .none ∧ ∀ j, j < i → (t.sched.slots.get j).action ≠ .none := by
  unfold State.freeSlot
  rw [find_finRange_iff, Bool.and_eq_true, decide_eq_true_eq, decide_eq_true_eq, and_assoc]
  refine and_congr_right fun bound => and_congr_right fun _ => forall₂_congr fun j hj => ?_
  rw [decide_eq_true (lt_trans (show j.val < i.val from hj) bound), Bool.true_and, decide_eq_false_iff_not]

theorem place_filled {t : State} {e : QueueEntry} {i : Fin 4} (may : t.MayPlace e.port)
    (free : t.freeSlot (t.workBound e.port) = some i) :
    t.place e = t.fill i (t.workFor e.port) e.port none := by
  unfold State.place
  rw [if_pos may, free]

theorem place_kept {t : State} {e : QueueEntry}
    (h : ¬t.MayPlace e.port ∨ t.freeSlot (t.workBound e.port) = none) : t.place e = t := by
  unfold State.place
  split
  · next may => rw [h.resolve_left (not_not_intro may)]
  · rfl

/-- An entry is given the lowest free slot of its kind, or nothing changes. -/
theorem place_cases (t : State) (e : QueueEntry) : t.place e = t ∨ ∃ i, t.MayPlace e.port ∧
    t.freeSlot (t.workBound e.port) = some i ∧ t.place e = t.fill i (t.workFor e.port) e.port none := by
  by_cases h : ¬t.MayPlace e.port ∨ t.freeSlot (t.workBound e.port) = none
  · exact .inl (place_kept h)
  · obtain ⟨may, free⟩ := not_or.mp h
    obtain ⟨i, hi⟩ := Option.ne_none_iff_exists'.mp free
    exact .inr ⟨i, not_not.mp may, hi, place_filled (not_not.mp may) hi⟩

/-- The walk's feed count is `feedTotal`, so the walk places entry by entry. -/
theorem walk_cons (e : QueueEntry) (rest : List QueueEntry) (t : State) :
    State.walk (e :: rest) t.feedTotal t = State.walk rest (t.place e).feedTotal (t.place e) := by
  rw [State.walk]
  split
  · next skip =>
    have kept : ¬t.MayPlace e.port := fun ⟨cond, hold, limit⟩ => by simp [cond, hold, limit.not_ge] at skip
    rw [place_kept (.inl kept)]
  · next go =>
    have may : t.MayPlace e.port := by simpa [State.MayPlace, and_assoc] using go
    split
    · next wakes =>
      have bound : t.workBound e.port = 2 := if_pos wakes
      have work : t.workFor e.port = .wake := if_pos wakes
      split
      · next i free =>
        rw [place_filled may (by rw [bound]; exact free), feedTotal_fill (freeSlot_eq_some.mp free).2.1, work]
        rfl
      · next full => rw [place_kept (.inr (by rw [bound]; exact full))]
    · next feeds =>
      have bound : t.workBound e.port = 4 := if_neg feeds
      have work : t.workFor e.port = .feed := if_neg feeds
      split
      · next i free =>
        rw [place_filled may (by rw [bound]; exact free), feedTotal_fill (freeSlot_eq_some.mp free).2.1, work]
        rfl
      · next full => rw [place_kept (.inr (by rw [bound]; exact full))]

theorem walk_eq_foldl (l : List QueueEntry) :
    ∀ t : State, State.walk l t.feedTotal t = l.foldl State.place t := by
  induction l with
  | nil => exact fun _ => rfl
  | cons e rest ih => exact fun t => (walk_cons e rest t).trans (ih _)

/-- A start is a wake or a feed, and a wake has the first two slots. -/
theorem workFor_cases (s : State) (p : Fin 48) :
    s.workFor p = .wake ∧ s.workBound p = 2 ∨ s.workFor p = .feed ∧ s.workBound p = 4 := by
  unfold State.workFor State.workBound
  split
  · exact .inl ⟨rfl, rfl⟩
  · exact .inr ⟨rfl, rfl⟩

/-- A feed or wake start is neither a free slot nor a test start. -/
theorem start_ne {a : SlotAction} (start : a = .feed ∨ a = .wake) : a ≠ .none ∧ a ≠ .test := by
  rcases start with rfl | rfl <;> exact ⟨nofun, nofun⟩

theorem workFor_ne (s : State) (p : Fin 48) : s.workFor p ≠ .none ∧ s.workFor p ≠ .test :=
  start_ne ((workFor_cases s p).symm.imp And.left And.left)

/-! ## What later entries leave -/

/-- From `m` to `t` slots have been given content for entries of `later`; a slot with content has stayed. -/
def Grown (later : List QueueEntry) (m t : State) : Prop :=
  ∀ i, t.sched.slots.get i = m.sched.slots.get i ∨ (m.sched.slots.get i).action = .none ∧
    (t.sched.slots.get i).action ≠ .test ∧ ∃ d ∈ later, (t.sched.slots.get i).port = some d.port

theorem place_grown (t : State) (e : QueueEntry) : Grown [e] t (t.place e) := by
  intro i
  rcases place_cases t e with kept | ⟨j, -, free, placed⟩
  · exact .inl (by rw [kept])
  · rw [placed, fill_slot]
    split
    · next h =>
      subst h
      exact .inr ⟨(freeSlot_eq_some.mp free).2.1, (workFor_ne t e.port).2, e, List.mem_singleton_self e, rfl⟩
    · exact .inl rfl

/-- Content stays. -/
theorem Grown.kept {l : List QueueEntry} {m t : State} (h : Grown l m t) {i : Fin 4}
    (full : (m.sched.slots.get i).action ≠ .none) : t.sched.slots.get i = m.sched.slots.get i :=
  (h i).resolve_right fun ⟨free, _⟩ => full free

theorem Grown.mono {k l : List QueueEntry} {m t : State} (h : Grown k m t) (sub : k ⊆ l) : Grown l m t :=
  fun i => (h i).imp_right fun ⟨free, untested, d, hd, hp⟩ => ⟨free, untested, d, sub hd, hp⟩

theorem Grown.trans {k l : List QueueEntry} {m t u : State} (h : Grown k m t) (h' : Grown l t u) :
    Grown (k ++ l) m u := by
  intro i
  rcases h' i with same | ⟨free, untested, d, hd, hp⟩
  · rw [same]
    exact h.mono (List.subset_append_left k l) i
  · refine .inr ⟨?_, untested, d, List.mem_append_right k hd, hp⟩
    rcases h i with same | ⟨free', -⟩
    · rwa [← same]
    · exact free'

theorem Grown.fold (l : List QueueEntry) : ∀ t : State, Grown l t (l.foldl State.place t) := by
  induction l with
  | nil => exact fun _ _ => .inl rfl
  | cons e rest ih => exact fun t => (place_grown t e).trans (ih (t.place e))

/-! ## The fill with the entries seen so far -/

/-- The fill of the slots of `s`, with the test of slot 0 tried and the entries `seen` walked: which entries are still
queued, whose starts have been placed, where wakes stand, and the feed limit. -/
structure Walked (s : State) (seen : List QueueEntry) (t : State) : Prop where
  filling : Filling s t
  queued : ∀ e, e ∈ t.sched.queue ↔ e ∈ s.sched.queue ∧ ∀ i, (t.sched.slots.get i).port ≠ some e.port
  work : ∀ i p, (t.sched.slots.get i).port = some p → (t.sched.slots.get i).action ≠ .test →
    (s.condition p = true ∧ s.acct.hold = false) ∧ ∃ e ∈ seen, e.port = p
  wake : ∀ i, (t.sched.slots.get i).action = .wake → i.val < 2
  feeds : t.feedTotal ≤ max s.feedingCount s.header.feedLimit

namespace Walked

variable {s t : State} {seen : List QueueEntry}

theorem mono (h : Walked s seen t) {more : List QueueEntry} (sub : seen ⊆ more) : Walked s more t :=
  { h with work := fun i p hp hn => (h.work i p hp hn).imp_right fun ⟨e, he, hep⟩ => ⟨e, sub he, hep⟩ }

theorem mayPlace_iff (h : Walked s seen t) (p : Fin 48) : t.MayPlace p ↔
    s.condition p = true ∧ s.acct.hold = false ∧ t.feedTotal < s.header.feedLimit := by
  have kept := h.filling.marking
  rw [State.MayPlace, condition_congr kept.store kept.phase (by rw [kept.scan]), kept.acct, header_congr kept.store]

theorem workFor_eq (h : Walked s seen t) (p : Fin 48) : t.workFor p = s.workFor p := by
  unfold State.workFor
  rw [h.filling.marking.port p]

theorem workBound_eq (h : Walked s seen t) (p : Fin 48) : t.workBound p = s.workBound p := by
  unfold State.workBound
  rw [h.filling.marking.port p]

/-- A slot without content is still as the round start left it. -/
theorem free_port (h : Walked s seen t) {i : Fin 4} (free : (t.sched.slots.get i).action = .none) :
    (t.sched.slots.get i).port = none := by
  rcases h.filling.slots i with empty | ⟨p, filled⟩
  · rw [empty]
  · exact absurd free filled.action

/-- A feed or wake start stands in a slot only with the hold signal off. -/
theorem hold_off (h : Walked s seen t) {i : Fin 4} (start : (t.sched.slots.get i).action = .feed ∨
    (t.sched.slots.get i).action = .wake) : s.acct.hold = false := by
  obtain ⟨full, untest⟩ := start_ne start
  obtain ⟨p, filled⟩ := h.filling.content full
  exact (h.work i p filled.port untest).1.2

/-- Slots before any is filled. -/
theorem start (h : s.sched.slots = Tab.fill 4 {}) : Walked s [] s := by
  have empty (i : Fin 4) : s.sched.slots.get i = {} := by rw [h]; exact Tab.get_fill ..
  refine ⟨.start h, fun e => ⟨fun he => ⟨he, fun i => ?_⟩, And.left⟩, fun i p hp => ?_, fun i hw => ?_, ?_⟩
  · rw [empty]; nofun
  · rw [empty] at hp; cases hp
  · rw [empty] at hw; cases hw
  · have unfed : s.feedTotal = s.feedingCount := by
      rw [feedTotal_eq, List.countP_eq_zero.mpr fun i _ => by rw [empty]; decide, Nat.add_zero]
    exact unfed.le.trans (le_max_left _ _)

/-- A free slot given content. -/
theorem fill (h : Walked s seen t) {i : Fin 4} {a : SlotAction} {p : Fin 48} {r : Option (Fin 16)}
    (free : (t.sched.slots.get i).action = .none)
    (filled : s.SlotFilled i p { action := a, port := some p, rota := r })
    (work : a ≠ .test → (s.condition p = true ∧ s.acct.hold = false) ∧ ∃ e ∈ seen, e.port = p)
    (wake : a = .wake → i.val < 2) (feed : a = .feed → t.feedTotal < s.header.feedLimit) :
    Walked s seen (t.fill i a p r) where
  filling := h.filling.fill filled
  queued e := by
    rw [fill_sched]
    simp only [List.mem_filter, h.queued e, decide_eq_true_eq, Tab.get_set, and_assoc]
    refine and_congr_right fun _ => ⟨fun ⟨unplaced, other⟩ j => ?_, fun unplaced => ⟨fun j => ?_, ?_⟩⟩
    · split
      · exact fun same => other (Option.some_inj.mp same).symm
      · exact unplaced j
    · by_cases hj : j = i
      · rw [hj, h.free_port free]; nofun
      · have later := unplaced j
        rwa [if_neg hj] at later
    · have here := unplaced i
      rw [if_pos rfl] at here
      exact fun same => here (congrArg some same.symm)
  work j q := by
    rw [fill_slot]
    split
    · intro hq
      cases hq
      exact work
    · exact h.work j q
  wake j := by
    rw [fill_slot]
    split
    · next hj => exact hj ▸ wake
    · exact h.wake j
  feeds := by
    rw [feedTotal_fill free]
    split
    · next fed => exact (Nat.succ_le_of_lt (feed fed)).trans (le_max_right _ _)
    · exact h.feeds

/-- The test of slot 0 tried. -/
theorem fillTest (h : s.sched.slots = Tab.fill 4 {}) : Walked s [] s.fillTest := by
  rcases fillTest_cases s with kept | ⟨j, p, k, allowed, ready, placed⟩
  · rw [kept]; exact .start h
  · rw [placed]
    exact (Walked.start h).fill (by rw [h, Tab.get_fill])
      ⟨rfl, rfl, nofun, fun _ => ⟨rfl, allowed, j, k, rfl, ready⟩, fun no => absurd rfl no⟩
      (fun no => absurd rfl no) nofun nofun

/-- One entry of the queue walked. -/
theorem place (h : Walked s seen t) {e : QueueEntry} (he : e ∈ s.sched.queue) :
    Walked s (seen ++ [e]) (t.place e) := by
  have more := h.mono (List.subset_append_left seen [e])
  rcases place_cases t e with kept | ⟨i, may, free, placed⟩
  · rwa [kept]
  · obtain ⟨cond, hold, limit⟩ := (h.mayPlace_iff _).mp may
    obtain ⟨bound, free, -⟩ := freeSlot_eq_some.mp free
    have start : (s.condition e.port = true ∧ s.acct.hold = false) ∧ ∃ d ∈ seen ++ [e], d.port = e.port :=
      ⟨⟨cond, hold⟩, e, by simp, rfl⟩
    rw [placed]
    rcases workFor_cases t e.port with ⟨work, slots⟩ | ⟨work, -⟩
    · rw [work]
      exact more.fill free ⟨rfl, rfl, nofun, nofun, fun _ => ⟨e, he, rfl⟩⟩ (fun _ => start)
        (fun _ => slots ▸ bound) nofun
    · rw [work]
      exact more.fill free ⟨rfl, rfl, nofun, nofun, fun _ => ⟨e, he, rfl⟩⟩ (fun _ => start) nofun fun _ => limit

/-- Entries of the queue walked. -/
theorem fold (l : List QueueEntry) (hl : ∀ e ∈ l, e ∈ s.sched.queue) :
    ∀ (seen : List QueueEntry) (t : State), Walked s seen t → Walked s (seen ++ l) (l.foldl State.place t) := by
  induction l with
  | nil => exact fun seen t h => by rwa [List.append_nil]
  | cons e rest ih =>
    intro seen t h
    have later := ih (fun d hd => hl d (List.mem_cons_of_mem e hd)) _ _ (h.place (hl e List.mem_cons_self))
    rwa [List.append_assoc] at later

end Walked

/-! ## The whole fill -/

/-- The slots filled, before those without content are EMPTY. -/
def State.placed (s : State) : State := s.fillTest.sched.queue.foldl State.place s.fillTest

theorem placed_grown (s : State) : Grown s.fillTest.sched.queue s.fillTest s.placed := .fold _ _

theorem emptySlots_slot (t : State) (i : Fin 4) : t.emptySlots.sched.slots.get i =
    if (t.sched.slots.get i).action = .none then { t.sched.slots.get i with outcome := some .empty }
    else t.sched.slots.get i := Tab.get_map ..

theorem emptySlots_action (t : State) (i : Fin 4) :
    (t.emptySlots.sched.slots.get i).action = (t.sched.slots.get i).action := by
  rw [emptySlots_slot]; split <;> rfl

theorem emptySlots_port (t : State) (i : Fin 4) :
    (t.emptySlots.sched.slots.get i).port = (t.sched.slots.get i).port := by
  rw [emptySlots_slot]; split <;> rfl

/-- The test start that slot 0 is given is there at the end. -/
theorem placed_test {s : State} {p : Fin 48} {j : Fin 16} (test : s.fillTest = s.fill 0 .test p (some j)) :
    s.placed.sched.slots.get 0 = { action := .test, port := some p, rota := some j } := by
  have start : s.fillTest.sched.slots.get 0 = { action := .test, port := some p, rota := some j } := by
    rw [test, fill_slot, if_pos rfl]
  rw [(placed_grown s).kept (by rw [start]; nofun), start]

section
variable {s : State} (h : s.sched.slots = Tab.fill 4 {})
include h

/-- A test start placed is not a feed start. -/
theorem fillTest_feedTotal : s.fillTest.feedTotal = s.fillTest.feedingCount := by
  have unfed (i : Fin 4) : (s.fillTest.sched.slots.get i).action ≠ .feed := fun fed => by
    obtain ⟨p, filled⟩ := (Walked.fillTest h).filling.content (by rw [fed]; nofun)
    obtain ⟨-, e, he, -⟩ := (Walked.fillTest h).work i p filled.port (by rw [fed]; nofun)
    cases he
  rw [feedTotal_eq, List.countP_eq_zero.mpr fun i _ => by simpa using unfed i, Nat.add_zero]

theorem fillSlots_eq : s.fillSlots = s.placed.emptySlots := by
  unfold State.fillSlots State.placed
  rw [← walk_eq_foldl, fillTest_feedTotal h]

theorem placed_walked : Walked s s.sched.queue s.placed := by
  have test := Walked.fillTest h
  exact (Walked.fold _ test.filling.queue _ _ test).mono fun e he => test.filling.queue e he

/-- The first test that is due and ready has slot 0, and its port no other slot. -/
theorem placed_first {j : Fin 16} {p : Fin 48} {k : TestKind} (allowed : s.testAllowed = true)
    (ready : s.rotaReady j = some (p, k)) (first : ∀ i, i < j → s.rotaReady i = none) :
    s.placed.sched.slots.get 0 = { action := .test, port := some p, rota := some j } ∧
      ∀ i, i ≠ 0 → (s.placed.sched.slots.get i).port ≠ some p := by
  have test := fillTest_first allowed ready first
  have slot (i : Fin 4) : s.fillTest.sched.slots.get i =
      if i = 0 then { action := .test, port := some p, rota := some j } else {} := by
    rw [test, fill_slot, h, Tab.get_fill]
  refine ⟨placed_test test, fun i hi hp => ?_⟩
  rcases placed_grown s i with same | ⟨-, -, d, hd, hdp⟩
  · rw [same, slot, if_neg hi] at hp; cases hp
  · refine (((Walked.fillTest h).queued d).mp hd).2 0 ?_
    rw [slot, if_pos rfl, ← hdp, hp]

end

/-! ## The walk seen from one entry -/

/-- The fill `t` of the slots of `s`, seen from entry `e` of the queue: `m` is the state that the walk comes to `e` in,
after entries of `before`; the rest of the fill is that of entries of `after`. -/
structure PlacedAt (s : State) (before : List QueueEntry) (e : QueueEntry) (after : List QueueEntry) (m t : State) :
    Prop where
  walked : Walked s before m
  later : Grown after (m.place e) t
  earlier : ∀ d ∈ before, d.port ≠ e.port ∧ ∀ d' ∈ after, d'.port ≠ d.port
  follow : ∀ d ∈ after, d.port ≠ e.port
  untested : ¬((t.sched.slots.get 0).action = .test ∧ (t.sched.slots.get 0).port = some e.port)

/-- The slot's port is that of an entry of a list. -/
def State.holds (t : State) (l : List QueueEntry) (i : Fin 4) : Bool :=
  l.any fun d => (t.sched.slots.get i).port = some d.port

theorem State.holds_iff {t : State} {l : List QueueEntry} {i : Fin 4} :
    t.holds l i = true ↔ ∃ d ∈ l, (t.sched.slots.get i).port = some d.port := by
  simp [State.holds]

/-- An entry whose port has no test start in slot 0 is still queued after the test, between others of its sides. -/
theorem fillTest_split {s : State} {before after : List QueueEntry} {e : QueueEntry}
    (hq : s.sched.queue = before ++ e :: after)
    (untested : ¬((s.placed.sched.slots.get 0).action = .test ∧ (s.placed.sched.slots.get 0).port = some e.port)) :
    ∃ b a, s.fillTest.sched.queue = b ++ e :: a ∧ b ⊆ before ∧ a ⊆ after := by
  rcases fillTest_cases s with kept | ⟨j, p, k, -, -, test⟩
  · exact ⟨before, after, by rw [kept, hq], fun _ => id, fun _ => id⟩
  · have other : e.port ≠ p := fun same => untested (by rw [placed_test test, same]; exact ⟨rfl, rfl⟩)
    refine ⟨before.filter fun d => d.port ≠ p, after.filter fun d => d.port ≠ p, ?_, List.filter_subset_self _,
      List.filter_subset_self _⟩
    rw [test, fill_sched, hq, List.filter_append, List.filter_cons_of_pos (by simpa using other)]

/-- An entry whose port has no test start in slot 0 is walked. -/
theorem placedAt {s : State} (h : s.sched.slots = Tab.fill 4 {}) (nodup : (s.sched.queue.map (·.port)).Nodup)
    {before after : List QueueEntry} {e : QueueEntry} (hq : s.sched.queue = before ++ e :: after)
    (untested : ¬((s.placed.sched.slots.get 0).action = .test ∧ (s.placed.sched.slots.get 0).port = some e.port)) :
    ∃ m, PlacedAt s before e after m s.placed := by
  obtain ⟨b, a, walked, hb, ha⟩ := fillTest_split hq untested
  have test := Walked.fillTest h
  have seen : ∀ d ∈ b, d ∈ s.sched.queue := fun d hd => test.filling.queue d (by simp [walked, hd])
  rw [hq, List.map_append, List.map_cons, List.nodup_append, List.nodup_cons] at nodup
  obtain ⟨-, ⟨single, -⟩, apart⟩ := nodup
  refine ⟨b.foldl State.place s.fillTest, (Walked.fold b seen _ _ test).mono hb, ?_, fun d hd => ?_, ?_, untested⟩
  · have rest := Grown.fold a ((b.foldl State.place s.fillTest).place e)
    have last : s.placed = a.foldl State.place ((b.foldl State.place s.fillTest).place e) := by
      unfold State.placed
      rw [walked, List.foldl_append, List.foldl_cons]
    rw [last]
    exact rest.mono ha
  · have distinct := apart d.port (List.mem_map_of_mem hd)
    exact ⟨distinct _ List.mem_cons_self, fun d' hd' same =>
      distinct _ (List.mem_cons_of_mem _ (List.mem_map_of_mem hd')) same.symm⟩
  · exact fun d hd same => single (List.mem_map.mpr ⟨d, hd, same⟩)

namespace PlacedAt

variable {s m t : State} {before after : List QueueEntry} {e : QueueEntry}

theorem grown (h : PlacedAt s before e after m t) : Grown (e :: after) m t := (place_grown m e).trans h.later

/-- What the walk finds taken at its entry is, in the end, the test start and the starts of entries before. -/
theorem taken_iff (h : PlacedAt s before e after m t) (i : Fin 4) :
    ((t.sched.slots.get i).action = .test ∨ t.holds before i = true) ↔ (m.sched.slots.get i).action ≠ .none := by
  rw [State.holds_iff]
  constructor
  · intro taken free
    rcases h.grown i with same | ⟨-, untest, d, hd, hp⟩
    · rw [same, free, h.walked.free_port free] at taken
      simp at taken
    · obtain ⟨d', hd', hp'⟩ := taken.resolve_left untest
      obtain ⟨own, others⟩ := h.earlier d' hd'
      have same : d.port = d'.port := Option.some_inj.mp (hp.symm.trans hp')
      rcases List.mem_cons.mp hd with rfl | hd
      · exact own same.symm
      · exact others d hd same
  · intro full
    rw [h.grown.kept full]
    refine or_iff_not_imp_left.mpr fun untest => ?_
    obtain ⟨p, filled⟩ := h.walked.filling.content full
    obtain ⟨-, d, hd, rfl⟩ := h.walked.work i p filled.port untest
    exact ⟨d, hd, filled.port⟩

/-- The walk's feed count at its entry: the feeds, and the feed starts of entries before. -/
theorem feeds (h : PlacedAt s before e after m t) :
    s.feedingCount + (List.finRange 4).countP (fun i => (t.sched.slots.get i).action = .feed && t.holds before i) =
      m.feedTotal := by
  rw [feedTotal_eq, h.walked.filling.feedingCount]
  refine congrArg _ (List.countP_congr fun i _ => ?_)
  rw [Bool.and_eq_true, decide_eq_true_eq, decide_eq_true_eq]
  constructor
  · rintro ⟨fed, held⟩
    rwa [← h.grown.kept ((h.taken_iff i).mp (.inr held))]
  · intro fed
    have full : (m.sched.slots.get i).action ≠ .none := by rw [fed]; nofun
    rw [← h.grown.kept full] at fed
    exact ⟨fed, ((h.taken_iff i).mpr full).resolve_left (by rw [fed]; nofun)⟩

theorem mayPlace_iff (h : PlacedAt s before e after m t) : m.MayPlace e.port ↔
    s.condition e.port = true ∧ s.acct.hold = false ∧ s.feedingCount + (List.finRange 4).countP (fun i =>
      (t.sched.slots.get i).action = .feed && t.holds before i) < s.header.feedLimit := by
  rw [h.feeds, h.walked.mayPlace_iff]

/-- The slot the walk gives its entry, if it may. -/
theorem slot (h : PlacedAt s before e after m t) {i : Fin 4} (may : m.MayPlace e.port)
    (free : m.freeSlot (s.workBound e.port) = some i) :
    t.sched.slots.get i = { action := s.workFor e.port, port := some e.port } := by
  have placed : (m.place e).sched.slots.get i = { action := s.workFor e.port, port := some e.port } := by
    rw [place_filled may (by rwa [h.walked.workBound_eq]), h.walked.workFor_eq, fill_slot, if_pos rfl]
  rw [h.later.kept (by rw [placed]; exact (workFor_ne s e.port).1), placed]

/-- An entry that the walk gives no slot has none at the end. -/
theorem unplaced (h : PlacedAt s before e after m t)
    (no : ¬m.MayPlace e.port ∨ m.freeSlot (s.workBound e.port) = none) (i : Fin 4) :
    (t.sched.slots.get i).port ≠ some e.port := by
  intro hp
  have later := h.later
  rw [place_kept (by rwa [h.walked.workBound_eq])] at later
  rcases later i with same | ⟨-, -, d, hd, hdp⟩
  · rw [same] at hp
    by_cases test : (m.sched.slots.get i).action = .test
    · obtain ⟨rfl, -⟩ := h.walked.filling.test test
      exact h.untested (by rw [same]; exact ⟨test, hp⟩)
    · obtain ⟨-, d, hd, same⟩ := h.walked.work i _ hp test
      exact (h.earlier d hd).1 same
  · exact h.follow d hd (Option.some_inj.mp (hdp.symm.trans hp))

end PlacedAt

/-! ## The slots in the end -/

theorem emptySlots_feedTotal (t : State) : t.emptySlots.feedTotal = t.feedTotal := by
  simp only [feedTotal_eq, emptySlots_action]
  rfl

/-- A slot without content is EMPTY, and one with content unresolved. -/
theorem Filling.outcome {s t : State} (h : Filling s t) (i : Fin 4) : (t.emptySlots.sched.slots.get i).outcome =
    if (t.sched.slots.get i).action = .none then some .empty else none := by
  rw [emptySlots_slot]
  split
  · rfl
  · next full =>
    obtain ⟨p, filled⟩ := h.content full
    exact filled.outcome

/-- A port that stands in a slot has left the queue. -/
theorem Walked.unqueued {s t : State} {seen : List QueueEntry} (h : Walked s seen t) {i : Fin 4} {p : Fin 48}
    (hp : (t.sched.slots.get i).port = some p) : t.queued p = false := by
  refine List.any_eq_false.mpr fun e he same => ((h.queued e).mp he).2 i ?_
  rw [hp, of_decide_eq_true same]

/-- Settles O43: the test of slot 0, then the walk over the queue seen from each of its entries. -/
theorem fillRespectsFeedLimit : Obligations.FillRespectsFeedLimit := by
  intro s h t slot ready due free
  have ht : t = s.placed.emptySlots := fillSlots_eq h
  have walked := placed_walked h
  have action (i : Fin 4) : (slot i).action = (s.placed.sched.slots.get i).action := by
    simp only [slot, ht, emptySlots_action]
  have port (i : Fin 4) : (slot i).port = (s.placed.sched.slots.get i).port := by
    simp only [slot, ht, emptySlots_port]
  have content (i : Fin 4) (full : (s.placed.sched.slots.get i).action ≠ .none) :
      slot i = s.placed.sched.slots.get i := by
    simp only [slot, ht, emptySlots_slot, if_neg full]
  have queue : t.sched.queue = s.placed.sched.queue := by rw [ht]; rfl
  have unqueued (i : Fin 4) (p : Fin 48) (hp : (slot i).port = some p) : t.queued p = false := by
    rw [port] at hp
    rw [ht]
    exact walked.unqueued hp
  have ready_iff (p : Fin 48) (k : TestKind) : s.readyFor p k = true ↔ ready p k := readyFor_kind
  have due_iff (j : Fin 16) (p : Fin 48) : due j p ↔ ∃ k, s.rotaReady j = some (p, k) := by
    simp only [rotaDue_iff, ready_iff, due]
  refine ⟨fun allowed j p hj first => ?_, fun test => ?_, fun nodup before e after hq => ?_, ?_, fun i wake => ?_,
    fun i test => ?_, fun hold i => ?_, fun i => ?_,
    fun i p hp => ⟨unqueued i p hp, fun start => ?_⟩, (fillSlots_filled h).marking.sameBut⟩
  · obtain ⟨k, hk⟩ := (due_iff j p).mp hj
    have none (i : Fin 16) (hi : i < j) : s.rotaReady i = none :=
      Option.eq_none_iff_forall_ne_some.mpr fun ⟨q, l⟩ hr => first i q hi ((due_iff i q).mpr ⟨l, hr⟩)
    obtain ⟨zero, others⟩ := placed_first h (testAllowed_iff.mpr allowed) hk none
    exact ⟨by rw [content 0 (by rw [zero]; nofun), zero], fun i hi => by rw [port]; exact others i hi⟩
  · obtain ⟨-, allowed, j, p, k, hk⟩ := walked.filling.test ((action 0).symm.trans test)
    exact ⟨testAllowed_iff.mp allowed, j, p, (due_iff j p).mpr ⟨k, hk⟩⟩
  · intro p x tested held taken wakes bound feeds may
    have walk (untested : ¬tested) : ∃ m, PlacedAt s before e after m s.placed ∧ (may ↔ m.MayPlace p) ∧
        ∀ i, taken i ↔ (m.sched.slots.get i).action ≠ .none := by
      obtain ⟨m, seen⟩ := placedAt h nodup hq (by rw [← action, ← port]; exact untested)
      refine ⟨m, seen, ?_, fun i => ?_⟩
      · rw [seen.mayPlace_iff]
        simp only [may, feeds, held, action, port]
        rfl
      · rw [← seen.taken_iff]
        simp only [taken, held, action, port]
        rfl
    refine ⟨fun test => unqueued 0 p test.2, fun untested allowed i hi free lower => ?_, fun untested no => ?_⟩
    · obtain ⟨m, seen, may_iff, taken_iff⟩ := walk untested
      have lowest : m.freeSlot (s.workBound p) = some i :=
        freeSlot_eq_some.mpr ⟨hi, not_not.mp ((taken_iff i).not.mp free), fun j hj => (taken_iff j).mp (lower j hj)⟩
      have given := seen.slot (may_iff.mp allowed) lowest
      rw [content i (by rw [given]; exact (workFor_ne s p).1), given]
      rfl
    · obtain ⟨m, seen, may_iff, taken_iff⟩ := walk untested
      have refused : ¬m.MayPlace p ∨ m.freeSlot (s.workBound p) = none :=
        no.imp may_iff.not.mp fun full => Option.eq_none_iff_forall_ne_some.mpr fun i found => by
          obtain ⟨hi, free, -⟩ := freeSlot_eq_some.mp found
          exact (taken_iff i).mp (full i hi) free
      have none := seen.unplaced refused
      exact ⟨by rw [queue]; exact (walked.queued e).mpr ⟨by simp [hq], none⟩, fun i => by rw [port]; exact none i⟩
  · have total : s.feedingCount + t.sched.slots.val.countP (fun x => x.action = .feed) = s.placed.feedTotal := by
      rw [← walked.filling.feedingCount, ← emptySlots_feedTotal, ht]
      rfl
    rw [total]
    exact walked.feeds
  · exact walked.wake i ((action i).symm.trans wake)
  · rw [(walked.filling.test ((action i).symm.trans test)).1]; rfl
  · have unstarted (work : (slot i).action = .feed ∨ (slot i).action = .wake) : False := by
      rw [action] at work
      have off := walked.hold_off work
      rw [hold] at off
      cases off
    exact ⟨fun fed => unstarted (.inl fed), fun woken => unstarted (.inr woken)⟩
  · rw [action, ← walked.filling.outcome i, ← ht]
  · rw [action] at start
    rw [port] at hp
    obtain ⟨⟨cond, -⟩, e, he, hep⟩ := walked.work i p hp (start_ne start).2
    exact ⟨List.any_eq_true.mpr ⟨e, he, decide_eq_true hep⟩, cond⟩

end Sys2Proof.Machine
end

section
/-! PROOFS. A port is TESTING exactly when the test channel is attached to it, at every step (R108; O6): each operation
keeps the attachment, and so does each command. -/

namespace Sys2Proof.Machine
open Sys2Proof

/-! ## The attachment kept -/

/-- From `s` to `t` the test channel stays attached to the port that is TESTING, if it was (R108). -/
structure AttachKept (s t : State) : Prop where
  keeps : s.AttachOk → t.AttachOk

theorem AttachKept.refl (s : State) : AttachKept s s := ⟨id⟩

theorem AttachKept.trans {s t u : State} (h : AttachKept s t) (k : AttachKept t u) : AttachKept s u :=
  ⟨k.keeps ∘ h.keeps⟩

theorem AttachKept.fold {α : Type} {f : State → α → State} (l : List α) (h : ∀ s a, AttachKept s (f s a))
    (s : State) : AttachKept s (l.foldl f s) := fold_keeps AttachKept.refl AttachKept.trans f l h s

theorem AttachKept.ite {s t u : State} {c : Prop} [Decidable c] (ht : c → AttachKept s t)
    (hu : ¬c → AttachKept s u) : AttachKept s (if c then t else u) := by
  split
  · next h => exact ht h
  · next h => exact hu h

theorem AttachKept.of_if {s t : State} {c : Prop} [Decidable c] (h : c → AttachKept s t) :
    AttachKept s (if c then t else s) := .ite h fun _ => .refl s

/-- The same ports are TESTING, and the same port is under test. -/
theorem AttachKept.of_testing {s t : State}
    (hp : ∀ p, (t.port p).action = .testing ↔ (s.port p).action = .testing)
    (hr : t.test.run.map (·.port) = s.test.run.map (·.port)) : AttachKept s t := by
  refine ⟨fun h p => ?_⟩
  rw [hp, hr]
  exact h p

theorem AttachKept.of_ports {s t : State} (hp : t.ports = s.ports)
    (hr : t.test.run.map (·.port) = s.test.run.map (·.port)) : AttachKept s t :=
  .of_testing (fun p => by rw [State.port, hp]; rfl) hr

/-- A list of parts without the ports and without the test unit. -/
def Part.sparesTests (l : List Part) : Bool := l.all fun b => b != .ports && b != .test

theorem Part.not_ports_of_spares {l : List Part} (h : Part.sparesTests l = true) : Part.ports ∉ l := fun hm => by
  simpa using List.all_eq_true.1 h _ hm

theorem Part.not_test_of_spares {l : List Part} (h : Part.sparesTests l = true) : Part.test ∉ l := fun hm => by
  simpa using List.all_eq_true.1 h _ hm

theorem AttachKept.of_only {l : List Part} {s t : State} (h : Only l s t)
    (hl : Part.sparesTests l = true) : AttachKept s t :=
  .of_ports (h.ports (Part.not_ports_of_spares hl)) (by rw [h.test (Part.not_test_of_spares hl)])

/-- Only ports change, none of them to TESTING or from it. -/
theorem AttachKept.of_records {l : List Part} {s t : State} (h : Only l s t) (ht : l.contains Part.test = false)
    (hp : ∀ p, (t.port p).action = .testing ↔ (s.port p).action = .testing) : AttachKept s t :=
  .of_testing hp (by rw [h.test (by simpa using ht)])

/-- One port changes, but neither to TESTING nor from it. -/
theorem AttachKept.of_record {l : List Part} {s t : State} {p : Fin 48} (h : Only l s t) (others : OtherPorts p s t)
    (hp : (t.port p).action = .testing ↔ (s.port p).action = .testing)
    (ht : l.contains Part.test = false) : AttachKept s t :=
  .of_records h ht fun q => if hq : q = p then hq ▸ hp else by rw [others q hq]

theorem setPort_attach (s : State) (p : Fin 48) {x : Port} (h : x.action = .testing ↔ (s.port p).action = .testing) :
    AttachKept s (s.setPort p x) :=
  .of_record (setPort_only s p x) (setPort_otherPorts s p x) (by rwa [port_setPort_same]) rfl

theorem setPort_markPort_attach (s : State) (p : Fin 48) {x : Port}
    (h : x.action = .testing ↔ (s.port p).action = .testing) : AttachKept s ((s.setPort p x).markPort p) :=
  (setPort_attach s p h).trans (.of_only (markPort_marking _ p).toOnly rfl)

/-- A port with no test on it stays without one. -/
theorem attachOk_unattached {s : State} (h : s.AttachOk) {p : Fin 48} (hp : (s.port p).action ≠ .testing) :
    s.test.run.map (·.port) ≠ some p := fun e => hp ((h p).2 e)

/-- With no test in progress no port is TESTING. -/
theorem attachOk_idle {s : State} (h : s.AttachOk) (hr : s.test.run = none) (p : Fin 48) :
    (s.port p).action ≠ .testing := fun e => by
  have := (h p).1 e
  rw [hr] at this
  cases this

/-! ## Feeds, wakes, marks and limits -/

theorem feedEnded_testing (x : Port) : x.feedEnded.action = .testing ↔ x.action = .testing := by
  unfold Port.feedEnded; split <;> simp_all

theorem wakeEnded_testing (x : Port) : x.wakeEnded.action = .testing ↔ x.action = .testing := by
  unfold Port.wakeEnded; split <;> simp_all

theorem endFeed_attach (s : State) (p : Fin 48) : AttachKept s (s.endFeed p) :=
  .of_records (endFeed_marking s p).toOnly rfl fun q => by
    rw [endFeed_port]; split
    · exact feedEnded_testing _
    · exact .rfl

theorem endWake_attach (s : State) (p : Fin 48) : AttachKept s (s.endWake p) :=
  .of_records (endWake_marking s p).toOnly rfl fun q => by
    rw [endWake_port]; split
    · exact wakeEnded_testing _
    · exact .rfl

theorem stopAll_attach (s : State) : AttachKept s s.stopAll :=
  .of_records (stopAll_marking s).toOnly rfl fun p => by
    rw [stopAll_port]; exact (wakeEnded_testing _).trans (feedEnded_testing _)

theorem askRetry_attach (s : State) (p : Fin 48) : AttachKept s (s.askRetry p) := by
  unfold State.askRetry
  exact .ite (fun _ => (setPort_attach s p (by rfl)).trans (.of_only (request_only ..) rfl)) fun _ => endWake_attach s p

theorem startFeed_attach {s : State} {p : Fin 48} (h : (s.port p).action ≠ .testing) :
    AttachKept s (s.startFeed p) :=
  setPort_markPort_attach s p (iff_of_false nofun h)

theorem startPulse_attach {s : State} {p : Fin 48} (h : (s.port p).action ≠ .testing) :
    AttachKept s (s.startPulse p) := by
  have begun : AttachKept s (s.pulseBegun p) :=
    .of_record (pulseBegun_moved s p).marking.toOnly (pulseBegun_moved s p).others (by
      rw [(pulseBegun_moved s p).port]; exact iff_of_false nofun h) rfl
  rw [startPulse_eq]
  exact .ite (fun _ => begun.trans (endWake_attach _ p)) fun _ => begun

theorem bar_attach {s : State} {p : Fin 48} (h : (s.port p).action ≠ .testing) (cause : Nat) :
    AttachKept s (s.bar p cause) :=
  (setPort_markPort_attach s p (by exact iff_of_false nofun h)).trans (.of_only (raise_only ..) rfl)

theorem lowResync_attach (s : State) (p : Fin 48) : AttachKept s (s.lowResync p) :=
  .of_record (lowResync_marking s p).toOnly (lowResync_otherPorts s p) (by
    rw [lowResync_port]; rfl) rfl

/-! ## The end of a test (R117) -/

theorem endTest_attach {s : State} {run : TestRun} (hr : s.test.run.map (·.port) = some run.port)
    (result : TestResult) (value : Nat) (span : Option (Nat × Nat)) :
    AttachKept s (s.endTest run result value span false) := by
  refine ⟨fun h p => ?_⟩
  have ended := endTest_ended s run result value span
  rw [ended.test]
  by_cases hp : p = run.port
  · rw [hp, ended.port]; exact iff_of_false nofun nofun
  · rw [ended.others p hp, h p, hr]
    exact iff_of_false (fun e => hp (Option.some.inj e).symm) nofun

theorem endTest_attach_of_run {s : State} {run : TestRun} (hr : s.test.run = some run) (result : TestResult)
    (value : Nat) (span : Option (Nat × Nat)) : AttachKept s (s.endTest run result value span false) :=
  endTest_attach (congrArg (Option.map (·.port)) hr) result value span

theorem abortTest_attach (s : State) (cause : AbortCause) : AttachKept s (s.abortTest cause false) := by
  cases hr : s.test.run with
  | none => rw [abortTest_none hr]; exact .refl s
  | some run => rw [abortTest_some hr]; exact endTest_attach_of_run hr ..

theorem testStatus_attach (s : State) (p : Fin 48) (status : TermStatus) :
    AttachKept s (s.testStatus p status) := by
  unfold State.testStatus
  split
  · next run hr =>
    refine .of_if fun _ => ?_
    split
    · exact .ite (fun _ => .refl s) fun _ => endTest_attach_of_run hr ..
    · split
      · exact .of_if fun _ => endTest_attach_of_run hr ..
      · exact .refl s
    · exact .refl s
  · exact .refl s

/-- A trip of the port under test ends the test without a detach (R118). -/
theorem endTest_tripped_attach {s t : State} {run : TestRun} (hr : s.test.run.map (·.port) = some run.port)
    (hp : (t.port run.port).action ≠ .testing) (others : OtherPorts run.port s t) (result : TestResult)
    (value : Nat) (span : Option (Nat × Nat)) (h : s.AttachOk) :
    (t.endTest run result value span true).AttachOk := by
  intro p
  have left : ((t.endTest run result value span true).port p).action = (t.port p).action := by
    show (((t.unrequest run.port).setPort run.port _).port p).action = _
    rw [port_setPort]
    split
    · next e => rw [e]; rfl
    · rfl
  rw [left]
  refine iff_of_false ?_ nofun
  by_cases e : p = run.port
  · rw [e]; exact hp
  · rw [others p e, h p, hr]
    exact fun e' => e (Option.some.inj e').symm

/-! ## The start of a test (R113) -/

theorem startTest_attach {s : State} (hr : s.test.run = none) (p : Fin 48) (kind : TestKind) (sup : Bool)
    (mins : Nat) (rota : Option (Fin 16)) : AttachKept s (s.startTest p kind sup mins rota) := by
  refine ⟨fun h q => ?_⟩
  have started := startTest_started s p kind sup mins rota
  rw [started.test_eq]
  show _ ↔ some p = some q
  by_cases hq : q = p
  · rw [hq]; exact iff_of_true (congrArg Port.action started.port_eq) rfl
  · rw [started.others q hq]
    exact iff_of_false (attachOk_idle h hr q) fun e => hq (Option.some.inj e).symm

theorem startTestPulse_attach (s : State) (p : Fin 48) : AttachKept s (s.startTestPulse p) := by
  unfold State.startTestPulse
  split
  · next run hr =>
    refine .of_if fun ⟨hp, ha⟩ => ?_
    subst hp
    dsimp only
    generalize hrun : { run with pulse := some s.clock, granted := some s.clock } = run'
    have port : run'.port = run.port := by rw [← hrun]
    have pulsed : AttachKept s (State.setPort { s with test := { s.test with run := some run' } } run.port
        { s.port run.port with switch := true }) := by
      refine AttachKept.trans (t := { s with test := { s.test with run := some run' } }) ?_ (setPort_attach _ _ (by rfl))
      exact .of_ports rfl (by rw [hr]; exact congrArg some port)
    exact .ite (fun _ => pulsed.trans (endTest_attach_of_run rfl ..)) fun _ => pulsed
  · exact .refl s

/-! ## A change of the plan in use, and a bank switch (R92, R148, R149) -/

theorem replan_testing (x : Port) (pol : Policy) : (x.replan pol).action = .testing ↔ x.action = .testing := by
  rw [replan_action]

theorem carry_attach (s : State) (old : PlanUse) : AttachKept s (s.carry old) := by
  refine .of_testing (fun p => ?_) ?_
  · rw [carry_action]
    rcases trimmedFeeds_port s p with e | ⟨-, e⟩
    · rw [e]; exact replan_testing ..
    · rw [e]; exact (feedEnded_testing _).trans (replan_testing ..)
  · rw [carry_test]

theorem applySwitch_attach (s : State) (target : Bank) : AttachKept s (s.applySwitch target) := by
  by_cases h : target = s.store.active
  · rw [applySwitch_self h]; exact .of_ports rfl rfl
  · have judged : AttachKept s (s.judging target) := .of_only (judging_only s target) rfl
    rw [applySwitch_other h]
    split
    · exact (AttachKept.of_only (switched_only s target) rfl).trans (carry_attach _ _)
    · exact judged.trans (.of_only (raise_only ..) rfl)
    · exact judged.trans (.of_only (raise_only ..) rfl)

theorem applyTarget_attach (s : State) : AttachKept s s.applyTarget := by
  rcases applyTarget_cases s with e | ⟨target, e⟩
  · rw [e]; exact .refl s
  · rw [e]; exact applySwitch_attach s target

theorem takeSwitch_attach (s : State) (target : Bank) : AttachKept s (s.takeSwitch target) := by
  unfold State.takeSwitch
  exact .ite (fun _ => .of_ports rfl rfl) fun _ => applySwitch_attach s target

theorem setBank_attach (s : State) (which : Bank) (x : BankInfo) : AttachKept s (s.setBank which x) :=
  .of_ports rfl rfl

theorem decidePlan_attach (s : State) (edited : Bool) : AttachKept s (s.decidePlan edited) := by
  have raised : ∀ plan v c old, AttachKept s
      (((s.usePlan plan).raise .bankSwitch s.store.active.code v c).carry old) := fun plan v c old =>
    AttachKept.trans (t := s.usePlan plan) (.of_ports rfl rfl)
      ((AttachKept.of_only (raise_only ..) rfl).trans (carry_attach _ _))
  unfold State.decidePlan
  dsimp only
  split
  · split
    · exact raised ..
    · exact .of_if fun _ => raised ..
  · split
    · exact .refl s
    · exact AttachKept.trans (t := s.usePlan .builtIn) (.of_ports rfl rfl)
        ((AttachKept.of_only (raise_only ..) rfl).trans (carry_attach _ _))

theorem revalidate_attach (s : State) (which : Bank) (edited : Bool) : AttachKept s (s.revalidate which edited) := by
  unfold State.revalidate
  exact .ite (fun _ => (setBank_attach ..).trans (decidePlan_attach ..)) fun _ => setBank_attach ..

theorem revalidateBoth_attach (s : State) : AttachKept s s.revalidateBoth :=
  (revalidate_attach ..).trans (revalidate_attach ..)

/-! ## Population (R22) -/

/-- A test on a port that loses its population is gone with it (log 34). -/
theorem goOff_attach (s : State) (p : Fin 48) : AttachKept s (s.goOff p) := by
  refine ⟨fun h q => ?_⟩
  generalize hx : { (s.port p).clearTimers.noCharge with
    action := .off, switch := false, fed := false, trips := 0, attempts := 0, cap := 0 } = x
  have off : x.action ≠ .testing := by rw [← hx]; exact nofun
  have freed : Only [.gate, .sched, .path] (s.setPort p x) (((s.setPort p x).leaveGate p).dequeue p) := by
    refine Only.next (l := [.gate, .sched]) ?_ (dequeue_marking _ p).toOnly
    unfold State.leaveGate
    split
    · exact (unrequest_only _ p).next (resolvePort_only ..)
    · exact (unrequest_only _ p).mono
  have record : (((s.setPort p x).leaveGate p).dequeue p).port q = if q = p then x else s.port q := by
    rw [freed.port, port_setPort]
  have run : (((s.setPort p x).leaveGate p).dequeue p).test = s.test := freed.test
  have goes : s.goOff p =
      if (((s.setPort p x).leaveGate p).dequeue p).test.run.map (·.port) = some p then
        { ((s.setPort p x).leaveGate p).dequeue p with
          test := (((s.setPort p x).leaveGate p).dequeue p).test.bereft }
      else ((s.setPort p x).leaveGate p).dequeue p := by rw [← hx]; rfl
  have testing : ((s.goOff p).port q).action = .testing ↔ q ≠ p ∧ (s.port q).action = .testing := by
    have keep : (s.goOff p).port q = (((s.setPort p x).leaveGate p).dequeue p).port q := by
      rw [goes]; split <;> rfl
    rw [keep, record]
    split
    · next e => exact iff_of_false off fun e' => e'.1 e
    · next e => exact (and_iff_right e).symm
  rw [testing, goes, run]
  by_cases hr : s.test.run.map (·.port) = some p
  · rw [if_pos hr]
    refine iff_of_false ?_ nofun
    rintro ⟨hq, ha⟩
    rw [h q, hr] at ha
    exact hq (Option.some.inj ha).symm
  · rw [if_neg hr, run, h q]
    exact and_iff_right_of_imp fun e e' => hr (e' ▸ e)

theorem markPortIf_attach (s : State) (c : Bool) (p : Fin 48) : AttachKept s (s.markPortIf c p) :=
  .of_only (markPortIf_marking s c p).toOnly rfl

theorem repopulate_attach (marking : Bool) (s : State) (p : Fin 48) : AttachKept s (s.repopulate marking p) := by
  unfold State.repopulate
  refine .ite (fun off => .of_if fun _ => ?_) fun _ => .ite (fun _ => .refl s) fun _ => ?_
  · refine ((setPort_attach s p ?_).trans (setPort_attach _ p (by rfl))).trans (markPortIf_attach ..)
    rw [off]; exact iff_of_false nofun nofun
  · exact (goOff_attach s p).trans (markPortIf_attach ..)

theorem rebuild_attach (s : State) (marking : Bool) : AttachKept s (s.rebuild marking) :=
  AttachKept.trans (t := { s with segBounds := s.instBounds }) (.of_ports rfl rfl)
    (.fold _ (repopulate_attach marking) _)

/-! ## Rounds and grants -/

theorem issueSlot_attach (s : State) (i : Fin 4) (p : Fin 48) : AttachKept s (s.issueSlot i p) := by
  have resolved : ∀ o, AttachKept s (s.resolve i o) := fun o => .of_only (resolve_only ..) rfl
  unfold State.issueSlot
  dsimp only
  refine .ite (fun _ => resolved _) fun _ => ?_
  split
  · split
    · refine .ite (fun hr => ?_) fun _ => resolved _
      rw [Bool.and_eq_true, Option.isNone_iff_eq_none] at hr
      exact (startTest_attach hr.1 ..).trans (.of_only (resolve_only ..) rfl)
    · exact resolved _
  · refine .ite (fun _ => resolved _) fun _ => .ite (fun _ => resolved _) fun _ => ?_
    exact (AttachKept.of_only (request_only ..) rfl).trans (.of_only (checkHead_only _) rfl)

theorem issueSlots_attach (n : Nat) (s : State) : AttachKept s (State.issueSlots n s) := by
  induction n generalizing s with
  | zero => exact .refl s
  | succ n ih =>
    unfold State.issueSlots
    split
    · exact .refl s
    · split
      · exact (AttachKept.of_only (resolve_only ..) rfl).trans (ih _)
      · exact .ite (fun _ => .refl s) fun _ => (issueSlot_attach ..).trans (ih _)

theorem issueOn_attach (s : State) : AttachKept s s.issueOn := by
  unfold State.issueOn
  exact .of_if fun _ => ((AttachKept.of_only (checkHead_only s) rfl).trans (issueSlots_attach 9 _)).trans
    (.of_only (finishRound_only _) rfl)

theorem shedOne_attach (s : State) : AttachKept s s.shedOne := by
  unfold State.shedOne State.endLowestFeed
  refine .of_if fun _ => ?_
  split
  · exact endFeed_attach s _
  · exact .refl s

theorem endDone_attach (s : State) : AttachKept s s.endDone := AttachKept.fold _ endFeed_attach s

theorem fillTest_attach (s : State) : AttachKept s s.fillTest := by
  rcases fillTest_cases s with e | ⟨j, p, k, -, -, e⟩
  · rw [e]; exact .refl s
  · rw [e]; exact .of_only (fill_marking ..).toOnly rfl

theorem walk_attach (l : List QueueEntry) (n : Nat) (s : State) : AttachKept s (State.walk l n s) := by
  induction l generalizing n s with
  | nil => exact .refl s
  | cons e rest ih =>
    have filled : ∀ (i : Option (Fin 4)) (a : SlotAction) (m : Nat), AttachKept s (match i with
        | some i => State.walk rest m (s.fill i a e.port none)
        | none => State.walk rest n s) := fun i a m => by
      cases i with
      | none => exact ih n s
      | some i => exact (AttachKept.of_only (fill_marking ..).toOnly rfl).trans (ih m _)
    unfold State.walk
    exact .ite (fun _ => ih n s) fun _ => .ite (fun _ => filled _ .wake n) fun _ => filled _ .feed (n + 1)

theorem fillSlots_attach (s : State) : AttachKept s s.fillSlots :=
  ((fillTest_attach s).trans (walk_attach ..)).trans (.of_only (emptySlots_only _) rfl)

theorem roundStart_attach (s : State) : AttachKept s s.roundStart := by
  have begun : AttachKept s s.roundBegun := .of_ports rfl rfl
  have timed : AttachKept s s.roundBegun.applyTarget.startTimer :=
    begun.trans ((applyTarget_attach _).trans (.of_only (startTimer_only _) rfl))
  have opened : AttachKept s s.roundBegun.applyTarget.startTimer.endDone.shedOne.readFeedEnable :=
    timed.trans ((endDone_attach _).trans ((shedOne_attach _).trans (.of_only (readFeedEnable_only _) rfl)))
  rw [roundStart_eq]
  refine opened.trans ((fillSlots_attach _).trans ((issueSlots_attach 9 _).trans ?_))
  exact (AttachKept.of_only (finishRound_only _) rfl).trans (.of_only (trigger_only _ _) rfl)

theorem runRound_attach (s : State) : AttachKept s s.runRound := by
  unfold State.runRound
  refine .ite (fun _ => (issueOn_attach s).trans ?_) fun _ => issueOn_attach s
  exact AttachKept.trans (t := { s.issueOn with sched := { s.issueOn.sched with startPending := false } })
    (.of_ports rfl rfl) (roundStart_attach _)

theorem startSlot_attach (s : State) (action : SlotAction) (p : Fin 48) : AttachKept s (s.startSlot action p) := by
  unfold State.startSlot
  refine .of_if fun idle => ?_
  have untested : (s.port p).action ≠ .testing := by rw [idle]; exact nofun
  exact .ite (fun _ => startPulse_attach untested) fun _ => startFeed_attach untested

theorem tellGrant_attach (s : State) (r : Request) : AttachKept s (s.tellGrant r) := by
  unfold State.tellGrant
  split
  · split
    · exact (AttachKept.of_only (resolve_only ..) rfl).trans (startSlot_attach ..)
    · exact .refl s
  · exact .of_if fun waking => startPulse_attach (by rw [waking]; exact nofun)
  · exact startTestPulse_attach s _

theorem grant_attach (s : State) (r : Request) : AttachKept s (s.grant r) := by
  have noted : AttachKept s (s.noteGrant r) := .of_ports rfl rfl
  exact (noted.trans (tellGrant_attach _ r)).trans (runRound_attach _)

/-! ## Phases and thermal states -/

theorem workEnded_attach (s : State) : AttachKept s s.workEnded :=
  (stopAll_attach s).trans (abortTest_attach _ _)

theorem raisePhase_attach (s : State) (cause : PhaseCause) : AttachKept s (s.raisePhase cause) :=
  .of_only (raisePhase_only s cause) rfl

theorem setPhase_attach (s : State) (x : Phase) : AttachKept s (s.setPhase x) := .of_only (setPhase_only s x) rfl

theorem enterCutoff_attach (s : State) (cause : PhaseCause) : AttachKept s (s.enterCutoff cause) := by
  have reached : AttachKept s (s.cutoffReached cause) := by
    have entered := setPhase_attach s .cutoff
    unfold State.cutoffReached
    refine AttachKept.trans ?_ ((workEnded_attach _).trans (raisePhase_attach _ cause))
    exact .ite (fun _ => entered.trans (.of_only (lowerQ_only _) rfl)) fun _ => entered
  rw [enterCutoff_eq]
  exact reached.trans (applyTarget_attach _)

theorem enterRestore_attach (s : State) : AttachKept s s.enterRestore := by
  rw [enterRestore_eq]
  refine AttachKept.trans ?_ (applyTarget_attach _)
  exact (setPhase_attach s .restore).trans ((workEnded_attach _).trans (raisePhase_attach _ _))

theorem enterReserve_attach (s : State) (cause : PhaseCause) : AttachKept s (s.enterReserve cause) := by
  have unqueued : ∀ (l : List (Fin 48)) (x : State), AttachKept x (l.foldl State.dequeue x) := fun l x =>
    .fold l (fun x p => .of_only (dequeue_marking x p).toOnly rfl) x
  have reached : AttachKept s s.reserveReached :=
    (setPhase_attach s .reserve).trans ((unqueued _ _).trans
      ((AttachKept.of_only (narrowSlots_only _) rfl).trans (.fold _ endWake_attach _)))
  rw [enterReserve_eq]
  exact reached.trans ((raisePhase_attach _ cause).trans (issueOn_attach _))

theorem levelTest_attach (s : State) : AttachKept s s.levelTest := by
  unfold State.levelTest
  exact .ite (fun _ => .ite (fun _ => enterCutoff_attach s _) fun _ => .of_if fun _ => enterReserve_attach s _)
    fun _ => .of_if fun _ => .of_if fun _ => enterCutoff_attach s _

theorem outageStart_attach (s : State) : AttachKept s s.outageStart := by
  have begun : AttachKept s s.outageBegun :=
    .of_ports (outageBegun_only s).ports (by rw [outageBegun_test])
  rw [outageStart_eq]
  exact (begun.trans (.of_only (raisePhase_only ..) rfl)).trans (levelTest_attach _)

theorem returnFromRestore_attach (s : State) : AttachKept s s.returnFromRestore := by
  unfold State.returnFromRestore
  refine .ite (fun _ => enterCutoff_attach s _) fun _ => .ite (fun _ => ?_) fun _ => ?_
  · exact (AttachKept.of_only (entryTimer_only s) rfl).trans (enterReserve_attach ..)
  · exact ((AttachKept.of_only (setPhase_only s .outage) rfl).trans (.of_only (entryTimer_only _) rfl)).trans
      (.of_only (raisePhase_only ..) rfl)

theorem qualify_attach (s : State) (count : Nat) : AttachKept s (s.qualify count) := by
  have moved : ∀ x : PhaseCtl, AttachKept s { s with phase := x } := fun _ => .of_ports rfl rfl
  unfold State.qualify State.takeLoss State.takeRestore
  refine .ite (fun _ => moved _) fun _ => .ite (fun _ => ?_) fun _ => .of_if fun _ => ?_
  · dsimp only
    split
    · exact (moved _).trans (outageStart_attach _)
    · exact (moved _).trans (returnFromRestore_attach _)
    · exact moved _
  · exact .ite (fun _ => (moved _).trans (enterRestore_attach _)) fun _ => moved _

theorem requalify_attach (s : State) : AttachKept s s.requalify := by
  unfold State.requalify
  split
  · exact .refl s
  · exact .of_if fun _ => qualify_attach s _
  · exact .ite (fun _ => .of_ports rfl rfl) fun _ => .of_if fun _ => qualify_attach s _

theorem evalThermal_attach (s : State) : AttachKept s s.evalThermal := by
  have moved : ∀ new, AttachKept s (s.thermalMoved new) := fun new => .of_only (thermalMoved_only s new) rfl
  have raised : ∀ x : State, AttachKept x x.raiseThermal := fun x => .of_only (raise_only ..) rfl
  generalize s.evalThermal = t, evalThermal_evaluated s = evaluated
  cases evaluated with
  | same _ => exact .refl s
  | quiet _ _ _ => exact moved _
  | hot _ _ => exact (moved _).trans (raised _)
  | critical _ _ =>
    have latched := (moved .critical).trans (.of_only (latched_only _) rfl)
    have entered : AttachKept s s.criticalEntered :=
      latched.trans ((stopAll_attach _).trans (abortTest_attach _ .thermal))
    exact entered.trans ((applyTarget_attach _).trans (raised _))

/-! ## The live window -/

/-- A request that starts its test finds none in progress (R122). -/
theorem judgeRequest_idle {s : State} {x : Fin 48 × TestKind} (h : s.judgeRequest = .inr x) : s.test.run = none := by
  unfold State.judgeRequest at h
  split at h
  · cases h
  · split at h
    · cases h
    · split at h
      · cases h
      · next hr => simpa using hr

theorem touchRow_attach (s : State) : AttachKept s s.touchRow := by
  rw [touchRow_eq]; exact .of_ports rfl rfl

theorem liveRow_attach {act : State → State} (h : ∀ s, AttachKept s (act s)) (s : State) :
    AttachKept s (s.liveRow act) := by
  unfold State.liveRow
  exact .of_if fun _ => (touchRow_attach s).trans (h _)

theorem clearBar_attach (s : State) (v : Byte) : AttachKept s (s.clearBar v) := by
  unfold State.clearBar
  split
  · refine .of_if fun barred => setPort_markPort_attach s _ ?_
    rw [barred]; exact iff_of_false nofun nofun
  · exact .refl s

theorem release_attach (s : State) : AttachKept s s.release := by
  unfold State.release
  exact .of_if fun _ => .of_ports rfl rfl

theorem abortWrite_attach (s : State) : AttachKept s s.abortWrite :=
  (abortTest_attach s _).trans (runRound_attach _)

theorem switchWrite_attach (s : State) (v : Byte) : AttachKept s (s.switchWrite v) := by
  unfold State.switchWrite
  exact .ite (fun _ => takeSwitch_attach s _) fun _ => .of_if fun _ => takeSwitch_attach s _

theorem scanWrite_attach (s : State) (v : Byte) : AttachKept s (s.scanWrite v) := by
  unfold State.scanWrite
  exact .ite (fun _ => .of_only (trigger_only ..) rfl) fun _ => .of_if fun _ => .of_only (stopScan_only s) rfl

theorem attemptClaim_attach (s : State) : AttachKept s s.attemptClaim.2 := by
  unfold State.attemptClaim
  split <;> exact .of_ports rfl rfl

theorem setPath_attach (s : State) (x : Path) : AttachKept s { s with path := x } := .of_ports rfl rfl

theorem readClaim_attach (s : State) : AttachKept s s.readClaim := by
  unfold State.readClaim
  split
  · split
    · exact setPath_attach s _
    · exact (attemptClaim_attach s).trans (setPath_attach ..)
  · exact (attemptClaim_attach s).trans (setPath_attach ..)

theorem readClaimRow_attach (s : State) : AttachKept s s.readClaimRow := by
  unfold State.readClaimRow
  exact .ite (fun _ => (attemptClaim_attach s).trans (setPath_attach ..)) fun _ => readClaim_attach s

theorem takeRequest_attach (s : State) : AttachKept s s.takeRequest := by
  unfold State.takeRequest
  dsimp only
  have taken : ∀ (m : TestReq) (o : ReqOutcome),
      AttachKept s (State.setReqOutcome { s with test := { s.test with req := m } } o) := fun _ _ => .of_ports rfl rfl
  split
  · next p kind hj =>
    exact (taken _ _).trans ((startTest_attach (by exact judgeRequest_idle hj) _ _ _ _ _).trans (runRound_attach _))
  · exact (taken _ _).trans (.of_only (raise_only ..) rfl)

theorem applyIndex_attach (s : State) (v : Nat) : AttachKept s (s.applyIndex v) := by
  unfold State.applyIndex
  dsimp only
  refine AttachKept.trans ?_ (.of_only (reAlert_only _) rfl)
  exact .ite (fun _ => .of_ports rfl rfl) fun _ => .of_ports rfl rfl

theorem takeIndex_attach (s : State) (lo hi : Option Byte) : AttachKept s (s.takeIndex lo hi) := by
  unfold State.takeIndex
  exact .ite (fun _ => .refl s) fun _ => .ite (fun _ => applyIndex_attach s _) fun _ => .of_ports rfl rfl

theorem modTxn_attach (s : State) (f : Txn → Txn) : AttachKept s (s.modTxn f) := .of_ports rfl rfl

theorem deliver_attach (s : State) (off : Nat) (v : Byte) : AttachKept s (s.deliver off v) := by
  unfold State.deliver
  split
  · exact .of_if fun _ => release_attach s
  · exact .of_ports rfl rfl
  · exact .of_ports rfl rfl
  · exact .of_ports rfl rfl
  · exact abortWrite_attach s
  · exact switchWrite_attach s v
  · exact .of_ports rfl rfl
  · exact .of_ports rfl rfl
  · exact modTxn_attach s _
  · exact modTxn_attach s _
  · exact scanWrite_attach s v
  · exact clearBar_attach s v
  · exact .refl s

/-! ## The installation block and the plan load -/

theorem setScan_attach (s : State) (x : Scan) : AttachKept s { s with scan := x } := .of_ports rfl rfl

theorem fillPlace_attach (s : State) : AttachKept s s.fillPlace := .of_only (fillPlace_placeOnly s).only rfl

theorem thermalChange_attach (s : State) : AttachKept s s.thermalChange := by
  unfold State.thermalChange
  exact .ite (fun _ => .refl s) fun _ => (setScan_attach ..).trans (evalThermal_attach _)

theorem ringChange_attach (s old : State) : AttachKept s (s.ringChange old) := by
  have alerted : ∀ x : State, AttachKept x x.reAlert := fun x => .of_only (reAlert_only x) rfl
  have discarded : AttachKept s s.discardEvents := .of_ports rfl rfl
  unfold State.ringChange
  refine .ite (fun _ => alerted s) fun _ => .ite (fun _ => ?_) fun _ => .of_ports rfl rfl
  exact (discarded.trans (fillPlace_attach _)).trans (alerted _)

theorem measChange_attach (s old : State) : AttachKept s (s.measChange old) := by
  unfold State.measChange
  exact .ite (fun _ => .refl s) fun _ => .of_ports rfl rfl

theorem dropHeld_attach (s : State) : AttachKept s s.dropHeld := setScan_attach s _

theorem mapTaken_attach (s old : State) : AttachKept s (((s.dropHeld).measChange old).ringChange old) :=
  ((dropHeld_attach s).trans (measChange_attach ..)).trans (ringChange_attach ..)

theorem takeMap_attach (s old : State) : AttachKept s (s.takeMap old) :=
  (requalify_attach s).trans (mapTaken_attach ..)

theorem takeCap_attach (s : State) : AttachKept s s.takeCap := .of_only (.setAcct s _) rfl

theorem capChange_attach (s : State) : AttachKept s s.capChange := by
  unfold State.capChange
  exact .ite (fun _ => .refl s) fun _ => takeCap_attach s

theorem takeInstallation_attach (s old : State) : AttachKept s (s.takeInstallation old) := by
  unfold State.takeInstallation
  refine (requalify_attach s).trans ((rebuild_attach _ true).trans ?_)
  exact (capChange_attach _).trans ((thermalChange_attach _).trans (mapTaken_attach _ old))

theorem setInst_attach (s : State) (image : Mem) : AttachKept s (s.setInst image) := by
  unfold State.setInst
  exact .ite (fun _ => .of_ports rfl rfl) fun _ => .of_ports rfl rfl

theorem applyHeld_attach (s : State) : AttachKept s s.applyHeld := by
  unfold State.applyHeld
  split
  · exact AttachKept.trans (t := { s with ev := { s.ev with heldRd := none } }) (.of_ports rfl rfl)
      (applyIndex_attach _ _)
  · exact .refl s

theorem formRing_attach (s : State) : AttachKept s s.formRing := by
  have formed : ∀ x : EventUnit, AttachKept s { s with ev := x } := fun _ => .of_ports rfl rfl
  have newest : ∀ (x : State) (n : Option Nat), AttachKept x { x with ev := { x.ev with newest := n } } :=
    fun _ _ => .of_ports rfl rfl
  unfold State.formRing
  refine AttachKept.trans ?_ (newest _ _)
  exact .ite (fun _ => formed _) fun _ => (formed _).trans (.of_only (markInst_only _) rfl)

theorem formEvents_attach (s : State) : AttachKept s s.formEvents := by
  unfold State.formEvents
  refine AttachKept.trans ?_ (applyHeld_attach _)
  exact .ite (fun _ => formRing_attach s) fun _ => .of_ports rfl rfl

theorem formFields_attach (s : State) (cause : LoadCause) : AttachKept s (s.formFields cause) := by
  have active : AttachKept s s.formActive := by
    unfold State.formActive
    exact .ite (fun _ => .of_ports rfl rfl) fun _ => .of_ports rfl rfl
  have meas : ∀ x : State, AttachKept x x.formMeas := fun x => by
    unfold State.formMeas
    exact .of_if fun _ => .of_ports rfl rfl
  unfold State.formFields
  exact .ite (fun _ => .refl s) fun _ => active.trans ((meas _).trans (formEvents_attach _))

theorem raiseStart_attach (s : State) (cause : LoadCause) : AttachKept s (s.raiseStart cause) := by
  cases cause <;> exact .of_ports rfl rfl

theorem raiseDecided_attach (s : State) (old : PlanUse) : AttachKept s (s.raiseDecided old) := by
  unfold State.raiseDecided
  exact .ite (fun _ => .of_ports rfl rfl) fun _ => .of_if fun _ => .of_ports rfl rfl

theorem startScan_attach (s : State) (cause : LoadCause) : AttachKept s (s.startScan cause) := by
  unfold State.startScan
  exact .ite (fun _ => AttachKept.trans (t := s.beginStartUp.takeThermal) (.of_ports rfl rfl) (evalThermal_attach _))
    fun _ => thermalChange_attach s

theorem takeTarget_attach (s : State) : AttachKept s s.takeTarget := by
  unfold State.takeTarget
  split
  · exact takeSwitch_attach s _
  · exact .refl s

theorem readyTimer_attach (s : State) (cause : LoadCause) : AttachKept s (s.readyTimer cause) := by
  unfold State.readyTimer
  exact .of_if fun _ => .of_only (entryTimer_only s) rfl

theorem roundAfter_attach (s : State) (cause : LoadCause) : AttachKept s (s.roundAfter cause) := by
  unfold State.roundAfter
  exact .ite (fun _ => .refl s) fun _ => runRound_attach s

theorem finishLoad_attach (s : State) (cause : LoadCause) : AttachKept s (s.finishLoad cause) := by
  have ready : ∀ x : State, AttachKept x { x.decideLoaded with
      store := { x.decideLoaded.store with ready := true, load := none } } := fun x => .of_ports rfl rfl
  have taken : ∀ (x : State) (old : PlanUse), AttachKept x ((x.raiseStart cause).raiseDecided old).reAlert :=
    fun x old => ((raiseStart_attach x cause).trans (raiseDecided_attach _ old)).trans (.of_only (reAlert_only _) rfl)
  have formed := (formFields_attach s cause).trans (ready _)
  have mapped := formed.trans ((rebuild_attach _ (!cause.isReset)).trans (takeCap_attach _))
  have planned := mapped.trans ((taken _ s.store.plan).trans (carry_attach _ s.store.plan))
  exact (planned.trans ((startScan_attach _ cause).trans (takeTarget_attach _))).trans
    (((readyTimer_attach _ cause).trans (requalify_attach _)).trans (roundAfter_attach _ cause))

theorem setTodo_attach (s : State) (l : Load) (todo : List LoadPart) : AttachKept s (s.setTodo l todo) := by
  unfold State.setTodo
  split
  · exact finishLoad_attach ..
  · exact .of_ports rfl rfl

theorem followActive_attach (s : State) : AttachKept s s.followActive := by
  unfold State.followActive
  exact .ite (fun _ => .refl s) fun _ => .of_ports rfl rfl

theorem instRead_attach (s : State) (l : Load) (image : Mem) : AttachKept s (s.instRead l image) := by
  have emptied : AttachKept s { s with path := { s.path with instBuf := [] } } := .of_ports rfl rfl
  unfold State.instRead
  refine AttachKept.trans (emptied.trans ?_) (setTodo_attach _ _ _)
  exact .ite (fun _ => .refl _) fun _ => (setInst_attach ..).trans
    (.ite (fun _ => takeMap_attach ..) fun _ => (followActive_attach _).trans (requalify_attach _))

theorem takeLoadRead_attach (s : State) (addr : Nat) : AttachKept s (s.takeLoadRead addr) := by
  unfold State.takeLoadRead
  split
  · exact .refl s
  · dsimp only
    split
    · exact .refl s
    · exact .ite (fun _ => .of_ports rfl rfl) fun _ => instRead_attach ..
    · exact .ite (fun _ => .of_ports rfl rfl) fun _ => (setBank_attach ..).trans (setTodo_attach ..)

/-! ## The snoop -/

theorem dropLoadRead_attach (s : State) : AttachKept s s.dropLoadRead := .of_ports rfl rfl

theorem replanLoad_attach (s old : State) : AttachKept s (s.replanLoad old) := by
  unfold State.replanLoad
  split
  · exact .refl s
  · exact .ite (fun _ => .refl s) fun _ => .ite (fun _ => .refl s) fun _ =>
      .ite (fun _ => (dropLoadRead_attach s).trans (setTodo_attach ..)) fun _ => .of_ports rfl rfl

theorem storeTakesMap_attach (s old : State) : AttachKept s (s.storeTakesMap old) := by
  have reload : ∀ cause, AttachKept s (s.startReload cause) := fun _ => .of_ports rfl rfl
  have unconfigured : ∀ l, AttachKept s (s.loadUnconfigured l) := fun l => by
    unfold State.loadUnconfigured
    exact .ite (fun _ => .refl s) fun _ => (dropLoadRead_attach s).trans (setTodo_attach ..)
  unfold State.storeTakesMap
  refine .ite (fun _ => reload _) fun _ => .ite (fun _ => ?_) fun _ => .ite (fun _ => reload _) fun _ =>
    .ite (fun _ => .refl s) fun _ => revalidateBoth_attach s
  split
  · exact unconfigured _
  · exact revalidateBoth_attach s

theorem snoopInst_attach (s : State) (bytes : List Placed) : AttachKept s (s.snoopInst bytes) := by
  unfold State.snoopInst
  split
  · exact .refl s
  · next image _ =>
    dsimp only
    have buffered : AttachKept s (if s.store.load.isSome then
        { s with path := { s.path with instBuf := instTake s.path.instBuf bytes } } else s) :=
      .of_if fun _ => .of_ports rfl rfl
    generalize (if s.store.load.isSome = true then _ else s) = s0 at buffered ⊢
    refine .ite (fun _ => buffered) fun _ => buffered.trans ?_
    refine (setInst_attach s0 (instTake image bytes)).trans (.ite (fun _ => ?_) fun _ => ?_)
    · exact (takeInstallation_attach _ _).trans (storeTakesMap_attach _ _)
    · exact (followActive_attach _).trans ((requalify_attach _).trans (replanLoad_attach _ _))

theorem snoopBank_attach (s : State) (which : Bank) (bytes : List Placed) :
    AttachKept s (s.snoopBank which bytes) := by
  unfold State.snoopBank
  split
  · exact .refl s
  · exact .ite (fun _ => .refl s) fun _ =>
      .ite (fun _ => (setBank_attach ..).trans (revalidate_attach ..)) fun _ => setBank_attach ..

theorem snoop_attach (s : State) (x : Txn) : AttachKept s (s.snoop x) :=
  ((snoopInst_attach ..).trans (snoopBank_attach ..)).trans (snoopBank_attach ..)

/-! ## The path unit -/

theorem endActs_attach (s : State) (t : Txn) : AttachKept s (s.endActs t) := by
  have fields : AttachKept s ((if t.reqWritten then s.takeRequest else s).takeIndex t.rdLo t.rdHi) :=
    (AttachKept.of_if fun _ => takeRequest_attach s).trans (takeIndex_attach ..)
  unfold State.endActs
  exact (fields.trans (setPath_attach _ _)).trans (.of_if fun _ => snoop_attach ..)

theorem riseCs_attach (s : State) : AttachKept s s.riseCs := by
  unfold State.riseCs
  refine .of_if fun _ => ?_
  dsimp only
  split
  · exact setPath_attach s _
  · refine AttachKept.trans ?_ ((endActs_attach _ _).trans (runRound_attach _))
    exact setPath_attach s _

theorem touch_attach (s : State) : AttachKept s s.touch := by
  unfold State.touch
  split
  · exact .ite (fun _ => .refl s) fun _ => .of_ports rfl rfl
  · exact .of_ports rfl rfl

theorem writeOne_attach (s : State) (a : Nat) (v : Byte) : AttachKept s (s.writeOne a v) := by
  unfold State.writeOne
  split
  · exact .refl s
  · refine .ite (fun _ => ?_) fun _ => .ite (fun _ => .refl s) fun _ => ?_
    · unfold State.writeLive
      have touched := (modTxn_attach s fun t => { t with mlLow := false }).trans (touch_attach _)
      exact .ite (fun _ => touched) fun _ => touched.trans (deliver_attach ..)
    · split <;> exact .of_ports rfl rfl

theorem writeBurst_attach (l : List Byte) (a : Nat) (s : State) : AttachKept s (State.writeBurst l a s) := by
  induction l generalizing a s with
  | nil => exact modTxn_attach s _
  | cons v rest ih => exact (writeOne_attach s a v).trans (ih _ _)

theorem readOne_attach (s : State) (a : Nat) : AttachKept s (s.readOne a) := by
  unfold State.readOne
  refine .ite (fun _ => ?_) fun _ => setPath_attach s _
  exact ((modTxn_attach s _).trans (touch_attach _)).trans
    (.ite (fun _ => readClaim_attach _) fun _ => setPath_attach _ _)

theorem readBurst_attach (n a : Nat) (s : State) : AttachKept s (State.readBurst n a s) := by
  induction n generalizing a s with
  | zero => exact modTxn_attach s _
  | succ n ih => exact (readOne_attach s a).trans (ih _ _)

theorem takeRead_attach (s : State) (addr count : Nat) : AttachKept s (s.takeRead addr count) := by
  unfold State.takeRead
  split
  · exact .refl s
  · split
    · refine AttachKept.trans ?_ (readBurst_attach _ _ _)
      exact .of_ports rfl rfl
    · exact readBurst_attach ..
    · exact .refl s
    · exact .refl s

theorem takeWrite_attach (s : State) (addr : Nat) (bytes : List Byte) : AttachKept s (s.takeWrite addr bytes) := by
  unfold State.takeWrite
  split
  · exact .refl s
  · split
    · refine AttachKept.trans ?_ (writeBurst_attach _ _ _)
      exact .of_ports rfl rfl
    · exact writeBurst_attach ..
    · exact .refl s
    · exact .refl s

theorem loadRead_attach (s : State) (o : Own) : AttachKept s (s.loadRead o) := by
  have ended : AttachKept s (s.endOwn o) := .of_ports rfl rfl
  unfold State.loadRead
  exact .ite (fun _ => ended) fun _ => ended.trans (takeLoadRead_attach ..)

theorem cutOwn_attach (s : State) : AttachKept s s.cutOwn := by
  unfold State.cutOwn
  split
  · exact .refl s
  · exact .ite (fun _ => .of_ports rfl rfl) fun _ => .of_ports rfl rfl

theorem fallCs_attach (s : State) : AttachKept s s.fallCs := by
  have preempted : AttachKept s s.preempt := by
    unfold State.preempt
    split
    · exact .refl s
    · exact (cutOwn_attach s).trans (setPath_attach _ _)
  unfold State.fallCs
  exact .ite (fun _ => .refl s) fun _ => preempted.trans (setPath_attach _ _)

theorem takeOther_attach (s : State) : AttachKept s s.takeOther := by
  unfold State.takeOther
  split
  · exact .refl s
  · exact .of_if fun _ => modTxn_attach s _

theorem stickCs_attach (s : State) : AttachKept s s.stickCs := by
  unfold State.stickCs
  split
  · exact .refl s
  · exact .of_if fun _ => .of_ports rfl rfl

theorem startOwn_attach (s : State) : AttachKept s s.startOwn := by
  have dropped : AttachKept s s.dropDead := by
    unfold State.dropDead
    exact .of_if fun _ => (AttachKept.of_only (dropEntries_placeOnly 32 s).only rfl).trans (setPath_attach _ _)
  unfold State.startOwn
  refine .of_if fun _ => ?_
  dsimp only
  split
  · exact dropped.trans (.of_only (beginOwn_only _) rfl)
  · exact dropped

theorem leaveQueue_attach (s : State) : AttachKept s s.leaveQueue := .of_only (leaveQueue_placeOnly s).only rfl

theorem endOwn_attach (s : State) (o : Own) : AttachKept s (s.endOwn o) := .of_ports rfl rfl

theorem measWritten_attach (s : State) (o : Own) : AttachKept s (s.measWritten o) := by
  unfold State.measWritten
  dsimp only
  have ended := endOwn_attach s o
  refine .ite (fun _ => ended) fun _ => AttachKept.trans ?_ (leaveQueue_attach _)
  refine AttachKept.trans (t := if 0 < (s.endOwn o).measN then _ else s.endOwn o) ?_ (.of_ports rfl rfl)
  refine .ite (fun _ => AttachKept.trans ?_ (.of_only (markInst_only _) rfl)) fun _ => ended
  exact ended.trans (.of_ports rfl rfl)

theorem eventWritten_attach (s : State) (o : Own) : AttachKept s (s.eventWritten o) := by
  unfold State.eventWritten
  dsimp only
  have ended := endOwn_attach s o
  refine .ite (fun _ => ended) fun _ => AttachKept.trans ?_ (leaveQueue_attach _)
  refine AttachKept.trans (t := if 0 < (s.endOwn o).ringN then _ else s.endOwn o) ?_ (.of_ports rfl rfl)
  refine .ite (fun _ => AttachKept.trans ?_ (.of_only (reAlert_only _) rfl)) fun _ => ended
  refine AttachKept.trans ?_ (.of_only (markInst_only _) rfl)
  exact ended.trans (.of_ports rfl rfl)

theorem imageWritten_attach (s : State) (o : Own) (p : Fin 48) : AttachKept s (s.imageWritten o p) := by
  unfold State.imageWritten
  exact .ite (fun _ => .of_ports rfl rfl) fun _ => .of_ports rfl rfl

theorem instWritten_attach (s : State) (o : Own) : AttachKept s (s.instWritten o) := by
  unfold State.instWritten
  exact .ite (fun _ => .of_ports rfl rfl) fun _ => .of_ports rfl rfl

/-! ## The period end -/

theorem account_action (pol : Policy) (inMains : Bool) (i : Nat) (x : Port) :
    (pol.account inMains i x).action = x.action := by
  unfold Policy.account
  split
  · rfl
  · split <;> rfl

theorem fedSecond_action (x : Port) : x.fedSecond.action = x.action := by
  unfold Port.fedSecond
  split <;> rfl

theorem levelTested_attach (s : State) : AttachKept s s.levelTested := by
  have undervoltage : AttachKept s s.undervoltage := by
    unfold State.undervoltage
    exact .of_if fun _ => .ite (fun _ => enterCutoff_attach s _) fun _ => .of_ports rfl rfl
  unfold State.levelTested
  exact undervoltage.trans (levelTest_attach _)

theorem periodPart_attach (s : State) : AttachKept s s.periodPart := by
  have counted : AttachKept s s.counted := .of_records (counted_marking s).toOnly rfl fun p => by
    rw [counted_port_eq, account_action, fedSecond_action]
  have ticked : ∀ x : State, AttachKept x x.ticked := fun x => .of_ports (ticked_marking x).ports (by
    rw [ticked_test]
    split
    · split <;> rfl
    · rfl)
  have offered : ∀ x : State, AttachKept x x.offered := fun x => by
    rw [offered_eq]
    have asked : AttachKept x x.placeAllDeferred := .fold _ (fun y p => by
      unfold State.placeDeferred
      exact .of_if fun _ => askRetry_attach y p) x
    exact asked.trans (.of_only (notices_marking _).toOnly rfl)
  rw [periodPart_eq, periodUntilTick_eq]
  refine counted.trans ((levelTested_attach _).trans ((ticked _).trans ((offered _).trans ?_)))
  exact (AttachKept.of_only (evalAlarms_only _) rfl).trans (.of_only (trigger_only _ _) rfl)

theorem periodEnd_attach (s : State) : AttachKept s s.periodEnd := by
  cases hr : s.store.ready with
  | true => rw [periodEnd_ready hr]; exact (periodPart_attach s).trans (runRound_attach _)
  | false => rw [periodEnd_loading hr]; exact .of_ports rfl rfl

theorem settle_attach (s : State) : AttachKept s s.settle := by
  have settled : AttachKept s s.settling := .of_records (settling_marking s).toOnly rfl fun p => by
    have port : s.settling.port p = s.clearCharge.port p := rfl
    rw [port, clearCharge_port]
    rfl
  rw [settle_eq]
  exact settled.trans (.of_only (raise_only ..) rfl)

/-! ## Ports -/

theorem statusChange_attach (s : State) (p : Fin 48) (level : TermStatus) :
    AttachKept s (s.statusChange p level) := by
  have low : ∀ x : State, AttachKept x (x.lowEffects p level) := fun x => by
    unfold State.lowEffects
    exact .of_if fun _ => (lowResync_attach x p).trans (.of_only (raise_only ..) rfl)
  have acted : ∀ x : State, AttachKept x (x.actionEffects p level) := fun x => by
    unfold State.actionEffects
    split
    · exact .of_if fun _ => endWake_attach x p
    · exact setPort_attach x p (by rfl)
    · exact testStatus_attach x p level
    all_goals exact .refl x
  have taken : AttachKept s (s.setPort p { s.port p with status := level, cand := none }) :=
    setPort_attach s p (by rfl)
  have marked : ∀ x : State, AttachKept x (x.markPort p) := fun x => .of_only (markPort_marking x p).toOnly rfl
  unfold State.statusChange
  refine .ite (fun _ => taken.trans (marked _)) fun _ => ?_
  exact taken.trans ((low _).trans ((acted _).trans ((marked _).trans (runRound_attach _))))

theorem trip_attach (s : State) (p : Fin 48) : AttachKept s (s.trip p) := by
  have freed := tripJudged_freed s p
  have tripped : ((s.tripJudged p).port p).action ≠ .testing := by
    rw [freed.port]
    unfold Port.tripJudged
    split <;> exact nofun
  rw [trip_eq]
  refine AttachKept.trans ?_ (runRound_attach _)
  split
  · next testing =>
    refine ⟨fun h => ?_⟩
    have attached := (h p).1 testing
    unfold State.abortTest
    rw [(tripJudged_only s p).test]
    cases hr : s.test.run with
    | none => rw [hr] at attached; cases attached
    | some run =>
      rw [hr] at attached
      obtain rfl : run.port = p := Option.some.inj attached
      exact endTest_tripped_attach (by rw [hr]; rfl) tripped freed.others _ _ _ h
  · next untested =>
    exact .of_record (tripJudged_only s p) freed.others (iff_of_false tripped untested) rfl

theorem unanswered_attach {s : State} {p : Fin 48} (h : (s.port p).action ≠ .testing) :
    AttachKept s (s.unanswered p) := by
  unfold State.unanswered
  refine .ite (fun _ => .ite (fun _ => setPort_attach s p (by rfl)) fun _ => endWake_attach s p) fun _ => ?_
  refine AttachKept.trans ?_ (bar_attach ?_ 1)
  · exact .of_only (raise_only ..) rfl
  · exact h

theorem retryDue_attach (s : State) (p : Fin 48) : AttachKept s (s.retryDue p) := by
  unfold State.retryDue
  exact .ite (fun _ => setPort_attach s p (by rfl)) fun _ => askRetry_attach s p

theorem converted_attach (s : State) (raw : Int) : AttachKept s (s.converted raw) := by
  have dealt : ∀ v, AttachKept s ((s.takeReading v).dealResult v) := fun v =>
    (AttachKept.of_only (takeReading_marking s v).toOnly rfl).trans (.of_only (dealResult_only _ v) rfl)
  unfold State.converted
  refine AttachKept.trans ?_ (runRound_attach _)
  exact .ite (fun _ => (dealt _).trans (evalThermal_attach _)) fun _ => dealt _

theorem roundTimerDone_attach (s : State) : AttachKept s s.roundTimerDone := by
  unfold State.roundTimerDone
  refine .ite (fun _ => .of_ports rfl rfl) fun _ => ?_
  exact AttachKept.trans (t := { s with sched := { s.sched with timer := none } }) (.of_ports rfl rfl)
    (roundStart_attach _)

/-! ## The commands -/

theorem attachKept_of_timed {τ : Nat} {f : State → State} {s t : State} (h : timed τ f s = .next t)
    (hf : ∀ s, AttachKept s (f s)) : AttachKept s t := by
  unfold timed at h
  cases h
  have moved : AttachKept s (s.advance τ) := .of_ports rfl rfl
  exact .of_if fun _ => moved.trans (hf _)

/-- The end of an own access of a kind, where one of that kind is under way. -/
theorem ownDone_attach {act : State → Own → State} (h : ∀ s o, AttachKept s (act s o)) (isKind : OwnKind → Bool)
    (s : State) : AttachKept s (match s.ownDone isKind with
      | some o => act s o
      | none => s) := by
  split
  · exact h s _
  · exact .refl s

/-- What a test under way does at a moment of its own, where one is under way. -/
theorem testRun_attach {act : State → TestRun → State} (h : ∀ s run, s.test.run = some run → AttachKept s (act s run))
    (s : State) : AttachKept s (match s.test.run with
      | some run => act s run
      | none => s) := by
  split
  · next run hr => exact h s run hr
  · exact .refl s

theorem endTest_runRound_attach {s : State} {run : TestRun} (hr : s.test.run = some run) (result : TestResult)
    (value : Nat) (span : Option (Nat × Nat)) : AttachKept s (s.endTest run result value span false).runRound :=
  (endTest_attach_of_run hr result value span).trans (runRound_attach _)

theorem mainsSample_attach (s : State) (high : Bool) : AttachKept s (s.mainsSample high) := by
  unfold State.mainsSample
  dsimp only
  split <;> exact .of_ports rfl rfl

/-- Every command but a reset keeps the attachment. -/
theorem exec_attach {c : Instr} {s t : State} (hc : c.isReset = false) (h : exec c s = .next t) :
    AttachKept s t := by
  cases c
  all_goals dsimp only [exec, execLossQualified, execRestoreQualified, execSettlingComplete, execAccountingPeriodEnd,
    execStartLevelWrite, execTerminalStatusReading, execStatusDebounceExpiry, execAbsenceTimerExpiry,
    execTripReport, execCoolOffExpiry, execPulseTimerExpiry, execAnswerTimerExpiry, execRetryTimerExpiry,
    execBarClear, execGateGrant, execConversionComplete, execConversionFailed, execScanTrigger, execScanStop,
    execRoundTimerExpiry, execClaimAttempt, execClaimRelease, execClaimLapse, execTestRequest, execTestAbort,
    execHoldupTimeExpiry, execTestPulseEnd, execTestAnswerTimerExpiry, execDrawSamplingEnd, execReadIndexWrite,
    execBankSwitchWrite, execArrayRead, execArrayWrite, execOtherCommand, execMapLockWrite,
    execLiveWriteAbsorbed, execLinkStuck, execOwnAccessStart, execPlanLoadReadComplete,
    execMeasRecordWriteComplete, execEventRecordWriteComplete, execPortImageWriteComplete,
    execInstallationWriteComplete] at h
  case powerOnReset => cases hc
  case warmReset _ => cases hc
  case nresetRelease => cases hc
  case powerOnResetRelease => cases hc
  case mainsOkChange τ high =>
    cases h
    refine .ite (fun _ => ?_) fun _ => .of_ports rfl rfl
    exact (AttachKept.of_ports rfl rfl : AttachKept s (s.advance τ)).trans (mainsSample_attach _ high)
  case lossQualified _ => exact attachKept_of_timed h fun s => .of_if fun _ => requalify_attach s
  case restoreQualified _ => exact attachKept_of_timed h fun s => .of_if fun _ => requalify_attach s
  case settlingComplete _ => exact attachKept_of_timed h fun s => .of_if fun _ => settle_attach s
  case accountingPeriodEnd _ => exact attachKept_of_timed h fun s => .of_if fun _ => periodEnd_attach s
  case startLevelWrite _ v => exact attachKept_of_timed h (liveRow_attach fun s => .of_ports rfl rfl)
  case terminalStatusReading _ p reading =>
    exact attachKept_of_timed h fun s => setPort_attach s p (by rfl)
  case statusDebounceExpiry _ p =>
    refine attachKept_of_timed h fun s => ?_
    split
    · exact .of_if fun _ => statusChange_attach s p _
    · exact .refl s
  case absenceTimerExpiry _ p =>
    exact attachKept_of_timed h fun s => .of_if fun _ => (endFeed_attach s p).trans (.of_only (raise_only ..) rfl)
  case tripReport _ p => exact attachKept_of_timed h fun s => .of_if fun _ => trip_attach s p
  case coolOffExpiry _ p =>
    exact attachKept_of_timed h fun s => .of_if fun ha =>
      setPort_markPort_attach s p (iff_of_false nofun fun e => by rw [ha.1] at e; cases e)
  case pulseTimerExpiry _ p => exact attachKept_of_timed h fun s => .of_if fun _ => setPort_attach s p (by rfl)
  case answerTimerExpiry _ p =>
    exact attachKept_of_timed h fun s => .of_if fun ha => unanswered_attach fun e => by rw [ha.1] at e; cases e
  case retryTimerExpiry _ p => exact attachKept_of_timed h fun s => .of_if fun _ => retryDue_attach s p
  case barClear _ v => exact attachKept_of_timed h (liveRow_attach fun s => clearBar_attach s v)
  case gateGrant _ =>
    refine attachKept_of_timed h fun s => ?_
    split
    · exact grant_attach s _
    · exact .refl s
  case conversionComplete _ raw => exact attachKept_of_timed h fun s => .of_if fun _ => converted_attach s raw
  case conversionFailed _ => exact attachKept_of_timed h fun s => .of_if fun _ => .of_ports rfl rfl
  case scanTrigger _ source =>
    refine attachKept_of_timed h fun s => ?_
    have begun : ∀ x : State, AttachKept x (x.trigger source) := fun x => .of_only (trigger_only x source) rfl
    exact .ite (fun _ => liveRow_attach begun s) fun _ => begun s
  case scanStop _ => exact attachKept_of_timed h (liveRow_attach fun s => .of_only (stopScan_only s) rfl)
  case roundTimerExpiry _ => exact attachKept_of_timed h fun s => .of_if fun _ => roundTimerDone_attach s
  case claimAttempt _ => exact attachKept_of_timed h (liveRow_attach readClaimRow_attach)
  case claimRelease _ => exact attachKept_of_timed h (liveRow_attach fun s => release_attach s)
  case claimLapse _ => exact attachKept_of_timed h fun s => .of_if fun _ => release_attach s
  case testRequest _ port kind minutes =>
    refine attachKept_of_timed h fun s => .of_if fun _ => liveRow_attach (fun s => ?_) s
    refine AttachKept.trans ?_ (takeRequest_attach _)
    exact .of_ports rfl rfl
  case testAbort _ _ => exact attachKept_of_timed h (liveRow_attach fun s => abortWrite_attach s)
  case holdupTimeExpiry _ =>
    exact attachKept_of_timed h (testRun_attach fun s run hr => .of_if fun _ => endTest_runRound_attach hr ..)
  case testPulseEnd _ =>
    refine attachKept_of_timed h (testRun_attach fun s run hr => .of_if fun _ => ?_)
    exact AttachKept.trans (t := { s with test := { s.test with run := some { run with pulse := none } } })
      (.of_ports rfl (by rw [hr]; rfl)) (setPort_attach _ run.port (by rfl))
  case testAnswerTimerExpiry _ =>
    exact attachKept_of_timed h (testRun_attach fun s run hr => .of_if fun _ => endTest_runRound_attach hr ..)
  case drawSamplingEnd _ samples =>
    exact attachKept_of_timed h (testRun_attach fun s run hr => .of_if fun _ =>
      (endTest_attach_of_run hr _ _ _).trans (runRound_attach _))
  case readIndexWrite _ lo hi =>
    exact attachKept_of_timed h fun s => .of_if fun _ => liveRow_attach (fun s => takeIndex_attach s lo hi) s
  case bankSwitchWrite _ v => exact attachKept_of_timed h (liveRow_attach fun s => switchWrite_attach s v)
  case transactionStart τ =>
    cases h
    exact .ite (fun _ => (AttachKept.of_ports rfl rfl : AttachKept s (s.advance τ)).trans (fallCs_attach _)) fun _ => .of_ports rfl rfl
  case arrayRead _ addr count => exact attachKept_of_timed h fun s => takeRead_attach s addr count
  case arrayWrite _ addr bytes => exact attachKept_of_timed h fun s => takeWrite_attach s addr bytes
  case otherCommand _ _ => exact attachKept_of_timed h takeOther_attach
  case mapLockWrite _ v => exact attachKept_of_timed h (liveRow_attach fun s => setPath_attach s _)
  case liveWriteAbsorbed _ _ _ => exact attachKept_of_timed h (liveRow_attach AttachKept.refl)
  case transactionEnd τ =>
    cases h
    exact .ite (fun _ => (AttachKept.of_ports rfl rfl : AttachKept s (s.advance τ)).trans (riseCs_attach _)) fun _ => .of_ports rfl rfl
  case linkStuck _ => exact attachKept_of_timed h stickCs_attach
  case ownAccessStart _ => exact attachKept_of_timed h startOwn_attach
  case planLoadReadComplete _ => exact attachKept_of_timed h (ownDone_attach loadRead_attach _)
  case measRecordWriteComplete _ => exact attachKept_of_timed h (ownDone_attach measWritten_attach _)
  case eventRecordWriteComplete _ => exact attachKept_of_timed h (ownDone_attach eventWritten_attach _)
  case portImageWriteComplete _ =>
    refine attachKept_of_timed h fun s => ?_
    split
    · next o _ =>
      split
      · exact .of_if fun _ => imageWritten_attach s o _
      all_goals exact .refl s
    · exact .refl s
  case installationWriteComplete _ => exact attachKept_of_timed h (ownDone_attach instWritten_attach _)

/-- Under no test and with no port TESTING nothing is attached and nothing is to be. -/
theorem attachOk_of_none {s : State} (hr : s.test.run = none) (hp : ∀ p, (s.port p).action ≠ .testing) :
    s.AttachOk := fun p => iff_of_false (hp p) (by rw [hr]; exact nofun)

/-- A warm reset leaves a barred or an off port as it is and every other IDLE. -/
theorem warmPort_untested (s : State) (p : Fin 48) : (s.warmPort p).action ≠ .testing := by
  intro testing
  have action : (s.warmPort p).action =
      if (s.port p).action = .barred ∨ (s.port p).action = .off then (s.port p).action else .idle := rfl
  rw [action] at testing
  split at testing
  · next kept => rw [testing] at kept; simp at kept
  · cases testing

/-- A reset ends the test and leaves no port TESTING; its release moves neither. -/
theorem reset_keeps_attachOk {c : Instr} {s t : State} (hc : c.isReset = true) (h : exec c s = .next t)
    (hok : s.AttachOk) : t.AttachOk := by
  cases c with
  | powerOnReset =>
    cases h
    exact attachOk_of_none rfl fun p => by
      have untested : (State.reset.port p).action ≠ .testing := by rw [reset_port]; exact nofun
      exact untested
  | warmReset τ =>
    cases h
    split
    · refine attachOk_of_none rfl fun p => ?_
      rw [warm_port]
      exact warmPort_untested _ p
    · exact hok
  | nresetRelease => cases h; split <;> exact hok
  | powerOnResetRelease => cases h; split <;> exact hok
  | _ => cases hc

/-- Settles O6: the front command is a reset, after which no port is TESTING and no test runs, or keeps the
attachment. -/
theorem stepKeepsAttachment : Obligations.StepKeepsAttachment := by
  intro s t hok h
  unfold step at h
  split at h
  · cases h; exact hok
  · next c _ _ =>
    cases hc : c.isReset with
    | true => exact reset_keeps_attachOk hc h hok
    | false => exact (exec_attach hc h).keeps hok

end Sys2Proof.Machine
end

section
/-! PROOFS. The claim and the end of a test by its own time, its samples or the supervisor (R110, R111, R114 to R118;
O44, O45, O47). -/

namespace Sys2Proof.Machine
open Sys2Proof

/-! ## The claim attempt (R110) -/

/-- The channel can be claimed: nobody owns it and no test runs. -/
def State.claimable (s : State) : Prop := s.test.owner = .none ∧ s.test.run = none

theorem attemptClaim_free {s : State} (h : s.claimable) : s.attemptClaim =
    (0#8, { s with test := { s.test with claim := .held, owner := .supervisor, lapse := some s.clock } }) := if_pos h

theorem attemptClaim_taken {s : State} (h : ¬s.claimable) : s.attemptClaim = (1#8, s) := if_neg h

theorem attemptClaim_path (s : State) : s.attemptClaim.2.path = s.path := by
  unfold State.attemptClaim; split <;> rfl

theorem attemptClaim_only (s : State) : Only [.test] s s.attemptClaim.2 := by
  unfold State.attemptClaim
  split
  · exact .setTest s _
  · exact .refl s

/-- A transaction after the claim byte's row has been served the value `v`: an open write burst is not the row's. -/
def Txn.claimServed (v : Byte) (x : Txn) : Txn := if x.cmd = some .write then x else { x with claim := some v }

/-- The first claim attempt of a transaction is made, and its outcome goes out. -/
theorem readClaimRow_first {s : State}
    (h : ∀ x, s.path.txn = some x → x.cmd = some .write ∨ x.claim = none) :
    s.readClaimRow = { s.attemptClaim.2 with path := { s.path with
      txn := s.path.txn.map (Txn.claimServed s.attemptClaim.1), slOut := s.path.slOut ++ [s.attemptClaim.1] } } := by
  unfold State.readClaimRow State.readClaim State.inWrite
  dsimp only
  rw [attemptClaim_path]
  cases hx : s.path.txn with
  | none =>
    rw [if_neg (by simp), Option.map_none]
  | some x =>
    rw [Option.map_some]
    by_cases hc : x.cmd = some .write
    · rw [if_pos (by simpa using hc), Txn.claimServed, if_pos hc]
    · have claim := (h x hx).resolve_left hc
      rw [if_neg (by simpa using hc), Txn.claimServed, if_neg hc]
      simp only [claim]

/-- The claim byte reached again in a transaction returns the value of its first attempt. -/
theorem readClaimRow_again {s : State} {x : Txn} {w : Byte} (hx : s.path.txn = some x) (hc : x.cmd ≠ some .write)
    (hw : x.claim = some w) :
    s.readClaimRow = { s with path := { s.path with slOut := s.path.slOut ++ [w] } } := by
  unfold State.readClaimRow State.readClaim State.inWrite
  rw [hx, if_neg (by simpa using hc)]
  simp [hw]

theorem exec_claimAttempt {τ : Nat} {s : State} (hline : s.line = .released) (hlive : s.takesLive = true) :
    exec (.claimAttempt τ) s = .next (s.touchedAt τ).readClaimRow := by
  simp only [exec, execClaimAttempt, timed_released hline, liveRow_advance hlive]

theorem touchedAt_txn (s : State) (τ : Nat) : (s.touchedAt τ).path.txn =
    s.path.txn.map fun x => if x.cmd = some .write then x else { x with live := true } := rfl

/-- Settles O44: the first attempt of a transaction, or the value served again. -/
theorem claimAttemptTakesFreeChannel : Obligations.ClaimAttemptTakesFreeChannel := by
  intro τ s hline hlive now first free
  have hexec := exec_claimAttempt (τ := τ) hline hlive
  have touched := touchedAt_only s τ
  by_cases hfirst : first
  · have atFirst : ∀ x, (s.touchedAt τ).path.txn = some x → x.cmd = some .write ∨ x.claim = none := by
      intro x hx
      rw [touchedAt_txn, Option.map_eq_some_iff] at hx
      obtain ⟨y, hy, rfl⟩ := hx
      have := hfirst y hy
      split <;> simpa using this
    rw [readClaimRow_first atFirst] at hexec
    refine ⟨_, (s.touchedAt τ).attemptClaim.1, hexec, (attemptClaim_only _).clock, fun _ hf => ?_, fun _ hf => ?_,
      fun x w hx hc hw => ?_, ?_, ?_⟩
    · rw [attemptClaim_free (s := s.touchedAt τ) hf]; exact ⟨rfl, rfl⟩
    · rw [attemptClaim_taken (s := s.touchedAt τ) hf]; exact ⟨rfl, rfl⟩
    · rcases hfirst x hx with hwrite | hnone
      · exact absurd hwrite hc
      · rw [hw] at hnone; cases hnone
    · simp only [touchedAt_txn, Option.map_map]
      congr 2
      funext x
      unfold Txn.claimServed
      by_cases hc : x.cmd = some .write <;> simp [hc]
    · exact (touched.trans ((attemptClaim_only _).mono.trans (.mono (.setPath _ _)))).sameBut_advance
  · obtain ⟨x, hx, hc, w, hw⟩ : ∃ x, s.path.txn = some x ∧ x.cmd ≠ some .write ∧ ∃ w, x.claim = some w := by
      simpa [first, Option.ne_none_iff_exists'] using hfirst
    have hserved : (s.touchedAt τ).path.txn = some { x with live := true } := by
      rw [touchedAt_txn, hx]; simp [hc]
    rw [readClaimRow_again hserved hc hw] at hexec
    refine ⟨_, w, hexec, rfl, fun h => absurd h hfirst, fun h => absurd h hfirst, fun y v hy hyc hv => ?_, ?_, ?_⟩
    · obtain rfl : x = y := Option.some.inj (hx.symm.trans hy)
      exact ⟨Option.some.inj (hw.symm.trans hv), rfl⟩
    · have served : s.pathTouched.txn = s.path.txn.map fun x =>
          if x.cmd = some .write then x else { x with live := true, claim := some w } := by
        simp [State.pathTouched, hx, hc, ← hw]
      rw [← served]
      rfl
    · exact (touched.trans (.mono (.setPath _ _))).sameBut_advance

/-! ## The end of a claim (R111) -/

/-- The test unit once the claim is given up: RELEASING until a test in progress ends. -/
def TestUnit.released (u : TestUnit) : TestUnit := { u with
  claim := if u.run = none then .none else .releasing
  owner := if u.run = none then .none else u.owner
  lapse := none }

theorem release_held {s : State} (h : s.test.claim = .held) : s.release = { s with test := s.test.released } := by
  unfold State.release TestUnit.released
  rw [if_pos h]
  cases hr : s.test.run <;> simp [hr]

theorem release_unheld {s : State} (h : s.test.claim ≠ .held) : s.release = s := if_neg h

theorem release_only (s : State) : Only [.test] s s.release := by
  by_cases h : s.test.claim = .held
  · rw [release_held h]; exact .setTest s _
  · rw [release_unheld h]; exact .refl s

theorem lapseAfter_unheld {s : State} (h : s.test.claim ≠ .held) (now : Nat) : s.lapseAfter now = s.test.lapse := by
  unfold State.lapseAfter
  rw [if_neg fun hl => h hl.2]

/-- Settles O45: the release row and the lapse both give up a HELD claim and nothing else. -/
theorem releaseAndLapseEndClaim : Obligations.ReleaseAndLapseEndClaim := by
  intro τ s hline now ended
  refine ⟨fun hlive => ?_, ?_⟩
  · have hexec : exec (.claimRelease τ) s = .next (s.touchedAt τ).release := by
      simp only [exec, execClaimRelease, timed_released hline, liveRow_advance hlive]
    have only := release_only (s.touchedAt τ)
    refine ⟨_, hexec, only.clock, fun hc => ?_, fun hc => ?_, only.path,
      ((touchedAt_only s τ).trans only.mono).sameBut_advance⟩
    · rw [release_held (s := s.touchedAt τ) hc]; rfl
    · rw [release_unheld (s := s.touchedAt τ) hc]
      have lapse := lapseAfter_unheld hc now
      change { s.test with lapse := s.lapseAfter now } = s.test
      rw [lapse]
  · by_cases h : hasRun s.test.lapse Config.lapseTime now = true
    · have hexec : exec (.claimLapse τ) s = .next (s.advance τ).release := by
        simp only [exec, execClaimLapse, timed_released hline]
        rw [if_pos (by exact h)]
      have only := release_only (s.advance τ)
      refine ⟨_, hexec, only.clock, fun since hc _ _ => ?_, fun hn => ?_, only.sameBut_advance⟩
      · rw [release_held (s := s.advance τ) hc]; rfl
      · rcases hn with hc | hearly
        · rw [release_unheld (s := s.advance τ) hc]; rfl
        · exact absurd h (Bool.eq_false_iff.mp (not_hasRun hearly))
    · have hexec : exec (.claimLapse τ) s = .next (s.advance τ) := by
        simp only [exec, execClaimLapse, timed_released hline]
        rw [if_neg (by exact h)]
      exact ⟨_, hexec, rfl, fun since _ hl hdue => absurd (hasRun_some hl hdue) h, fun _ => rfl,
        ((Only.refl (s.advance τ)).sameBut_advance)⟩

/-! ## A test ended by its own result (R114 to R118) -/

/-- A test that a command of its own ends, told of the state before the command. -/
theorem endTest_advance_ended (s : State) (τ : Nat) (run : TestRun) (result : TestResult) (value : Nat)
    (span : Option (Nat × Nat)) : TestEnded run result value span s ((s.advance τ).endTest run result value span false) :=
  (endTest_ended (s.advance τ) run result value span).of_clock

theorem endTest_clock (s : State) (run : TestRun) (result : TestResult) (value : Nat) (span : Option (Nat × Nat)) :
    (s.endTest run result value span false).clock = s.clock := (endTest_only s run result value span).clock

/-! ## The least and the greatest sample (R116) -/

theorem foldl_min_le (l : List Nat) (a : Nat) : l.foldl min a ≤ a ∧ ∀ x ∈ l, l.foldl min a ≤ x := by
  induction l generalizing a with
  | nil => simp
  | cons y l ih =>
    obtain ⟨bound, least⟩ := ih (min a y)
    refine ⟨bound.trans (min_le_left a y), fun x hx => ?_⟩
    rcases List.mem_cons.mp hx with rfl | hx
    · exact bound.trans (min_le_right a x)
    · exact least x hx

theorem foldl_min_mem (l : List Nat) (a : Nat) : l.foldl min a = a ∨ l.foldl min a ∈ l := by
  induction l generalizing a with
  | nil => exact .inl rfl
  | cons y l ih =>
    rcases ih (min a y) with h | h
    · rcases min_choice a y with hm | hm
      · exact .inl (h.trans hm)
      · exact .inr (List.mem_cons.mpr (.inl (h.trans hm)))
    · exact .inr (List.mem_cons_of_mem y h)

theorem le_foldl_max (l : List Nat) (a : Nat) : a ≤ l.foldl max a ∧ ∀ x ∈ l, x ≤ l.foldl max a := by
  induction l generalizing a with
  | nil => simp
  | cons y l ih =>
    obtain ⟨bound, greatest⟩ := ih (max a y)
    refine ⟨(le_max_left a y).trans bound, fun x hx => ?_⟩
    rcases List.mem_cons.mp hx with rfl | hx
    · exact (le_max_right a x).trans bound
    · exact greatest x hx

theorem foldl_max_mem (l : List Nat) (a : Nat) : l.foldl max a = a ∨ l.foldl max a ∈ l := by
  induction l generalizing a with
  | nil => exact .inl rfl
  | cons y l ih =>
    rcases ih (max a y) with h | h
    · rcases max_choice a y with hm | hm
      · exact .inl (h.trans hm)
      · exact .inr (List.mem_cons.mpr (.inl (h.trans hm)))
    · exact .inr (List.mem_cons_of_mem y h)

/-- The span of samples no greater than 4095 is that of a least and a greatest sample. -/
theorem drawSpan_spec {samples : List Nat} (h : samples ≠ []) :
    ((drawSpan samples).1 ∈ drawTaken samples ∧ ∀ x ∈ drawTaken samples, (drawSpan samples).1 ≤ x) ∧
    ((drawSpan samples).2 ∈ drawTaken samples ∧ ∀ x ∈ drawTaken samples, x ≤ (drawSpan samples).2) := by
  obtain ⟨y, hy⟩ : ∃ y, y ∈ drawTaken samples := List.exists_mem_of_ne_nil _ (by simpa [drawTaken] using h)
  have bounded : y ≤ 4095 := by
    obtain ⟨z, -, rfl⟩ := List.mem_map.mp hy
    exact min_le_left ..
  have least := (foldl_min_le (drawTaken samples) 4095).2
  have greatest := (le_foldl_max (drawTaken samples) 0).2
  refine ⟨⟨?_, least⟩, ?_, greatest⟩
  · rcases foldl_min_mem (drawTaken samples) 4095 with e | h
    · have full : y = 4095 := bounded.antisymm (e ▸ least y hy)
      have low : (drawSpan samples).1 = y := e.trans full.symm
      rwa [low]
    · exact h
  · rcases foldl_max_mem (drawTaken samples) 0 with e | h
    · have empty : y = 0 := Nat.le_zero.mp (e ▸ greatest y hy)
      have high : (drawSpan samples).2 = y := e.trans empty.symm
      rwa [high]
    · exact h

/-- Settles O47: each moment of a test's own ends it with its result, as does the abort row. -/
theorem testEndsByItsOwnResult : Obligations.TestEndsByItsOwnResult := by
  intro τ run s hline hrun now
  refine ⟨fun hk hdue => ?_, fun granted hk hg hdue => ?_, ?_, fun v hlive => ?_⟩
  · have hexec : exec (.holdupTimeExpiry τ) s =
        .next ((s.advance τ).endTest run .pass (60 * run.minutes) none false).runRound := by
      simp only [exec, execHoldupTimeExpiry, timed_released hline, advance_test, hrun]
      rw [if_pos ⟨hk, hdue⟩]
    exact ⟨_, hexec, endTest_clock .., endTest_advance_ended ..⟩
  · have hexec : exec (.testAnswerTimerExpiry τ) s =
        .next ((s.advance τ).endTest run .fail 5000 none false).runRound := by
      simp only [exec, execTestAnswerTimerExpiry, timed_released hline, advance_test, hrun]
      rw [if_pos ⟨hk, hasRun_some hg hdue⟩]
    exact ⟨_, hexec, endTest_clock .., endTest_advance_ended ..⟩
  · intro samples hk hdue hlen taken average pol
    have hexec : exec (.drawSamplingEnd τ samples) s = .next ((s.advance τ).judgeDraw run samples).runRound := by
      simp only [exec, execDrawSamplingEnd, timed_released hline, advance_test, hrun]
      rw [if_pos ⟨hk, hdue⟩]
    obtain ⟨low, high⟩ := drawSpan_spec (samples := samples) (by rintro rfl; cases hlen)
    exact ⟨_, _, _, hexec, endTest_clock .., low, high, endTest_advance_ended ..⟩
  · have hexec : exec (.testAbort τ v) s = .next
        ((s.touchedAt τ).endTest run (.aborted .supervisor) (run.elapsed now) none false).runRound := by
      simp only [exec, execTestAbort, timed_released hline, liveRow_advance hlive]
      have aborted := abortTest_some (s := s.touchedAt τ) hrun .supervisor
      unfold State.abortWrite
      rw [aborted]
      rfl
    exact ⟨_, hexec, endTest_clock .., (endTest_ended (s.touchedAt τ) run _ _ none).of_clock⟩

end Sys2Proof.Machine
end

section
/-! PROOFS. The written read index against its ring, and the map lock (R134, R136, R157, R158, R163; O49, O53). -/

namespace Sys2Proof.Machine
open Sys2Proof

/-! ## Index arithmetic (R134, R136) -/

/-- A ring whose index span is not empty has at least as many index values as records. -/
theorem ringN_le_ringM {s : State} (h : 0 < s.ringM) : s.ringN ≤ s.ringM := by
  unfold State.ringM at h ⊢
  exact Nat.le_mul_of_pos_left _ (Nat.pos_of_mul_pos_right h)

/-- The distance back from `w` in an index span, said of integers and of naturals. -/
theorem toNat_sub_emod {w v m : Nat} (hv : v ≤ m) : (((w : Int) - v) % m).toNat = (w + m - v) % m := by
  have cast : (((w + m - v) % m : Nat) : Int) = ((w : Int) - v) % m := by
    rw [Int.natCast_emod, Nat.cast_sub (by omega), Nat.cast_add, add_sub_right_comm, Int.add_emod_right]
  rw [← cast, Int.toNat_natCast]

/-- A written value is taken as R136 says, where W is an index of its span. -/
theorem clampIndex_eq_indexTaken {s : State} (h : s.ev.w < s.ringM) (v : Nat) :
    s.clampIndex v = indexTaken s.ringN s.ringM s.ev.w v := by
  have hm : 0 < s.ringM := by omega
  unfold State.clampIndex indexTaken
  dsimp only
  by_cases hv : s.ringM ≤ v
  · rw [if_pos hv, if_pos hv]
  · rw [if_neg hv, if_neg hv, toNat_sub_emod (by omega), toNat_sub_emod h.le,
      toNat_sub_emod (ringN_le_ringM hm)]

/-- The records between an index value and W. -/
def behind (m w r : Nat) : Nat := (w + m - r) % m

theorem unread_eq_behind {s t : State} (hi : t.path.inst = s.path.inst) (hw : t.ev.w = s.ev.w) :
    t.unread = behind s.ringM s.ev.w t.ev.r := by
  unfold State.unread State.ringM behind
  rw [ringN_congr hi, hw]

theorem behind_self (m w : Nat) : behind m w w = 0 := by
  rw [behind, Nat.add_sub_cancel_left, Nat.mod_self]

/-- The index N records back from W has N records before it. -/
theorem behind_back {n m w : Nat} (hn : n ≤ m) (hw : w < m) : behind m w ((w + m - n) % m) ≤ n := by
  unfold behind
  by_cases hnw : n ≤ w
  · have back : (w + m - n) % m = w - n := by
      rw [show w + m - n = w - n + m by omega, Nat.add_mod_right, Nat.mod_eq_of_lt (by omega)]
    rw [back, show w + m - (w - n) = n + m by omega, Nat.add_mod_right]
    exact Nat.mod_le ..
  · have back : (w + m - n) % m = w + m - n := Nat.mod_eq_of_lt (by omega)
    rw [back, show w + m - (w + m - n) = n by omega]
    exact Nat.mod_le ..

theorem behind_clampIndex {s : State} (h : s.ev.w < s.ringM) (v : Nat) :
    behind s.ringM s.ev.w (s.clampIndex v) ≤ s.ringN := by
  have here : behind s.ringM s.ev.w s.ev.w ≤ s.ringN := by rw [behind_self]; exact Nat.zero_le _
  unfold State.clampIndex
  dsimp only
  split
  · exact here
  · split
    · next back => exact back
    · split
      · exact here
      · exact behind_back (ringN_le_ringM (by omega)) h

/-! ## A read index applied (R136, R138) -/

/-- R after a value of the read index field. -/
def State.indexFor (s : State) (v : Nat) : Nat := if 0 < s.ringN then s.clampIndex v else s.ev.r

/-- The event unit with R moved and the unkept attention flag cleared; a move marks the installation block. -/
def State.indexMoved (s : State) (r : Nat) : State :=
  let moved := { s with ev := { s.ev with r := r, unkept := false } }
  if r = s.ev.r then moved else moved.markInst

theorem applyIndex_eq (s : State) (v : Nat) : s.applyIndex v = (s.indexMoved (s.indexFor v)).reAlert := rfl

theorem indexMoved_ev (s : State) (r : Nat) : (s.indexMoved r).ev = { s.ev with r := r, unkept := false } := by
  unfold State.indexMoved; dsimp only; split <;> rfl

theorem indexMoved_only (s : State) (r : Nat) : Only [.ev, .path] s (s.indexMoved r) := by
  unfold State.indexMoved
  dsimp only
  split
  · exact (Only.setEv s _).mono
  · exact (Only.setEv s _).next (markInst_only _)

theorem indexMoved_marksOnly (s : State) (r : Nat) : MarksOnly s (s.indexMoved r) := by
  unfold State.indexMoved
  dsimp only
  split
  · exact .refl s
  · exact ⟨markInst_queueAndMarks _, rfl⟩

theorem indexMoved_dirty (s : State) (r : Nat) : (s.indexMoved r).path.dirty = s.path.dirty := by
  unfold State.indexMoved; dsimp only; split <;> rfl

theorem indexMoved_dirtyInst (s : State) (r : Nat) :
    (s.indexMoved r).path.dirtyInst = (s.path.dirtyInst || (s.configured && decide (r ≠ s.ev.r))) := by
  unfold State.indexMoved
  dsimp only
  split
  · next h => simp [h]
  · next h => simp [h, markInst_path, Bool.or_comm, State.configured]

theorem reAlert_ev (s : State) : s.reAlert.ev = { s.ev with alert := s.reAlert.alertLevel } := rfl

/-- Settles O49: a value held while LOADING, else R moved to the value taken. -/
theorem readIndexJudgedAgainstRing : Obligations.ReadIndexJudgedAgainstRing := by
  intro τ lo hi s hline hlive hsome now v n m w back ahead
  have touched := touchedAt_only s τ
  have hexec : exec (.readIndexWrite τ lo hi) s = .next (if s.store.ready then (s.touchedAt τ).applyIndex v
      else { s.touchedAt τ with ev := { s.ev with heldRd := some v } }) := by
    simp only [exec, execReadIndexWrite, timed_released hline]
    rw [if_pos hsome, liveRow_advance hlive]
    unfold State.takeIndex
    rw [if_neg (by cases lo <;> cases hi <;> simp_all)]
    rfl
  cases hr : s.store.ready with
  | false =>
    rw [hr] at hexec
    exact ⟨_, hexec, rfl, rfl, (touched.next (n := [.test, .ev, .path]) (Only.setEv _ _)).sameBut_advance,
      fun _ => ⟨rfl, rfl⟩, nofun⟩
  | true =>
    rw [hr, if_pos rfl, applyIndex_eq] at hexec
    set r := (s.touchedAt τ).indexFor v with hr'
    have only : Only [.ev, .path] (s.touchedAt τ) ((s.touchedAt τ).indexMoved r).reAlert :=
      (indexMoved_only _ r).next (reAlert_only _)
    have ev : ((s.touchedAt τ).indexMoved r).reAlert.ev = { s.ev with
        r := r, unkept := false, alert := ((s.touchedAt τ).indexMoved r).reAlert.alertLevel } := by
      rw [reAlert_ev, indexMoved_ev]; rfl
    have index : ((s.touchedAt τ).indexMoved r).reAlert.ev.r = r := by rw [ev]
    refine ⟨_, hexec, only.clock, only.test, (touched.next (n := [.test, .ev, .path]) only).sameBut_advance, nofun,
      fun _ => ⟨by rw [index]; exact ev, fun hn => ?_, fun hn hw => ?_, indexMoved_marksOnly (s.touchedAt τ) r,
        indexMoved_dirty (s.touchedAt τ) r, by rw [index]; exact indexMoved_dirtyInst (s.touchedAt τ) r⟩⟩
    · rw [index, hr']
      exact if_neg (by have : s.ringN = 0 := hn; change ¬0 < s.ringN; omega)
    · have taken : r = s.clampIndex v := if_pos hn
      rw [index]
      refine ⟨taken.trans (clampIndex_eq_indexTaken hw v), ?_⟩
      have unread := unread_eq_behind (s := s) (t := ((s.touchedAt τ).indexMoved r).reAlert)
        (indexMoved_marksOnly (s.touchedAt τ) r).1.path_inst (by rw [ev])
      rw [unread, index, taken]
      exact behind_clampIndex hw v

/-! ## The map lock (R163) -/

theorem liveWindow_mapLock (s : State) : s.liveWindow[44]? = some (if s.path.mapLock then 1#8 else 0#8) := by
  have len := testBytes_length s
  unfold State.liveWindow
  generalize s.testBytes = l at len ⊢
  simp [leBytes, List.getElem?_append, len]
  cases s.path.mapLock <;> rfl

theorem classify_inst {a : Nat} (h : a < 128) (s : State) : s.classify a = s.classifyInst := by
  have outside : inLive a = false := by simp [inLive]; omega
  unfold State.classify
  rw [if_neg (by simp [outside]), if_pos h]

theorem mapKnown_of_configured {s : State} (h : s.configured = true) : s.mapKnown = true ∧ s.unconfigured = false := by
  unfold State.configured at h
  unfold State.mapKnown State.unconfigured
  cases hi : s.path.inst <;> simp_all

theorem mapKnown_of_unconfigured {s : State} (h : s.unconfigured = true) : s.mapKnown = true := by
  unfold State.unconfigured at h
  unfold State.mapKnown
  cases hi : s.path.inst <;> simp_all

/-- The class of a byte of the installation block, by the configuration, the phase and the lock (R158). -/
theorem classifyInst_table (s : State) :
    (s.configured = true → s.phase.phase = .mains → s.path.mapLock = true → s.classifyInst = .refusing .locked) ∧
    (s.configured = true → s.phase.phase = .mains → s.path.mapLock = false → s.classifyInst = .forwarded) ∧
    (s.configured = true → s.phase.phase ≠ .mains → s.classifyInst = .refusing .phase) ∧
    (s.unconfigured = true → s.classifyInst = .forwarded) := by
  unfold State.classifyInst
  refine ⟨fun hc hp hl => ?_, fun hc hp hl => ?_, fun hc hp => ?_, fun hu => ?_⟩
  · obtain ⟨known, valid⟩ := mapKnown_of_configured hc
    simp [known, valid, hp, hl]
  · obtain ⟨known, valid⟩ := mapKnown_of_configured hc
    simp [known, valid, hp, hl]
  · obtain ⟨known, valid⟩ := mapKnown_of_configured hc
    simp [known, valid, hp]
  · simp [mapKnown_of_unconfigured hu, hu]

/-- Settles O53: the row, the byte served, the class of the installation block, and what keeps or clears the lock. -/
theorem mapLockProtectsInstallation : Obligations.MapLockProtectsInstallation := by
  refine ⟨?_, liveWindow_mapLock, fun s a ha => ?_, fun c s t hc hlock h => (exec_kept hc h).lock hlock,
    fun s => ⟨_, rfl, rfl⟩, fun τ s hline => ⟨_, rfl, ?_⟩⟩
  · intro τ v s hline hlive now
    have hexec : exec (.mapLockWrite τ v) s = .next ((s.touchedAt τ).lockWrite v) := by
      simp only [exec, execMapLockWrite, timed_released hline, liveRow_advance hlive]
    have lock : ((s.touchedAt τ).lockWrite v).path.mapLock = (s.path.mapLock || v != 0#8) := rfl
    refine ⟨_, hexec, rfl, rfl, fun hv => ?_, fun hv => ?_, rfl,
      ((touchedAt_only s τ).trans (.mono (.setPath _ _))).sameBut_advance⟩
    · rw [lock, bne_iff_ne.mpr hv, Bool.or_true]
    · rw [lock, hv]; simp
  · rw [classify_inst ha]
    exact classifyInst_table s
  · rw [if_pos hline]
    rfl

end Sys2Proof.Machine
end

section
/-! PROOFS. The movements of the supervisor link that carry no data: the fall of SL_CS#, another command, live rows that
are not taken, and a stuck select (R111, R155, R166 to R168; O54). -/

namespace Sys2Proof.Machine
open Sys2Proof

/-! ## An own access cut by the fall of SL_CS# (R166) -/

/-- The path unit as a transaction begins. -/
def Path.begun (x : Path) (now : Nat) : Path :=
  { x with csLow := true, csSince := now, slOut := [], txn := some { began := now } }

theorem fallCs_low {s : State} (h : s.path.csLow = true) : s.fallCs = s := if_pos h

theorem fallCs_high {s : State} (h : s.path.csLow = false) :
    s.fallCs = { s.preempt with path := s.preempt.path.begun s.preempt.clock } := by
  unfold State.fallCs
  rw [if_neg (by simp [h])]
  rfl

theorem preempt_free {s : State} (h : s.path.own = none) : s.preempt = s := by
  unfold State.preempt; rw [h]

/-- The access under way is gone from the memory link and owed a restart, unless its entry is gone. -/
theorem preempt_path {s : State} {o : Own} (h : s.path.own = some o) : s.preempt.path = { s.path with
    own := none, link := .idle, preempted := if o.void then none else some o.kind } := by
  unfold State.preempt State.cutOwn
  rw [h]
  dsimp only
  split <;> rfl

/-- Some of the first bytes of an own write stand in memory when it is cut (log 9). -/
theorem preempt_mem {s : State} {o : Own} (h : s.path.own = some o) :
    ∃ n ≤ o.data.length, s.preempt.mem = s.mem.writeBytes o.addr (o.data.take n) := by
  unfold State.preempt State.cutOwn
  rw [h]
  dsimp only
  split
  · exact ⟨0, Nat.zero_le _, rfl⟩
  · exact ⟨_, Nat.lt_succ_iff.mp (Nat.mod_lt _ (Nat.succ_pos _)), rfl⟩

theorem preempt_only (s : State) : Only [.path, .mem] s s.preempt := by
  unfold State.preempt State.cutOwn
  split
  · exact .refl s
  · dsimp only
    split <;> exact ⟨rfl, rfl, fun b hb => by cases b <;> simp_all [Part.Same]⟩

/-! ## A stuck select (R167) -/

/-- The address that a transaction has reached, −1 without a command that carries one (logs 52, 62). -/
def Txn.reached (x : Txn) : Int := if x.cmd = some .read ∨ x.cmd = some .write then x.addr else -1

/-- The part as the select of its transaction `x` is found stuck. -/
def State.stuckSelect (s : State) (x : Txn) : State :=
  { s with path := { s.path with link := .stuck, txn := some { x with stuck := true, mlLow := false } } }

theorem openTxn_some {s : State} {x : Txn} (hx : s.path.txn = some x) (h : x.stuck = false) : s.openTxn = some x := by
  unfold State.openTxn; rw [hx]; simp [h]

theorem openTxn_none {s : State} (h : s.path.txn = none ∨ ∃ x, s.path.txn = some x ∧ x.stuck = true) :
    s.openTxn = none := by
  unfold State.openTxn
  rcases h with h | ⟨x, hx, h⟩
  · rw [h]; rfl
  · rw [hx]; simp [h]

theorem stickCs_due {s : State} {x : Txn} (hx : s.path.txn = some x) (hs : x.stuck = false)
    (h : s.path.csLow = true ∧ x.began + Config.stuckTime ≤ s.clock) :
    s.stickCs = (s.stuckSelect x).raise .linkStuck noSubject x.reached 0 := by
  unfold State.stickCs Txn.reached State.stuckSelect State.modTxn
  rw [openTxn_some hx hs]
  dsimp only
  rw [if_pos h, hx]
  rcases hc : x.cmd with _ | _ | _ | _ <;> simp [hc]

theorem stickCs_early {s : State} (h : s.path.txn = none ∨ s.path.csLow = false ∨
    ∃ x, s.path.txn = some x ∧ (x.stuck = true ∨ s.clock < x.began + Config.stuckTime)) : s.stickCs = s := by
  unfold State.stickCs
  cases hx : s.openTxn with
  | none => rfl
  | some x =>
    obtain ⟨hopen, hs⟩ := Option.filter_eq_some_iff.mp hx
    refine if_neg fun ⟨hlow, hdue⟩ => ?_
    rcases h with h | h | ⟨y, hy, h⟩
    · rw [h] at hopen; cases hopen
    · rw [h] at hlow; cases hlow
    · obtain rfl : x = y := Option.some.inj (hopen.symm.trans hy)
      rcases h with h | h
      · simp [h] at hs
      · omega

theorem stickCs_only (s : State) : Only [.ev, .path] s s.stickCs := by
  unfold State.stickCs
  split
  · exact .refl s
  · split
    · exact (Only.setPath s _).next (raise_only ..)
    · exact .refl s

/-! ## A command that is no array command (R155) -/

theorem takeOther_open {s : State} {x : Txn} (hx : s.path.txn = some x) (hs : x.stuck = false) (hc : x.cmd = none) :
    s.takeOther = { s with path := { s.path with txn := some { x with cmd := some .other } } } := by
  unfold State.takeOther State.modTxn
  rw [openTxn_some hx hs, hx]
  simp [hc]

theorem takeOther_none {s : State} (h : s.path.txn = none) : s.takeOther = s := by
  unfold State.takeOther
  rw [openTxn_none (.inl h)]

theorem takeOther_only (s : State) : Only [.path] s s.takeOther := by
  unfold State.takeOther
  split
  · exact .refl s
  · split
    · exact .setPath s _
    · exact .refl s

/-! ## Live rows that are not taken (R155, R167, R168) -/

/-- A command that names a live byte of its own moves the clock alone where the path unit does not take it. -/
theorem exec_liveAt_shut {c : Instr} {τ : Nat} {s : State} (hline : s.line = .released) (hc : c.liveAt = some τ)
    (h : s.takesLive = false) : exec c s = .next (s.advance τ) := by
  have shut (act : State → State) : (s.advance τ).liveRow act = s.advance τ := liveRow_shut (s := s.advance τ) h act
  cases c with
  | startLevelWrite => cases hc; simp only [exec, execStartLevelWrite, timed_released hline, shut]
  | barClear => cases hc; simp only [exec, execBarClear, timed_released hline, shut]
  | scanTrigger _ source =>
    cases source with
    | supervisor => cases hc; simp only [exec, execScanTrigger, timed_released hline, shut, if_pos]
    | _ => cases hc
  | scanStop => cases hc; simp only [exec, execScanStop, timed_released hline, shut]
  | claimAttempt => cases hc; simp only [exec, execClaimAttempt, timed_released hline, shut]
  | claimRelease => cases hc; simp only [exec, execClaimRelease, timed_released hline, shut]
  | testRequest => cases hc; simp only [exec, execTestRequest, timed_released hline, shut, ite_self]
  | testAbort => cases hc; simp only [exec, execTestAbort, timed_released hline, shut]
  | readIndexWrite => cases hc; simp only [exec, execReadIndexWrite, timed_released hline, shut, ite_self]
  | bankSwitchWrite => cases hc; simp only [exec, execBankSwitchWrite, timed_released hline, shut]
  | mapLockWrite => cases hc; simp only [exec, execMapLockWrite, timed_released hline, shut]
  | liveWriteAbsorbed => cases hc; simp only [exec, execLiveWriteAbsorbed, timed_released hline, shut]
  | _ => cases hc

theorem takesLive_shut {s : State} (h : (s.path.csLow = true ∧ s.path.txn = none) ∨
    ∃ x, s.path.txn = some x ∧ (x.stuck = true ∨ x.cmd = some .other)) : s.takesLive = false := by
  unfold State.takesLive
  rcases h with ⟨hlow, hx⟩ | ⟨x, hx, hs | hc⟩
  · simp [hx, hlow]
  · simp [hx, hs]
  · simp [hx, hc]

/-- Settles O54: the fall of SL_CS#, another command, the rows not taken, the absorbed byte, the stuck select. -/
theorem linkMovementsWithoutData : Obligations.LinkMovementsWithoutData := by
  intro τ s hline now
  refine ⟨?_, fun command => ?_, fun c hc h => ?_, fun off v hlive => ?_, ?_⟩
  · have hexec : exec (.transactionStart τ) s = .next (s.advance τ).fallCs := by
      simp only [exec, execTransactionStart, if_pos hline]
    cases hlow : s.path.csLow with
    | true =>
      rw [fallCs_low (s := s.advance τ) hlow] at hexec
      exact ⟨_, hexec, rfl, fun _ => advance_sameBut s τ, nofun⟩
    | false =>
      rw [fallCs_high (s := s.advance τ) hlow] at hexec
      have preempted := preempt_only (s.advance τ)
      refine ⟨_, hexec, preempted.clock, nofun, fun _ => ⟨fun hown => ?_, fun o hown => ⟨?_, ?_, ?_⟩⟩⟩
      · rw [preempt_free (s := s.advance τ) hown]
        exact ⟨(Only.setPath (s.advance τ) _).sameBut_advance, rfl⟩
      · exact (preempted.trans (.mono (.setPath _ _))).sameBut_advance
      · have path := preempt_path (s := s.advance τ) hown
        have clock := preempted.clock
        dsimp only
        rw [path, clock]
        rfl
      · exact preempt_mem (s := s.advance τ) hown
  · have hexec : exec (.otherCommand τ command) s = .next (s.advance τ).takeOther := by
      simp only [exec, execOtherCommand, timed_released hline]
    refine ⟨_, hexec, (takeOther_only _).clock, fun x hx hs hc => ?_, fun hx => ?_⟩
    · rw [takeOther_open (s := s.advance τ) hx hs hc]
      exact ⟨rfl, (Only.setPath (s.advance τ) _).sameBut_advance⟩
    · rw [takeOther_none (s := s.advance τ) hx]
      exact advance_sameBut s τ
  · exact ⟨_, exec_liveAt_shut hline hc (takesLive_shut h), rfl, advance_sameBut s τ⟩
  · have hexec : exec (.liveWriteAbsorbed τ off v) s = .next (s.touchedAt τ) := by
      simp only [exec, execLiveWriteAbsorbed, timed_released hline, liveRow_advance hlive, id]
    exact ⟨_, hexec, rfl, rfl, rfl, (touchedAt_only s τ).sameBut_advance⟩
  · have hexec : exec (.linkStuck τ) s = .next (s.advance τ).stickCs := by
      simp only [exec, execLinkStuck, timed_released hline]
    refine ⟨_, hexec, (stickCs_only _).clock, fun x hx hs hlow hdue => ?_, fun h => ?_⟩
    · rw [stickCs_due (s := s.advance τ) hx hs ⟨hlow, hdue⟩]
      refine ⟨rfl, ?_, ((Only.setPath (s.advance τ) _).next (raise_only ..)).sameBut_advance⟩
      exact (raise_raised ((s.advance τ).stuckSelect x) .linkStuck noSubject x.reached 0).congr rfl rfl rfl rfl
        ⟨rfl, rfl, rfl, rfl, rfl⟩
    · rw [stickCs_early (s := s.advance τ) h]
      exact advance_sameBut s τ

end Sys2Proof.Machine
end

section
/-! PROOFS. An array read byte by byte: memory, the one snapshot of the live window, and the claim attempt of the
transaction (R110, R111, R155, R161; O55). -/

namespace Sys2Proof.Machine
open Sys2Proof

/-! ## The addresses of a burst (R155) -/

/-- The address of byte `k` of a burst that begins at `a`. -/
def burstAddr (a k : Nat) : Nat := (a + k) % Config.memSize

theorem burstAddr_next (a k : Nat) : burstAddr (nextAddr a) k = burstAddr a (k + 1) := by
  unfold burstAddr nextAddr
  rw [Nat.mod_add_mod, Nat.add_right_comm, Nat.add_assoc]

/-- The first `n` addresses of a burst that begins at `a`. -/
def burstAddrs (a n : Nat) : List Nat := (List.range n).map (burstAddr a)

theorem burstAddrs_succ (a n : Nat) : burstAddrs a (n + 1) = burstAddr a 0 :: burstAddrs (nextAddr a) n := by
  unfold burstAddrs
  rw [List.range_succ_eq_map, List.map_cons, List.map_map]
  congr 2
  funext k
  exact (burstAddr_next a k).symm

theorem burstAddr_zero {a : Nat} (h : a < Config.memSize) : burstAddr a 0 = a := Nat.mod_eq_of_lt h

theorem nextAddr_lt (a : Nat) : nextAddr a < Config.memSize := Nat.mod_lt _ (by decide)

theorem readBurst_eq (n : Nat) {a : Nat} (h : a < Config.memSize) (s : State) :
    State.readBurst n a s =
      ((burstAddrs a n).foldl State.readOne s).modTxn fun t => { t with addr := burstAddr a n } := by
  induction n generalizing a s with
  | zero => unfold State.readBurst; rw [burstAddr_zero h]; rfl
  | succ n ih =>
    unfold State.readBurst
    rw [ih (nextAddr_lt a), burstAddrs_succ, List.foldl_cons, burstAddr_zero h, burstAddr_next]

/-! ## A live byte read (R110, R161) -/

/-- The claim byte's value in a transaction: that of its first attempt. -/
def State.claimValue (s : State) (x : Txn) : Byte :=
  x.claim.getD (if s.test.owner = .none ∧ s.test.run = none then 0#8 else 1#8)

/-- The snapshot of a transaction's live bytes. -/
def State.windowFor (s : State) (x : Txn) : List Byte := x.snap.getD s.liveWindow

/-- The window touched by a transaction: its first live byte restarts the lapse timer of a HELD claim. -/
theorem touch_some {s : State} {x : Txn} (hx : s.path.txn = some x) : s.touch = { s with
    path := { s.path with txn := some { x with live := true } }
    test := { s.test with lapse := if x.live = false ∧ s.test.claim = .held then some s.clock else s.test.lapse } } := by
  unfold State.touch State.restartLapse
  rw [hx]
  dsimp only
  cases hl : x.live with
  | true => rw [if_pos rfl, if_neg (by simp), ← hl, ← hx]
  | false => simp

/-- The first live byte of a transaction takes the snapshot and touches the window. -/
theorem takeSnapshot_touch {s : State} {x : Txn} (hx : s.path.txn = some x) : s.takeSnapshot.touch = { s with
    path := { s.path with txn := some { x with live := true, snap := some (s.windowFor x) } }
    test := { s.test with lapse := if x.live = false ∧ s.test.claim = .held then some s.clock else s.test.lapse } } := by
  have snap : s.takeSnapshot =
      { s with path := { s.path with txn := some { x with snap := some (s.windowFor x) } } } := by
    unfold State.takeSnapshot State.modTxn State.windowFor
    rw [hx, Option.map_some]
    rcases x with ⟨_, _, _, _, _, _, _, _, _ | l, _⟩ <;> rfl
  rw [snap, touch_some (x := { x with snap := some (s.windowFor x) }) rfl]

/-- The claim byte reached in a read. -/
theorem readClaim_eq {s : State} {x : Txn} (hx : s.path.txn = some x) : s.readClaim = { s with
    path := { s.path with
      txn := some { x with claim := some (s.claimValue x) }, slOut := s.path.slOut ++ [s.claimValue x] }
    test := if x.claim = none ∧ s.test.owner = .none ∧ s.test.run = none then
        { s.test with claim := .held, owner := .supervisor, lapse := some s.clock }
      else s.test } := by
  unfold State.readClaim State.claimValue State.attemptClaim
  rw [hx]
  dsimp only
  rcases x with ⟨_, _, _, _, _, _, _, _, _, _ | w, _⟩
  · dsimp only
    split <;> simp_all
  · simp [hx]

/-! ## The bytes of a read -/

/-- The byte that goes out at an address. -/
def State.readByte (s : State) (x : Txn) (a : Nat) : Byte :=
  if a = 147 then s.claimValue x else if inLive a then (s.windowFor x).getD (a - 128) 0#8 else s.mem.read a

/-- The test unit after the bytes at some addresses have been read. -/
def State.readTest (s : State) (x : Txn) (live claims : Bool) : TestUnit :=
  if claims = true ∧ x.claim = none ∧ s.test.owner = .none ∧ s.test.run = none then
    { s.test with claim := .held, owner := .supervisor, lapse := some s.clock }
  else if live = true ∧ x.live = false ∧ s.test.claim = .held then { s.test with lapse := some s.clock }
  else s.test

/-- A transaction after the bytes at some addresses have been read. -/
def State.readTxn (s : State) (x : Txn) (live claims : Bool) : Txn := { x with
  live := x.live || live
  snap := if live then some (s.windowFor x) else x.snap
  claim := if claims then some (s.claimValue x) else x.claim }

/-- The part after the bytes at some addresses have been read in one burst. -/
def State.readAll (s : State) (x : Txn) (l : List Nat) : State := { s with
  path := { s.path with
    txn := some (s.readTxn x (l.any inLive) (l.any (· = 147))), slOut := s.path.slOut ++ l.map (s.readByte x) }
  test := s.readTest x (l.any inLive) (l.any (· = 147)) }

theorem readAll_nil {s : State} {x : Txn} (hx : s.path.txn = some x) : s.readAll x [] = s := by
  simp [State.readAll, State.readTxn, State.readTest, ← hx]

/-- A transaction that has reached the claim byte has reached a live byte. -/
theorem any_inLive_of_claims {l : List Nat} (h : l.any (· = 147) = true) : l.any inLive = true := by
  obtain ⟨a, ha, hc⟩ := List.any_eq_true.mp h
  obtain rfl : a = 147 := of_decide_eq_true hc
  exact List.any_eq_true.mpr ⟨147, ha, rfl⟩

/-- Before the first live byte of a burst the test unit stands as it did. -/
theorem readTest_untouched (s : State) (x : Txn) : s.readTest x false false = s.test := by simp [State.readTest]

/-- One snapshot serves all live bytes of a transaction. -/
theorem windowFor_readAll (s : State) (x : Txn) (l : List Nat) :
    (s.readAll x l).windowFor (s.readTxn x (l.any inLive) (l.any (· = 147))) = s.windowFor x := by
  unfold State.windowFor State.readTxn State.readAll
  cases hl : l.any inLive with
  | true => rfl
  | false =>
    have claims : l.any (· = 147) = false := Bool.eq_false_iff.mpr fun h => by
      rw [any_inLive_of_claims h] at hl; cases hl
    rw [claims, readTest_untouched]
    rfl

/-- A touch of the window after the first live byte changes nothing more. -/
theorem readTest_touched (s : State) (x : Txn) {live claims : Bool} (h : claims = true → live = true) :
    { s.readTest x live claims with
      lapse := if (x.live || live) = false ∧ (s.readTest x live claims).claim = .held then some s.clock
        else (s.readTest x live claims).lapse } = s.readTest x true claims := by
  cases live with
  | true => simp
  | false =>
    obtain rfl : claims = false := Bool.eq_false_iff.mpr fun hc => by cases h hc
    unfold State.readTest
    by_cases held : x.live = false ∧ s.test.claim = .held <;> simp [held]

/-- Until the claim byte is reached the channel's owner and its test stand as they did. -/
theorem readTest_unclaimed (s : State) (x : Txn) (live : Bool) :
    (s.readTest x live false).owner = s.test.owner ∧ (s.readTest x live false).run = s.test.run := by
  unfold State.readTest
  rw [if_neg (by simp)]
  split <;> exact ⟨rfl, rfl⟩

/-- The claim is attempted once, whatever has been touched before. -/
theorem readTest_claimed (s : State) (x : Txn) (claims : Bool) :
    (if (s.readTxn x true claims).claim = none ∧ (s.readTest x true claims).owner = .none ∧
        (s.readTest x true claims).run = none then
      { s.readTest x true claims with claim := .held, owner := .supervisor, lapse := some s.clock }
    else s.readTest x true claims) = s.readTest x true true := by
  cases claims with
  | true => exact if_neg fun h => Option.some_ne_none _ h.1
  | false =>
    obtain ⟨owner, run⟩ := readTest_unclaimed s x true
    have claim : (s.readTxn x true false).claim = x.claim := rfl
    rw [claim, owner, run]
    unfold State.readTest
    by_cases held : x.live = false ∧ s.test.claim = .held <;> simp [held]

/-- The claim byte keeps the value of its first attempt. -/
theorem claimValue_readTxn {s t : State} {x : Txn} {live claims : Bool} (h : t.test.owner = (s.readTest x live claims).owner)
    (hr : t.test.run = (s.readTest x live claims).run) : t.claimValue (s.readTxn x true claims) = s.claimValue x := by
  cases claims with
  | true => rfl
  | false =>
    obtain ⟨owner, run⟩ := readTest_unclaimed s x live
    unfold State.claimValue
    rw [h, hr, owner, run]
    rfl

/-- The part with the window touched by one more live byte of the burst, before that byte goes out. -/
def State.readTouched (s : State) (x : Txn) (l : List Nat) : State := { s with
  path := { s.path with
    txn := some (s.readTxn x true (l.any (· = 147))), slOut := s.path.slOut ++ l.map (s.readByte x) }
  test := s.readTest x true (l.any (· = 147)) }

theorem readAll_touch (s : State) (x : Txn) (l : List Nat) :
    (s.readAll x l).takeSnapshot.touch = s.readTouched x l := by
  have hx : (s.readAll x l).path.txn = some (s.readTxn x (l.any inLive) (l.any (· = 147))) := rfl
  have touched := readTest_touched s x (live := l.any inLive) (claims := l.any (· = 147)) any_inLive_of_claims
  rw [takeSnapshot_touch hx, windowFor_readAll]
  unfold State.readTouched
  rw [← touched]
  simp [State.readAll, State.readTxn]

theorem readTouched_readClaim (s : State) (x : Txn) (l : List Nat) :
    (s.readTouched x l).readClaim = s.readAll x (l ++ [147]) := by
  have hx : (s.readTouched x l).path.txn = some (s.readTxn x true (l.any (· = 147))) := rfl
  have value : (s.readTouched x l).claimValue (s.readTxn x true (l.any (· = 147))) = s.claimValue x :=
    claimValue_readTxn rfl rfl
  have live : (l ++ [147]).any inLive = true := by simp [inLive]
  have claims : (l ++ [147]).any (· = 147) = true := by simp
  have bytes : (l ++ [147]).map (s.readByte x) = l.map (s.readByte x) ++ [s.claimValue x] := by
    rw [List.map_append]; rfl
  rw [readClaim_eq hx, value]
  unfold State.readAll
  rw [live, claims, bytes, ← readTest_claimed s x (l.any (· = 147)), ← List.append_assoc]
  rfl

theorem readAll_snoc (s : State) (x : Txn) (l : List Nat) (a : Nat) :
    s.readAll x (l ++ [a]) = (s.readAll x l).readOne a := by
  have hx : (s.readAll x l).path.txn = some (s.readTxn x (l.any inLive) (l.any (· = 147))) := rfl
  unfold State.readOne
  cases ha : inLive a with
  | false =>
    have other : a ≠ 147 := by rintro rfl; cases ha
    rw [if_neg (by simp)]
    simp [State.readAll, State.sendByte, State.readByte, List.any_append, ha, other]
  | true =>
    rw [if_pos rfl, readAll_touch]
    by_cases h : a = 147
    · rw [if_pos h, readTouched_readClaim, h]
    · rw [if_neg h]
      simp [State.readAll, State.readTouched, State.sendByte, State.snapByte, State.readByte, State.readTxn, ha, h]

theorem foldl_readOne {s : State} {x : Txn} (hx : s.path.txn = some x) (l : List Nat) :
    l.foldl State.readOne s = s.readAll x l := by
  induction l using List.reverseRecOn with
  | nil => exact (readAll_nil hx).symm
  | append_singleton l a ih => rw [List.foldl_append, ih, readAll_snoc]; rfl

/-! ## The array read -/

/-- The part as an array read is begun, or goes on. -/
def State.readOpened (s : State) (x : Txn) : State := { s with path := { s.path with
  link := if x.cmd = none then .forwarding else s.path.link
  txn := some { x with cmd := some .read, mlLow := if x.cmd = none then true else x.mlLow } } }

/-- An array read is that of all its bytes, from its address or from where its burst stands (log 8). -/
theorem takeRead_eq {s : State} {x : Txn} (hx : s.path.txn = some x) (hs : x.stuck = false)
    (hc : x.cmd = none ∨ x.cmd = some .read) (addr count : Nat) : s.takeRead addr count =
      State.readBurst count (if x.cmd = none then addr % Config.memSize else x.addr) (s.readOpened x) := by
  unfold State.takeRead State.readOpened State.modTxn
  rw [openTxn_some hx hs]
  rcases hc with hc | hc
  · simp [hc, hx]
  · rcases x with ⟨_, _, _⟩
    cases hc
    simp [← hx]

/-- Settles O55: the bytes of the read, one after the other. -/
theorem arrayReadServesMemoryAndSnapshot : Obligations.ArrayReadServesMemoryAndSnapshot := by
  intro τ addr count x s hline hx hs hc haddr hxaddr now first at_ live claims window free claim
  have hfirst : first < Config.memSize := by
    unfold first; split
    · exact haddr
    · exact hxaddr
  have hexec : exec (.arrayRead τ addr count) s = .next ((s.advance τ).takeRead addr count) := by
    simp only [exec, execArrayRead, timed_released hline]
  have begin : (if x.cmd = none then addr % Config.memSize else x.addr) = first := by
    rw [Nat.mod_eq_of_lt (b := Config.memSize) haddr]
  set u := (s.advance τ).readOpened x
  set x' : Txn := { x with cmd := some .read, mlLow := if x.cmd = none then true else x.mlLow }
  have hux : u.path.txn = some x' := rfl
  rw [takeRead_eq (s := s.advance τ) hx hs hc, begin, readBurst_eq count hfirst, foldl_readOne hux] at hexec
  have live_eq : (burstAddrs first count).any inLive = live := List.any_map ..
  have claims_eq : (burstAddrs first count).any (· = 147) = claims := List.any_map ..
  unfold State.readAll at hexec
  rw [live_eq, claims_eq] at hexec
  refine ⟨_, hexec, rfl, liveWindow_length _, ?_, ?_, ?_⟩
  · have bytes : (burstAddrs first count).map (u.readByte x') = (List.range count).map fun k =>
        if at_ k = 147 then claim
        else if inLive (at_ k) then window.getD (at_ k - 128) 0#8
        else s.mem.read (at_ k) := List.map_map ..
    rw [bytes]
    rfl
  · rfl
  · exact ((Only.setPath (s.advance τ) _).next (n := [.test, .path]) (Only.setTest _ _)).sameBut_advance

end Sys2Proof.Machine
end

section
/-! PROOFS. Operations on the other units leave the supervisor's transaction alone: they neither read nor write its
fields, but for the bytes it has placed (R148, R150, R161; O56). -/

namespace Sys2Proof.Machine
open Sys2Proof

/-! ## Freedom from the transaction -/

/-- A change of a transaction that neither reads nor moves the bytes it has placed. -/
def Txn.SparesPlaced (f : Txn → Txn) : Prop := ∀ x l, f { x with placed := l } = { f x with placed := l }

theorem Txn.SparesPlaced.placed {f : Txn → Txn} (h : Txn.SparesPlaced f) (x : Txn) : (f x).placed = x.placed := by
  have same := congrArg Txn.placed (h x x.placed)
  exact same

/-- What an operation on the other units leaves of the link: no time passes, no reset moves, memory and map stay, and
the transaction goes on. -/
def State.linkFrame (s : State) : Nat × ResetLine × Mem × Option Mem × Bool :=
  (s.clock, s.line, s.mem, s.path.inst, s.path.txn.isSome)

/-- An operation does the same whatever the transaction's fields are, the bytes placed aside. -/
structure TxnFree (op : State → State) : Prop where
  commutes : ∀ f, Txn.SparesPlaced f → ∀ s, op (s.modTxn f) = (op s).modTxn f
  frame : ∀ s, (op s).linkFrame = s.linkFrame

namespace TxnFree

variable {g h : State → State}

theorem id : TxnFree fun s => s := ⟨fun _ _ _ => rfl, fun _ => rfl⟩

theorem comp (hg : TxnFree g) (hh : TxnFree h) : TxnFree fun s => h (g s) where
  commutes f hf s := by rw [hg.commutes f hf, hh.commutes f hf]
  frame s := (hh.frame _).trans (hg.frame s)

/-- At each state the operation is one that is free, whatever the transaction is. -/
theorem of_cases {op : State → State}
    (h : ∀ s, ∃ g, TxnFree g ∧ op s = g s ∧ ∀ f, op (s.modTxn f) = g (s.modTxn f)) : TxnFree op where
  commutes f hf s := by
    obtain ⟨g, free, here, there⟩ := h s
    rw [there, here, free.commutes f hf]
  frame s := by
    obtain ⟨g, free, here, -⟩ := h s
    rw [here, free.frame]

/-- A choice that does not look at the transaction. -/
theorem ite {c : State → Prop} [∀ s, Decidable (c s)] (hc : ∀ f s, c (s.modTxn f) ↔ c s) (hg : TxnFree g)
    (hh : TxnFree h) : TxnFree fun s => if c s then g s else h s :=
  .of_cases fun s => by
    by_cases hs : c s
    · exact ⟨g, hg, if_pos hs, fun f => if_pos ((hc f s).mpr hs)⟩
    · exact ⟨h, hh, if_neg hs, fun f => if_neg fun hf => hs ((hc f s).mp hf)⟩

/-- A case over a signal that does not look at the transaction. -/
theorem option {α : Type} {op : State → State} {o : State → Option α} {k : α → State → State}
    (eq : ∀ s, op s = (o s).elim (h s) (k · s)) (ho : ∀ f s, o (s.modTxn f) = o s)
    (hk : ∀ a, TxnFree (k a)) (hh : TxnFree h) : TxnFree op :=
  .of_cases fun s => by
    cases hs : o s with
    | none => exact ⟨h, hh, by rw [eq, hs]; rfl, fun f => by rw [eq, ho f s, hs]; rfl⟩
    | some a => exact ⟨k a, hk a, by rw [eq, hs]; rfl, fun f => by rw [eq, ho f s, hs]; rfl⟩

/-- An operation with an argument that does not look at the transaction. -/
theorem arg {α : Type} {a : State → α} {k : α → State → State} (ha : ∀ f s, a (s.modTxn f) = a s)
    (hk : ∀ a, TxnFree (k a)) : TxnFree fun s => k (a s) s :=
  .of_cases fun s => ⟨k (a s), hk (a s), rfl, fun f => by rw [ha f s]⟩

theorem fold {α : Type} {k : State → α → State} (hk : ∀ a, TxnFree fun s => k s a) (l : List α) :
    TxnFree fun s => l.foldl k s := by
  induction l with
  | nil => exact .id
  | cons a rest ih => exact (hk a).comp ih

end TxnFree

/-! ## Marks, ports and the queue -/

theorem markPort_txnFree (p : Fin 48) : TxnFree fun s => s.markPort p := ⟨fun _ _ _ => rfl, fun _ => rfl⟩

theorem setPort_markPort_txnFree (p : Fin 48) {x : State → Port} (h : ∀ f s, x (s.modTxn f) = x s) :
    TxnFree fun s => (s.setPort p (x s)).markPort p :=
  .arg (k := fun y s => (s.setPort p y).markPort p) h fun _ => ⟨fun _ _ _ => rfl, fun _ => rfl⟩

theorem markPortIf_txnFree (c : Bool) (p : Fin 48) : TxnFree fun s => s.markPortIf c p := by
  cases c
  · exact .id
  · exact markPort_txnFree p

theorem dequeue_txnFree (p : Fin 48) : TxnFree fun s => s.dequeue p :=
  .arg (a := fun s => s.queued p)
    (k := fun c s => State.markPortIf
      { s with sched := { s.sched with queue := s.sched.queue.filter fun e => e.port ≠ p } } c p)
    (fun _ _ => rfl) fun c => .comp (g := fun s =>
      { s with sched := { s.sched with queue := s.sched.queue.filter fun e => e.port ≠ p } })
      ⟨fun _ _ _ => rfl, fun _ => rfl⟩ (markPortIf_txnFree c p)

theorem endFeed_txnFree (p : Fin 48) : TxnFree fun s => s.endFeed p :=
  .ite (c := fun s => (s.port p).action = .feeding) (fun _ _ => .rfl)
    (setPort_markPort_txnFree p fun _ _ => rfl) .id

theorem endLowestFeed_txnFree : TxnFree State.endLowestFeed :=
  .option (o := State.lowestFeed) (k := fun p s => s.endFeed p)
    (fun s => by unfold State.endLowestFeed; cases s.lowestFeed <;> rfl) (fun _ _ => rfl) endFeed_txnFree .id

theorem trimFeeds_txnFree (n : Nat) : TxnFree (State.trimFeeds n) := by
  induction n with
  | zero => exact .id
  | succ n ih =>
    exact .ite (c := fun s => s.header.feedLimit < s.feedingCount) (fun _ _ => .rfl)
      (endLowestFeed_txnFree.comp ih) .id

/-! ## A change of the plan in use (R147 to R150) -/

theorem replanPorts_txnFree : TxnFree State.replanPorts := by
  have marks (c : Fin 48 → Bool) : TxnFree fun s => allPorts.foldl (fun y p => y.markPortIf (c p) p) s :=
    .fold (fun p => markPortIf_txnFree (c p) p) allPorts
  exact .arg (a := fun s => (Tab.ofFn fun p => Port.replan (s.policy p) (s.port p), s.port))
    (k := fun a s => allPorts.foldl (fun x p => x.markPortIf
      ((a.2 p).action != .off && ((a.1.get p).u != (a.2 p).u || (a.1.get p).key != (a.2 p).key
        || (a.1.get p).deficit != (a.2 p).deficit || (a.1.get p).cap != (a.2 p).cap)) p) { s with ports := a.1 })
    (fun _ _ => rfl) fun a => .comp (g := fun s => { s with ports := a.1 }) ⟨fun _ _ _ => rfl, fun _ => rfl⟩ (marks _)

theorem purge_txnFree : TxnFree State.purge :=
  .arg (a := fun s => (s.sched.queue.map QueueEntry.port).filter s.purges) (k := fun l s => l.foldl State.dequeue s)
    (fun _ _ => rfl) fun l => .fold dequeue_txnFree l

theorem loadLimits_txnFree : TxnFree State.loadLimits := by
  have each (p : Fin 48) : TxnFree fun s => if (s.port p).action = .off then s else s.loadLimit p :=
    .ite (c := fun s => (s.port p).action = .off) (fun _ _ => .rfl) .id ⟨fun _ _ _ => rfl, fun _ => rfl⟩
  unfold State.loadLimits
  exact .fold each allPorts

theorem carry_txnFree (old : PlanUse) : TxnFree fun s => s.carry old := by
  have reorder : TxnFree State.reorder := ⟨fun _ _ _ => rfl, fun _ => rfl⟩
  have tail : TxnFree fun s => ((s.scanPlan old).adjustRota.clearEdges).reHold := ⟨fun _ _ _ => rfl, fun _ => rfl⟩
  have steps (n : Nat) := ((((replanPorts_txnFree.comp purge_txnFree).comp reorder).comp (trimFeeds_txnFree n)).comp
    loadLimits_txnFree).comp tail
  unfold State.carry
  exact steps 48

theorem raise_txnFree (kind : EventKind) (subject : Nat) {value : State → Int} (h : ∀ f s, value (s.modTxn f) = value s)
    (cause : Nat) : TxnFree fun s => s.raise kind subject (value s) cause :=
  .arg (k := fun v s => s.raise kind subject v cause) h fun _ => ⟨fun _ _ _ => rfl, fun _ => rfl⟩

/-- A bank is judged on the bytes placed, which a change of the other fields keeps. -/
theorem judged_modTxn (s : State) {f : Txn → Txn} (hf : Txn.SparesPlaced f) (target : Bank) :
    (s.modTxn f).judged target = s.judged target := by
  have image : (s.modTxn f).judgedImage target = s.judgedImage target := by
    have region : (s.modTxn f).bankRegion target = s.bankRegion target := rfl
    have txn : (s.modTxn f).path.txn = s.path.txn.map f := rfl
    unfold State.judgedImage
    rw [region, txn]
    cases s.bankRegion target with
    | none => rfl
    | some r =>
      cases s.path.txn with
      | none => rfl
      | some x => simp only [Option.map_some, hf.placed]; rfl
  unfold State.judged
  rw [image]
  cases target <;> rfl

theorem judging_txnFree (target : Bank) : TxnFree fun s => s.judging target where
  commutes f hf s := by
    unfold State.judging
    rw [judged_modTxn s hf]
    cases target <;> rfl
  frame s := by cases target <;> rfl

theorem dropForwarded_txnFree (target : Bank) : TxnFree fun s => s.dropForwarded target := by
  have drop (r : Region) : TxnFree fun s =>
      { s with path := { s.path with txn := s.path.txn.map fun x => x.without r } } := by
    refine ⟨fun f hf s => ?_, fun s => ?_⟩
    · have comm : ∀ x, (f x).without r = f (x.without r) := fun x => by
        have placed := hf.placed x
        unfold Txn.without
        rw [placed]
        exact (hf x _).symm
      simp only [State.modTxn, Option.map_map, Function.comp_def, comm]
    · simp [State.linkFrame]
  exact .option (o := fun s => s.bankRegion target)
    (k := fun r s => if s.phase.phase = .mains then s else
      { s with path := { s.path with txn := s.path.txn.map fun x => x.without r } })
    (fun s => by unfold State.dropForwarded; cases s.bankRegion target <;> rfl) (fun _ _ => rfl)
    (fun r => .ite (c := fun s => s.phase.phase = .mains) (fun _ _ => .rfl) .id (drop r)) .id

theorem switched_txnFree (target : Bank) : TxnFree fun s => s.switched target := by
  have activated : TxnFree fun s => s.activated target := ⟨fun _ _ _ => by cases target <;> rfl, fun _ => rfl⟩
  have told (code : Nat) : TxnFree fun s => s.markInst.raise .bankSwitch target.code code 1 :=
    ⟨fun _ _ _ => rfl, fun _ => rfl⟩
  exact .arg (a := fun s => s.store.plan.code)
    (k := fun code s => (((s.judging target).activated target).dropForwarded target).markInst.raise .bankSwitch
      target.code code 1) (fun _ _ => rfl) fun code =>
      (((judging_txnFree target).comp activated).comp (dropForwarded_txnFree target)).comp (told code)

theorem applySwitch_txnFree (target : Bank) : TxnFree fun s => s.applySwitch target := by
  have refused (info : BankInfo) (cause : Nat) :
      TxnFree fun s => (s.judging target).raise .bankRefused target.code (info.item.getD 0) cause :=
    (judging_txnFree target).comp (h := fun s => s.raise .bankRefused target.code (info.item.getD 0) cause)
      ⟨fun _ _ _ => rfl, fun _ => rfl⟩
  refine ⟨fun f hf s => ?_, fun s => ?_⟩
  · by_cases h : target = s.store.active
    · rw [applySwitch_self h, applySwitch_self (s := s.modTxn f) h]
      rfl
    · rw [applySwitch_other h, applySwitch_other (s := s.modTxn f) h, judged_modTxn s hf]
      cases (s.judged target).validity with
      | valid => exact ((switched_txnFree target).comp (carry_txnFree s.store.plan)).commutes f hf s
      | invalid => exact (refused _ 1).commutes f hf s
      | absent => exact (refused _ 2).commutes f hf s
  · by_cases h : target = s.store.active
    · rw [applySwitch_self h]
      rfl
    · rw [applySwitch_other h]
      cases (s.judged target).validity with
      | valid => exact ((switched_txnFree target).comp (carry_txnFree s.store.plan)).frame s
      | invalid => exact (refused _ 1).frame s
      | absent => exact (refused _ 2).frame s

theorem applyTarget_txnFree : TxnFree State.applyTarget :=
  .option (o := fun s => s.store.target)
    (k := fun target s => if s.store.ready && s.store.load.isNone then s.applySwitch target else s)
    (fun s => by unfold State.applyTarget; cases s.store.target <;> rfl) (fun _ _ => rfl)
    (fun target => .ite (c := fun s => (s.store.ready && s.store.load.isNone) = true) (fun _ _ => .rfl)
      (applySwitch_txnFree target) .id) .id

theorem takeSwitch_txnFree (target : Bank) : TxnFree fun s => s.takeSwitch target :=
  .ite (c := fun s => (!s.store.ready || s.store.load.isSome || (s.phase.phase.active && !s.scan.latch)) = true)
    (fun _ _ => .rfl) ⟨fun _ _ _ => rfl, fun _ => rfl⟩ (applySwitch_txnFree target)

/-! ## Slots and the gate (R90 to R100) -/

theorem resolve_txnFree (i : Fin 4) (o : SlotOutcome) : TxnFree fun s => s.resolve i o :=
  ⟨fun _ _ _ => rfl, fun _ => rfl⟩

theorem resolvePort_txnFree (p : Fin 48) (o : SlotOutcome) : TxnFree fun s => s.resolvePort p o :=
  .option (o := fun s => s.openSlot p) (k := fun i s => s.resolve i o)
    (fun s => by unfold State.resolvePort; cases s.openSlot p <;> rfl) (fun _ _ => rfl)
    (fun i => resolve_txnFree i o) .id

theorem request_txnFree (p : Fin 48) (kind : ReqKind) : TxnFree fun s => s.request p kind :=
  ⟨fun _ _ _ => rfl, fun _ => rfl⟩

theorem unrequest_txnFree (p : Fin 48) : TxnFree fun s => s.unrequest p := ⟨fun _ _ _ => rfl, fun _ => rfl⟩

theorem checkHead_txnFree : TxnFree State.checkHead := by
  have judged (r : Request) (g : Fin 8) : TxnFree fun s =>
      if s.windowFull g then (s.unrequest r.port).resolvePort r.port .windowFull
      else { s with gate := { s.gate with
        waiting := s.gate.waiting.map fun q => if q = r then { q with headed := true } else q } } :=
    .ite (c := fun s => s.windowFull g = true) (fun _ _ => .rfl)
      ((unrequest_txnFree r.port).comp (resolvePort_txnFree r.port .windowFull)) ⟨fun _ _ _ => rfl, fun _ => rfl⟩
  have placed (r : Request) : TxnFree fun s => (s.segOf r.port).elim s fun g =>
      if s.windowFull g then (s.unrequest r.port).resolvePort r.port .windowFull
      else { s with gate := { s.gate with
        waiting := s.gate.waiting.map fun q => if q = r then { q with headed := true } else q } } :=
    .option (o := fun s => s.segOf r.port) (fun _ => rfl) (fun _ _ => rfl) (judged r) .id
  refine .option (o := fun s => s.gate.waiting.find? fun r => r.kind = .slot)
    (k := fun r s => if r.headed || !s.isHead r then s else (s.segOf r.port).elim s fun g =>
      if s.windowFull g then (s.unrequest r.port).resolvePort r.port .windowFull
      else { s with gate := { s.gate with
        waiting := s.gate.waiting.map fun q => if q = r then { q with headed := true } else q } })
    (h := fun s => s) (fun s => ?_) (fun _ _ => rfl)
    (fun r => .ite (c := fun s => (r.headed || !s.isHead r) = true) (fun _ _ => .rfl) .id (placed r)) .id
  unfold State.checkHead
  cases s.gate.waiting.find? fun r => r.kind = .slot with
  | none => rfl
  | some r => cases h : s.segOf r.port <;> simp [h]

theorem attach_txnFree (p : Fin 48) (kind : TestKind) : TxnFree fun s => s.attach p kind := by
  have taken : TxnFree fun s => ((s.setPort p { (s.port p).clearTimers with
      action := .testing, switch := decide (kind = .draw) && (s.port p).switch, fed := false }).markPort p).dequeue p :=
    (setPort_markPort_txnFree p fun _ _ => rfl).comp (dequeue_txnFree p)
  exact .ite (c := fun s => s.slotWaits p = true) (fun _ _ => .rfl)
    ((taken.comp (unrequest_txnFree p)).comp (resolvePort_txnFree p .portLeft)) taken

theorem startTest_txnFree (p : Fin 48) (kind : TestKind) (bySupervisor : Bool) (minutes : Nat)
    (rota : Option (Fin 16)) : TxnFree fun s => s.startTest p kind bySupervisor minutes rota := by
  have begun (clock : Nat) : TxnFree fun s => { s with test := { s.test with
      run := some { port := p, kind := kind, bySupervisor := bySupervisor, minutes := minutes,
                    rota := rota, attached := clock }
      owner := if bySupervisor then s.test.owner else .rota } } := ⟨fun _ _ _ => rfl, fun _ => rfl⟩
  have started (clock : Nat) := (attach_txnFree p kind).comp (begun clock)
  unfold State.startTest
  by_cases hk : kind = .wake
  · simp only [if_pos hk]
    exact .arg (a := State.clock) (fun _ _ => rfl) fun clock => (started clock).comp (request_txnFree p .pulse)
  · simp only [if_neg hk]
    exact .arg (a := State.clock) (fun _ _ => rfl) started

/-- The rota entry of a slot that starts a test. -/
def Slot.testEntry (x : Slot) : Option (Fin 16) :=
  match x.action with
  | .test => x.rota
  | _ => none

/-- A test start as its slot is issued. -/
def State.issueTest (s : State) (i : Fin 4) (p : Fin 48) (r : Fin 16) : State :=
  (s.store.plan.rota r).kind.elim (s.resolve i .portLeft) fun kind =>
    if s.test.run.isNone && s.readyFor p kind then
      (s.startTest p kind false (s.store.plan.rota r).minutes (some r)).resolve i .issued
    else s.resolve i .portLeft

/-- A feed or wake start as its slot is issued. -/
def State.issueWork (s : State) (i : Fin 4) (p : Fin 48) : State :=
  if (s.port p).action ≠ .idle then s.resolve i .portLeft
  else if s.gateClosed then s.resolve i .abandoned
  else (s.request p .slot).checkHead

theorem issueSlot_eq (s : State) (i : Fin 4) (p : Fin 48) : s.issueSlot i p =
    if s.sched.dry then s.resolve i .dry
    else (s.sched.slots.get i).testEntry.elim (s.issueWork i p) (s.issueTest i p) := by
  unfold State.issueSlot Slot.testEntry State.issueWork State.issueTest
  dsimp only
  refine if_congr .rfl rfl ?_
  rcases (s.sched.slots.get i) with ⟨action, port, rota, outcome⟩
  cases action with
  | test =>
    cases rota with
    | none => rfl
    | some r => cases hk : (s.store.plan.rota r).kind <;> simp [hk]
  | none | feed | wake => rfl

theorem issueTest_txnFree (i : Fin 4) (p : Fin 48) (r : Fin 16) : TxnFree fun s => s.issueTest i p r := by
  have started (kind : TestKind) (minutes : Nat) : TxnFree fun s =>
      if s.test.run.isNone && s.readyFor p kind then
        (s.startTest p kind false minutes (some r)).resolve i .issued
      else s.resolve i .portLeft :=
    .ite (c := fun s => (s.test.run.isNone && s.readyFor p kind) = true) (fun _ _ => .rfl)
      ((startTest_txnFree p kind false minutes (some r)).comp (resolve_txnFree i .issued)) (resolve_txnFree i .portLeft)
  exact .option (o := fun s => (s.store.plan.rota r).kind) (fun _ => rfl) (fun _ _ => rfl)
    (fun kind => .arg (a := fun s => (s.store.plan.rota r).minutes) (fun _ _ => rfl) (started kind))
    (resolve_txnFree i .portLeft)

theorem issueWork_txnFree (i : Fin 4) (p : Fin 48) : TxnFree fun s => s.issueWork i p :=
  .ite (c := fun s => (s.port p).action ≠ .idle) (fun _ _ => .rfl) (resolve_txnFree i .portLeft)
    (.ite (c := fun s => s.gateClosed = true) (fun _ _ => .rfl) (resolve_txnFree i .abandoned)
      ((request_txnFree p .slot).comp checkHead_txnFree))

theorem issueSlot_txnFree (i : Fin 4) (p : Fin 48) : TxnFree fun s => s.issueSlot i p := by
  simp only [issueSlot_eq]
  exact .ite (c := fun s => s.sched.dry = true) (fun _ _ => .rfl) (resolve_txnFree i .dry)
    (.option (o := fun s => (s.sched.slots.get i).testEntry) (fun _ => rfl) (fun _ _ => rfl) (issueTest_txnFree i p)
      (issueWork_txnFree i p))

theorem issueSlots_txnFree (n : Nat) : TxnFree (State.issueSlots n) := by
  induction n with
  | zero => exact .id
  | succ n ih =>
    have next (i : Fin 4) : TxnFree fun s => (s.sched.slots.get i).port.elim (State.issueSlots n (s.resolve i .empty))
        fun p => if s.slotWaits p then s else State.issueSlots n (s.issueSlot i p) :=
      .option (o := fun s => (s.sched.slots.get i).port) (fun _ => rfl) (fun _ _ => rfl)
        (fun p => .ite (c := fun s => s.slotWaits p = true) (fun _ _ => .rfl) .id ((issueSlot_txnFree i p).comp ih))
        ((resolve_txnFree i .empty).comp ih)
    refine .option (o := State.firstOpen) (h := fun s => s) (fun s => ?_) (fun _ _ => rfl) next .id
    rw [State.issueSlots]
    cases s.firstOpen with
    | none => rfl
    | some i => dsimp only [Option.elim_some]; cases (s.sched.slots.get i).port <;> rfl

theorem finishRound_txnFree : TxnFree State.finishRound :=
  .ite (c := fun s => s.sched.running = true ∧ s.firstOpen = none) (fun _ _ => .rfl)
    ⟨fun _ _ _ => rfl, fun _ => rfl⟩ .id

theorem issueOn_txnFree : TxnFree State.issueOn :=
  .ite (c := fun s => s.sched.running = true) (fun _ _ => .rfl)
    ((checkHead_txnFree.comp (issueSlots_txnFree 9)).comp finishRound_txnFree) .id

/-! ## The round start -/

theorem fill_txnFree (i : Fin 4) (action : SlotAction) (p : Fin 48) (rota : Option (Fin 16)) :
    TxnFree fun s => s.fill i action p rota :=
  .comp (g := fun s => { s with sched := { s.sched with
    slots := s.sched.slots.set i { action := action, port := some p, rota := rota } } })
    ⟨fun _ _ _ => rfl, fun _ => rfl⟩ (dequeue_txnFree p)

theorem fillTest_txnFree : TxnFree State.fillTest := by
  have ready (r : Fin 16) : TxnFree fun s =>
      (s.rotaReady r).elim s fun found => s.fill 0 .test found.1 (some r) :=
    .option (o := fun s => s.rotaReady r) (fun _ => rfl) (fun _ _ => rfl)
      (fun found => fill_txnFree 0 .test found.1 (some r)) .id
  have first : TxnFree fun s => s.rotaFirst.elim s fun r =>
      (s.rotaReady r).elim s fun found => s.fill 0 .test found.1 (some r) :=
    .option (o := State.rotaFirst) (fun _ => rfl) (fun _ _ => rfl) ready .id
  have eq : State.fillTest = fun s => if s.testAllowed then s.rotaFirst.elim s fun r =>
      (s.rotaReady r).elim s fun found => s.fill 0 .test found.1 (some r) else s := by
    funext s
    unfold State.fillTest
    refine if_congr .rfl ?_ rfl
    cases s.rotaFirst with
    | none => rfl
    | some r => dsimp only [Option.elim_some]; cases s.rotaReady r <;> rfl
  rw [eq]
  exact .ite (c := fun s => s.testAllowed = true) (fun _ _ => .rfl) first .id

theorem walk_txnFree (l : List QueueEntry) : ∀ n, TxnFree (State.walk l n) := by
  induction l with
  | nil => exact fun _ => .id
  | cons e rest ih =>
    intro n
    have wake : TxnFree fun s => (s.freeSlot 2).elim (State.walk rest n s) fun i =>
        State.walk rest n (s.fill i .wake e.port none) :=
      .option (o := fun s => s.freeSlot 2) (fun _ => rfl) (fun _ _ => rfl)
        (fun i => (fill_txnFree i .wake e.port none).comp (ih n)) (ih n)
    have feed : TxnFree fun s => (s.freeSlot 4).elim (State.walk rest n s) fun i =>
        State.walk rest (n + 1) (s.fill i .feed e.port none) :=
      .option (o := fun s => s.freeSlot 4) (fun _ => rfl) (fun _ _ => rfl)
        (fun i => (fill_txnFree i .feed e.port none).comp (ih (n + 1))) (ih n)
    have eq : State.walk (e :: rest) n = fun s =>
        if !s.condition e.port || s.acct.hold || decide (s.header.feedLimit ≤ n) then State.walk rest n s
        else if (s.port e.port).status = .sleep ∨ (s.port e.port).status = .absent then
          (s.freeSlot 2).elim (State.walk rest n s) fun i => State.walk rest n (s.fill i .wake e.port none)
        else (s.freeSlot 4).elim (State.walk rest n s) fun i =>
          State.walk rest (n + 1) (s.fill i .feed e.port none) := by
      funext s
      rw [State.walk]
      refine if_congr .rfl rfl (if_congr .rfl ?_ ?_)
      · cases s.freeSlot 2 <;> rfl
      · cases s.freeSlot 4 <;> rfl
    rw [eq]
    exact .ite (c := fun s => (!s.condition e.port || s.acct.hold || decide (s.header.feedLimit ≤ n)) = true)
      (fun _ _ => .rfl) (ih n)
      (.ite (c := fun s => (s.port e.port).status = .sleep ∨ (s.port e.port).status = .absent) (fun _ _ => .rfl)
        wake feed)

theorem roundStart_txnFree : TxnFree State.roundStart := by
  have endDone : TxnFree State.endDone :=
    .arg (a := fun s => allPorts.filter s.feedOver) (k := fun l s => l.foldl State.endFeed s) (fun _ _ => rfl)
      fun l => .fold endFeed_txnFree l
  have shedOne : TxnFree State.shedOne :=
    .ite (c := fun s => s.shed = true) (fun _ _ => .rfl) endLowestFeed_txnFree .id
  have begun : TxnFree State.roundBegun := ⟨fun _ _ _ => rfl, fun _ => rfl⟩
  have timed : TxnFree State.startTimer := ⟨fun _ _ _ => rfl, fun _ => rfl⟩
  have told : TxnFree State.readFeedEnable := ⟨fun _ _ _ => rfl, fun _ => rfl⟩
  have emptied : TxnFree State.emptySlots := ⟨fun _ _ _ => rfl, fun _ => rfl⟩
  have triggered : TxnFree fun s => s.trigger .round := ⟨fun _ _ _ => rfl, fun _ => rfl⟩
  have walked : TxnFree fun s => State.walk s.sched.queue s.feedingCount s :=
    .arg (a := fun s => (s.sched.queue, s.feedingCount)) (k := fun a s => State.walk a.1 a.2 s) (fun _ _ => rfl)
      fun a => walk_txnFree a.1 a.2
  have filled : TxnFree State.fillSlots := (fillTest_txnFree.comp walked).comp emptied
  have prepared := ((((begun.comp applyTarget_txnFree).comp timed).comp endDone).comp shedOne).comp told
  have issued (n : Nat) := (((prepared.comp filled).comp (issueSlots_txnFree n)).comp finishRound_txnFree).comp triggered
  simp only [funext roundStart_eq]
  exact issued 9

theorem runRound_txnFree : TxnFree State.runRound := by
  have started : TxnFree fun s => State.roundStart { s with sched := { s.sched with startPending := false } } :=
    .comp (g := fun s => { s with sched := { s.sched with startPending := false } })
      ⟨fun _ _ _ => rfl, fun _ => rfl⟩ roundStart_txnFree
  exact issueOn_txnFree.comp (.ite (c := fun s => s.sched.running = false ∧ s.sched.startPending = true)
    (fun _ _ => .rfl) started .id)

/-! ## The acts of live bytes (R36, R53, R111, R118, R147, R163) -/

theorem endTest_txnFree (run : TestRun) (result : TestResult) (value : Nat) (span : Option (Nat × Nat)) :
    TxnFree fun s => s.endTest run result value span false := ⟨fun _ _ _ => rfl, fun _ => rfl⟩

theorem abortWrite_txnFree : TxnFree State.abortWrite := by
  have ended : TxnFree fun s => s.abortTest .supervisor false :=
    .option (o := fun s => s.test.run)
      (k := fun run s => s.endTest run (.aborted .supervisor) (run.elapsed s.clock) none false)
      (fun s => by unfold State.abortTest; cases s.test.run <;> rfl) (fun _ _ => rfl)
      (fun run => .arg (a := fun s => run.elapsed s.clock) (fun _ _ => rfl)
        fun value => endTest_txnFree run _ value none) .id
  exact ended.comp runRound_txnFree

theorem switchWrite_txnFree (v : Byte) : TxnFree fun s => s.switchWrite v := by
  unfold State.switchWrite
  split
  · exact takeSwitch_txnFree .a
  · split
    · exact takeSwitch_txnFree .b
    · exact .id

theorem clearBar_txnFree (v : Byte) : TxnFree fun s => s.clearBar v := by
  unfold State.clearBar
  cases portOf v.toNat with
  | none => exact .id
  | some p =>
    exact .ite (c := fun s => (s.port p).action = .barred) (fun _ _ => .rfl)
      (setPort_markPort_txnFree p fun _ _ => rfl) .id

theorem release_txnFree : TxnFree State.release :=
  .ite (c := fun s => s.test.claim = .held) (fun _ _ => .rfl) ⟨fun _ _ _ => rfl, fun _ => rfl⟩ .id

theorem scanWrite_txnFree (v : Byte) : TxnFree fun s => s.scanWrite v := by
  unfold State.scanWrite
  split
  · exact ⟨fun _ _ _ => rfl, fun _ => rfl⟩
  · split
    · exact ⟨fun _ _ _ => rfl, fun _ => rfl⟩
    · exact .id

end Sys2Proof.Machine
end

section
/-! PROOFS. Array writes byte by byte: what one data byte does, and the bytes forwarded before the first that is not
(R155, R158 to R161; O56). -/

namespace Sys2Proof.Machine
open Sys2Proof

/-! ## One data byte (R158, R159, R161) -/

/-- The part with the window touched by a live byte of a write. -/
def State.liveTouched (s : State) (x : Txn) : State := { s with
  path := { s.path with txn := some { x with mlLow := false, live := true } }
  test := { s.test with lapse := if x.live = false ∧ s.test.claim = .held then some s.clock else s.test.lapse } }

theorem writeOne_live {s : State} {x : Txn} (hx : s.path.txn = some x) {a : Nat} (ha : inLive a = true) (v : Byte) :
    s.writeOne a v = if x.refused.isSome then s.liveTouched x else (s.liveTouched x).deliver (a - 128) v := by
  have touched : (s.modTxn fun t => { t with mlLow := false }).touch = s.liveTouched x := by
    have lowered : (s.modTxn fun t => { t with mlLow := false }).path.txn = some { x with mlLow := false } := by
      unfold State.modTxn; rw [hx]; rfl
    rw [touch_some lowered]
    rfl
  unfold State.writeOne State.writeLive
  rw [hx]
  dsimp only
  rw [if_pos ha, touched]

theorem writeOne_ignored {s : State} {x : Txn} (hx : s.path.txn = some x) {a : Nat} (ha : inLive a = false)
    (hr : x.refused.isSome = true) (v : Byte) : s.writeOne a v = s := by
  unfold State.writeOne
  rw [hx]
  dsimp only
  rw [if_neg (by simp [ha]), if_pos hr]

theorem writeOne_refuses {s : State} {x : Txn} (hx : s.path.txn = some x) {a : Nat} (ha : inLive a = false)
    (hr : x.refused = none) {d : Nat × WriteCause} (hd : s.refusalAt x a = some d) (v : Byte) :
    s.writeOne a v = s.refuseByte a d := by
  unfold State.writeOne
  rw [hx]
  dsimp only
  rw [if_neg (by simp [ha]), if_neg (by simp [hr]), hd]

theorem writeOne_passes {s : State} {x : Txn} (hx : s.path.txn = some x) {a : Nat} (ha : inLive a = false)
    (hr : x.refused = none) (hd : s.refusalAt x a = none) (v : Byte) : s.writeOne a v = s.forwardByte a v := by
  unfold State.writeOne
  rw [hx]
  dsimp only
  rw [if_neg (by simp [ha]), if_neg (by simp [hr]), hd]

theorem writeOne_forwards {s : State} {x : Txn} (hx : s.path.txn = some x) {a : Nat} (hr : x.refused = none)
    (hd : x.decided = none) (hl : x.live = false) (h : s.classify a = .forwarded) (v : Byte) :
    s.writeOne a v = s.forwardByte a v := by
  have ha : inLive a = false := Bool.eq_false_iff.mpr fun e => by simp [State.classify, e] at h
  have pass : s.refusalAt x a = none := by simp [State.refusalAt, hd, hl, State.classRefusal, h]
  exact writeOne_passes hx ha hr pass v

/-- What a transaction's course hangs on, its address aside. -/
def Txn.course (x : Txn) : Option LinkCmd × Bool × Option Nat × Option (Nat × WriteCause) × Bool :=
  (x.cmd, x.live, x.refused, x.decided, x.stuck)

/-! ## A live byte delivered (R161) -/

/-- The live bytes that are stored until the end of their transaction: test request and read index. -/
def storedOffset (off : Nat) : Bool := off == 20 || off == 21 || off == 22 || off == 46 || off == 47

/-- A live byte that acts at once has an effect that its transaction's own fields have no part in. -/
theorem deliver_txnFree {off : Nat} (h : storedOffset off = false) (v : Byte) : TxnFree fun s => s.deliver off v := by
  unfold State.deliver
  split
  · split
    · exact release_txnFree
    · exact .id
  · cases h
  · cases h
  · cases h
  · exact abortWrite_txnFree
  · exact switchWrite_txnFree v
  · exact ⟨fun _ _ _ => rfl, fun _ => rfl⟩
  · exact ⟨fun _ _ _ => rfl, fun _ => rfl⟩
  · cases h
  · cases h
  · exact scanWrite_txnFree v
  · exact clearBar_txnFree v
  · exact .id

/-- The transaction's own part of a stored live byte. -/
def Txn.stored (off : Nat) (v : Byte) (x : Txn) : Txn :=
  if off = 46 then { x with rdLo := some v } else if off = 47 then { x with rdHi := some v }
  else { x with reqWritten := true }

/-- The test unit's part of a stored live byte. -/
def TestUnit.stored (off : Nat) (v : Byte) (u : TestUnit) : TestUnit := { u with req := { u.req with
  port := if off = 20 then v.toNat else u.req.port
  kind := if off = 21 then v.toNat else u.req.kind
  minutes := if off = 22 then v.toNat else u.req.minutes } }

theorem stored_course (off : Nat) (v : Byte) (x : Txn) : (x.stored off v).course = x.course := by
  unfold Txn.stored
  split
  · rfl
  · split <;> rfl

theorem deliver_stored {off : Nat} (h : storedOffset off = true) (v : Byte) (s : State) :
    s.deliver off v = { s.modTxn (Txn.stored off v) with test := s.test.stored off v } := by
  simp only [storedOffset, Bool.or_eq_true, beq_iff_eq] at h
  rcases h with (((rfl | rfl) | rfl) | rfl) | rfl <;> rfl

/-- What an operation free of the transaction leaves of it: all but the bytes it has placed. -/
theorem TxnFree.txn {op : State → State} (h : TxnFree op) {s : State} {x : Txn} (hx : s.path.txn = some x) :
    ∃ l, (op s).path.txn = some { x with placed := l } := by
  have same : s.modTxn (fun y => { x with placed := y.placed }) = s := by
    unfold State.modTxn
    rw [hx, Option.map_some, ← hx]
  have kept := h.commutes (fun y => { x with placed := y.placed }) (fun _ _ => rfl) s
  have isSome : (op s).path.txn.isSome = s.path.txn.isSome := congrArg (fun v => v.2.2.2.2) (h.frame s)
  rw [hx] at isSome
  obtain ⟨z, hz⟩ := Option.isSome_iff_exists.mp isSome
  rw [same] at kept
  refine ⟨z.placed, ?_⟩
  rw [kept]
  unfold State.modTxn
  rw [hz]
  rfl

/-- A delivered live byte leaves the link and the course of its transaction. -/
theorem deliver_kept (s : State) (off : Nat) (v : Byte) : (s.deliver off v).linkFrame = s.linkFrame ∧
    ∀ x, s.path.txn = some x → ∃ y, (s.deliver off v).path.txn = some y ∧ y.course = x.course := by
  cases h : storedOffset off with
  | false =>
    have free := deliver_txnFree h v
    refine ⟨free.frame s, fun x hx => ?_⟩
    obtain ⟨l, hl⟩ := free.txn hx
    exact ⟨_, hl, rfl⟩
  | true =>
    rw [deliver_stored h v s]
    refine ⟨?_, fun x hx => ⟨x.stored off v, ?_, stored_course off v x⟩⟩
    · simp [State.linkFrame, State.modTxn]
    · simp [State.modTxn, hx]

/-! ## The data bytes of a write one after the other -/

/-- The data bytes of a write, the address reached not yet recorded. -/
def State.writeAll : List Byte → Nat → State → State
  | [], _, s => s
  | v :: rest, a, s => State.writeAll rest (nextAddr a) (s.writeOne a v)

/-- The address of a transaction recorded. -/
def State.setAddr (s : State) (a : Nat) : State := s.modTxn fun x => { x with addr := a }

theorem writeBurst_eq (l : List Byte) (a : Nat) (s : State) :
    State.writeBurst l a s = (State.writeAll l a s).setAddr (nextAddr^[l.length] a) := by
  induction l generalizing a s with
  | nil => rfl
  | cons v rest ih => exact ih ..

theorem writeAll_append (l m : List Byte) (a : Nat) (s : State) :
    State.writeAll (l ++ m) a s = State.writeAll m (nextAddr^[l.length] a) (State.writeAll l a s) := by
  induction l generalizing a s with
  | nil => rfl
  | cons v rest ih => exact ih ..

theorem nextAddr_iterate {a : Nat} (h : a < Config.memSize) (n : Nat) : nextAddr^[n] a = burstAddr a n := by
  induction n generalizing a with
  | zero => exact (burstAddr_zero h).symm
  | succ n ih => rw [Function.iterate_succ_apply, ih (nextAddr_lt a), burstAddr_next]

theorem nextAddr_burstAddr (a n : Nat) : nextAddr (burstAddr a n) = burstAddr a (n + 1) := by
  unfold nextAddr burstAddr
  rw [Nat.mod_add_mod, Nat.add_assoc]

theorem writeAll_snoc (l : List Byte) (v : Byte) {a : Nat} (h : a < Config.memSize) (s : State) :
    State.writeAll (l ++ [v]) a s = (State.writeAll l a s).writeOne (burstAddr a l.length) v := by
  rw [writeAll_append, nextAddr_iterate h]
  rfl

/-- A burst cut at one of its bytes. -/
theorem writeAll_split {l : List Byte} {n : Nat} (hn : n < l.length) {a : Nat} (h : a < Config.memSize) (s : State) :
    State.writeAll l a s = State.writeAll (l.drop (n + 1)) (burstAddr a (n + 1))
      ((State.writeAll (l.take n) a s).writeOne (burstAddr a n) l[n]) := by
  conv_lhs => rw [← List.take_append_drop n l, List.drop_eq_getElem_cons hn, writeAll_append,
    List.length_take_of_le hn.le, nextAddr_iterate h]
  rw [State.writeAll, nextAddr_burstAddr]

/-! ## The bytes forwarded -/

/-- What the forwarded bytes of a burst place in memory (R160, R162). -/
def State.forwards (s : State) (a : Nat) (l : List Byte) : List Placed := l.mapIdx fun k v =>
  { addr := burstAddr a k, byte := s.passedOn (burstAddr a k) v, locked := s.placedLocked (burstAddr a k) }

/-- Bytes placed in memory in their order. -/
def Mem.place (m : Mem) (l : List Placed) : Mem := l.foldl (fun m y => m.write y.addr y.byte) m

/-- A transaction after the bytes of a burst have all been forwarded. -/
def State.forwardTxn (s : State) (x : Txn) (a : Nat) (l : List Byte) : Txn :=
  { x with mlLow := if l = [] then x.mlLow else true, placed := x.placed ++ s.forwards a l }

/-- The part after the bytes of a burst have all been forwarded. -/
def State.forwardAll (s : State) (x : Txn) (a : Nat) (l : List Byte) : State := { s with
  mem := s.mem.place (s.forwards a l)
  path := { s.path with
    link := if l = [] then s.path.link else .forwarding
    txn := some (s.forwardTxn x a l) } }

theorem forwards_snoc (s : State) (a : Nat) (l : List Byte) (v : Byte) : s.forwards a (l ++ [v]) = s.forwards a l ++
    [{ addr := burstAddr a l.length, byte := s.passedOn (burstAddr a l.length) v
       locked := s.placedLocked (burstAddr a l.length) }] := List.mapIdx_concat

theorem forwardAll_snoc (s : State) (x : Txn) (a : Nat) (l : List Byte) (v : Byte) :
    (s.forwardAll x a l).forwardByte (burstAddr a l.length) v = s.forwardAll x a (l ++ [v]) := by
  have passed : (s.forwardAll x a l).passedOn (burstAddr a l.length) v = s.passedOn (burstAddr a l.length) v := rfl
  have locked : (s.forwardAll x a l).placedLocked (burstAddr a l.length) = s.placedLocked (burstAddr a l.length) := rfl
  unfold State.forwardByte
  rw [passed, locked]
  unfold State.forwardAll State.forwardTxn
  rw [forwards_snoc]
  simp [State.modTxn, Mem.place]

/-- A burst of bytes that are all forwarded. -/
theorem writeAll_forward {s : State} {x : Txn} (hx : s.path.txn = some x) (hr : x.refused = none)
    (hl : x.live = false) {a : Nat} (ha : a < Config.memSize) (l : List Byte) (hd : l ≠ [] → x.decided = none)
    (h : ∀ k < l.length, s.classify (burstAddr a k) = .forwarded) : State.writeAll l a s = s.forwardAll x a l := by
  induction l using List.reverseRecOn with
  | nil => simp [State.writeAll, State.forwardAll, State.forwardTxn, State.forwards, Mem.place, ← hx]
  | append_singleton l v ih =>
    have before := ih (fun _ => hd (by simp)) fun k hk => h k (by rw [List.length_append]; omega)
    have here : (s.forwardAll x a l).classify (burstAddr a l.length) = .forwarded := h l.length (by simp)
    rw [writeAll_snoc l v ha, before, writeOne_forwards (s := s.forwardAll x a l) (x := s.forwardTxn x a l) rfl hr
      (hd (by simp)) hl here, forwardAll_snoc]

/-! ## The memory a burst has written (R155, R160) -/

theorem burstAddr_inj {a j k : Nat} (hj : j < Config.memSize) (hk : k < Config.memSize)
    (h : burstAddr a j = burstAddr a k) : j = k := by
  unfold burstAddr Config.memSize at *
  omega

theorem place_wf {m : Mem} (h : m.wf = true) (l : List Placed) : (m.place l).wf = true := by
  induction l generalizing m with
  | nil => exact h
  | cons y rest ih => exact ih (Mem.wf_write h ..)

theorem place_read_outside {m : Mem} (h : m.wf = true) {l : List Placed} {b : Nat} (hb : ∀ y ∈ l, y.addr ≠ b) :
    (m.place l).read b = m.read b := by
  induction l generalizing m with
  | nil => rfl
  | cons y rest ih =>
    have first := hb y List.mem_cons_self
    have later := ih (Mem.wf_write h y.addr y.byte) fun z hz => hb z (List.mem_cons_of_mem y hz)
    exact later.trans ((Mem.read_write h ..).trans (if_neg first.symm))

theorem forwards_read_outside {s : State} (h : s.MemOk) {a b : Nat} {l : List Byte}
    (hb : ∀ k < l.length, burstAddr a k ≠ b) : (s.mem.place (s.forwards a l)).read b = s.mem.read b := by
  refine place_read_outside h fun y hy => ?_
  obtain ⟨k, hk, rfl⟩ := List.mem_mapIdx.mp hy
  exact hb k hk

/-- No byte of a burst that is no longer than the memory is written twice. -/
theorem forwards_read {s : State} (h : s.MemOk) {a : Nat} {l : List Byte} (hl : l.length ≤ Config.memSize) {k : Nat}
    (hk : k < l.length) : (s.mem.place (s.forwards a l)).read (burstAddr a k) = s.passedOn (burstAddr a k) l[k] := by
  induction l using List.reverseRecOn with
  | nil => cases hk
  | append_singleton l v ih =>
    have size : (l ++ [v]).length = l.length + 1 := by simp
    have split : s.mem.place (s.forwards a (l ++ [v])) =
        (s.mem.place (s.forwards a l)).write (burstAddr a l.length) (s.passedOn (burstAddr a l.length) v) := by
      rw [forwards_snoc]; simp [Mem.place]
    rw [split, Mem.read_write (place_wf h _)]
    rcases Nat.lt_succ_iff_lt_or_eq.mp (size ▸ hk) with before | rfl
    · have other : burstAddr a k ≠ burstAddr a l.length := fun e =>
        before.ne (burstAddr_inj (by omega) (by omega) e)
      rw [if_neg other, ih (by omega) before, List.getElem_append_left before]
    · rw [if_pos rfl, List.getElem_concat_length rfl]

end Sys2Proof.Machine
end

section
/-! PROOFS. Array writes: what follows the bytes forwarded: a refusal, the bytes after it, and the live window
(R155, R158, R159, R161; O56). -/

namespace Sys2Proof.Machine
open Sys2Proof

/-! ## After the refusal (R159) -/

/-- After its refusal a write can only touch the window. -/
structure OnlyTouched (s t : State) : Prop where
  rest : t = { s with path := { s.path with txn := t.path.txn }, test := { s.test with lapse := t.test.lapse } }
  txn : t.path.txn.map (fun y => (y.refused, y.placed)) = s.path.txn.map fun y => (y.refused, y.placed)

theorem OnlyTouched.refl (s : State) : OnlyTouched s s := ⟨rfl, rfl⟩

theorem OnlyTouched.trans {s t u : State} (h : OnlyTouched s t) (k : OnlyTouched t u) : OnlyTouched s u :=
  ⟨by rw [k.rest, h.rest], k.txn.trans h.txn⟩

theorem OnlyTouched.only {s t : State} (h : OnlyTouched s t) : Only [.test, .path] s t := by
  rw [h.rest]
  exact (Only.setPath s { s.path with txn := t.path.txn }).next
    (Only.setTest { s with path := { s.path with txn := t.path.txn } } { s.test with lapse := t.test.lapse })

theorem setAddr_onlyTouched (s : State) (a : Nat) : OnlyTouched s (s.setAddr a) :=
  ⟨rfl, by simp [State.setAddr, State.modTxn, Function.comp_def]⟩

theorem writeOne_refused {s : State} {x : Txn} (hx : s.path.txn = some x) (hr : x.refused.isSome = true) (a : Nat)
    (v : Byte) : OnlyTouched s (s.writeOne a v) := by
  cases ha : inLive a with
  | true =>
    rw [writeOne_live hx ha, if_pos hr]
    exact ⟨rfl, by simp [State.liveTouched, hx]⟩
  | false => rw [writeOne_ignored hx ha hr]; exact .refl s

theorem OnlyTouched.refused {s t : State} (h : OnlyTouched s t) {x : Txn} (hx : s.path.txn = some x) :
    ∃ y, t.path.txn = some y ∧ y.refused = x.refused := by
  have same := h.txn
  rw [hx, Option.map_some, Option.map_eq_some_iff] at same
  obtain ⟨y, hy, eq⟩ := same
  exact ⟨y, hy, congrArg Prod.fst eq⟩

theorem writeAll_refused {s : State} {x : Txn} (hx : s.path.txn = some x) (hr : x.refused.isSome = true)
    (l : List Byte) (a : Nat) : OnlyTouched s (State.writeAll l a s) := by
  induction l generalizing a s x with
  | nil => exact .refl s
  | cons v rest ih =>
    have first := writeOne_refused hx hr a v
    obtain ⟨y, hy, same⟩ := first.refused hx
    exact first.trans (ih hy (by rw [same, hr]) _)

/-- Outside the live window the bytes after the refusal do nothing. -/
theorem writeAll_refused_outside {s : State} {x : Txn} (hx : s.path.txn = some x) (hr : x.refused.isSome = true)
    {l : List Byte} {a : Nat} (h : ∀ k < l.length, inLive (nextAddr^[k] a) = false) : State.writeAll l a s = s := by
  induction l generalizing a with
  | nil => rfl
  | cons v rest ih =>
    have first : inLive a = false := h 0 (by simp)
    rw [State.writeAll, writeOne_ignored hx first hr]
    exact ih fun k hk => h (k + 1) (by simpa using hk)

theorem refuseByte_txn {s : State} {x : Txn} (hx : s.path.txn = some x) (a : Nat) (d : Nat × WriteCause) :
    (s.refuseByte a d).path.txn = some { x with mlLow := false, refused := some a } := by
  have txn : (s.refuseByte a d).path.txn = s.path.txn.map fun t => { t with mlLow := false, refused := some a } := rfl
  rw [txn, hx]
  rfl

theorem refuseByte_raised (s : State) (a : Nat) (d : Nat × WriteCause) :
    Raised .writeRefused d.1 a d.2.code s.store.plan.tag s (s.refuseByte a d) :=
  (raise_raised (s.modTxn fun t => { t with mlLow := false, refused := some a }) .writeRefused d.1 a d.2.code).congr
    rfl rfl rfl rfl ⟨rfl, rfl, rfl, rfl, rfl⟩

theorem refuseByte_only (s : State) (a : Nat) (d : Nat × WriteCause) : Only [.ev, .path] s (s.refuseByte a d) :=
  (Only.setPath s _).next (raise_only ..)

theorem refuseByte_mem (s : State) (a : Nat) (d : Nat × WriteCause) : (s.refuseByte a d).mem = s.mem := rfl

/-! ## A burst that places no more (R158, R159) -/

/-- A transaction that has refused a byte or reached the live window: memory takes no more of its bytes. -/
def State.Shut (s : State) : Prop := ∃ x, s.path.txn = some x ∧ (x.live = true ∨ x.refused.isSome = true)

theorem liveTouched_deliver_mem (s : State) (x : Txn) (off : Nat) (v : Byte) :
    ((s.liveTouched x).deliver off v).mem = s.mem :=
  congrArg (fun f => f.2.2.1) (deliver_kept (s.liveTouched x) off v).1

/-- A live byte shuts its transaction's way to memory. -/
theorem writeOne_live_shut {s : State} {x : Txn} (hx : s.path.txn = some x) {a : Nat} (ha : inLive a = true) (v : Byte) :
    (s.writeOne a v).mem = s.mem ∧ (s.writeOne a v).Shut := by
  rw [writeOne_live hx ha]
  split
  · exact ⟨rfl, _, rfl, .inl rfl⟩
  · obtain ⟨y, hy, course⟩ := (deliver_kept (s.liveTouched x) (a - 128) v).2 _ rfl
    exact ⟨liveTouched_deliver_mem .., y, hy, .inl (congrArg (fun c => c.2.1) course)⟩

/-- A byte that is not forwarded shuts its transaction's way to memory. -/
theorem writeOne_stops {s : State} {x : Txn} (hx : s.path.txn = some x) {a : Nat}
    (h : inLive a = true ∨ x.refused.isSome = true ∨ s.refusalAt x a ≠ none) (v : Byte) :
    (s.writeOne a v).mem = s.mem ∧ (s.writeOne a v).Shut := by
  cases ha : inLive a with
  | true => exact writeOne_live_shut hx ha v
  | false =>
    by_cases hr : x.refused.isSome = true
    · rw [writeOne_ignored hx ha hr]
      exact ⟨rfl, x, hx, .inr hr⟩
    · have refusal := (h.resolve_left (by simp [ha])).resolve_left hr
      obtain ⟨d, hd⟩ := Option.ne_none_iff_exists'.mp refusal
      rw [writeOne_refuses hx ha (by simpa using hr) hd]
      exact ⟨rfl, _, refuseByte_txn hx a d, .inr rfl⟩

theorem writeAll_shut {s : State} (h : s.Shut) (l : List Byte) (a : Nat) : (State.writeAll l a s).mem = s.mem := by
  induction l generalizing a s with
  | nil => rfl
  | cons v rest ih =>
    obtain ⟨x, hx, closed⟩ := h
    have stops : inLive a = true ∨ x.refused.isSome = true ∨ s.refusalAt x a ≠ none := by
      rcases closed with live | refused
      · refine .inr (.inr ?_)
        unfold State.refusalAt
        cases x.decided <;> simp [live]
      · exact .inr (.inl refused)
    obtain ⟨mem, shut⟩ := writeOne_stops hx stops v
    exact (ih shut _).trans mem

/-! ## Through the live window (R159, R161) -/

/-- A burst inside the live window leaves map, clock and the transaction's course but for the window reached. -/
theorem writeOne_live_course {s : State} {x : Txn} (hx : s.path.txn = some x) (hr : x.refused = none) {a : Nat}
    (ha : inLive a = true) (v : Byte) : (s.writeOne a v).linkFrame = s.linkFrame ∧
    ∃ y, (s.writeOne a v).path.txn = some y ∧ y.course = (x.cmd, true, none, x.decided, x.stuck) := by
  rw [writeOne_live hx ha, if_neg (by simp [hr])]
  obtain ⟨frame, txn⟩ := deliver_kept (s.liveTouched x) (a - 128) v
  obtain ⟨y, hy, course⟩ := txn _ rfl
  refine ⟨frame.trans ?_, y, hy, course.trans ?_⟩
  · simp [State.linkFrame, State.liveTouched, hx]
  · simp [Txn.course, hr]

theorem writeAll_live {s : State} {x : Txn} (hx : s.path.txn = some x) (hr : x.refused = none) {l : List Byte}
    {a : Nat} (h : ∀ k < l.length, inLive (nextAddr^[k] a) = true) :
    (State.writeAll l a s).linkFrame = s.linkFrame ∧ ∃ y, (State.writeAll l a s).path.txn = some y ∧
      y.course = (x.cmd, x.live || l ≠ [], none, x.decided, x.stuck) := by
  induction l generalizing a s x with
  | nil => exact ⟨rfl, x, hx, by simp [Txn.course, hr]⟩
  | cons v rest ih =>
    have first : inLive a = true := h 0 (by simp)
    obtain ⟨frame, y, hy, course⟩ := writeOne_live_course hx hr first v
    simp only [Txn.course, Prod.mk.injEq] at course
    obtain ⟨cmd, live, refused, decided, stuck⟩ := course
    obtain ⟨frame', z, hz, course'⟩ := ih hy refused fun k hk => h (k + 1) (by simpa using hk)
    refine ⟨frame'.trans frame, z, hz, course'.trans ?_⟩
    simp [cmd, live, decided, stuck]

end Sys2Proof.Machine
end

section
/-! PROOFS. An array write in one piece or in several, and from its first byte to its first refusal (R155, R158 to R161;
O56). -/

namespace Sys2Proof.Machine
open Sys2Proof

/-! ## The address recorded at the end of a piece (log 8) -/

theorem modTxn_comm {f g : Txn → Txn} (h : ∀ x, f (g x) = g (f x)) (s : State) :
    (s.modTxn f).modTxn g = (s.modTxn g).modTxn f := by
  simp [State.modTxn, Option.map_map, Function.comp_def, h]

/-- A change of a transaction's fields that live bytes neither read nor store is none of their business. -/
theorem deliver_modTxn {f : Txn → Txn} (hp : Txn.SparesPlaced f) {off : Nat} {v : Byte}
    (hf : ∀ x, (f x).stored off v = f (x.stored off v)) (s : State) :
    (s.modTxn f).deliver off v = (s.deliver off v).modTxn f := by
  cases h : storedOffset off with
  | false => exact (deliver_txnFree h v).commutes f hp s
  | true =>
    have swap := modTxn_comm (f := f) (g := Txn.stored off v) (fun x => (hf x).symm) s
    rw [deliver_stored h, deliver_stored h, swap]
    rfl

theorem deliver_setAddr (s : State) (b off : Nat) (v : Byte) :
    (s.setAddr b).deliver off v = (s.deliver off v).setAddr b :=
  deliver_modTxn (fun _ _ => rfl) (fun x => by
    unfold Txn.stored
    split
    · rfl
    · split <;> rfl) s

theorem setAddr_txn {s : State} {x : Txn} (hx : s.path.txn = some x) (b : Nat) :
    (s.setAddr b).path.txn = some { x with addr := b } := by
  unfold State.setAddr State.modTxn; rw [hx]; rfl

theorem refuseByte_setAddr (s : State) (a b : Nat) (d : Nat × WriteCause) :
    (s.setAddr b).refuseByte a d = (s.refuseByte a d).setAddr b := by
  have swap := modTxn_comm (f := fun x => { x with addr := b })
    (g := fun x => { x with mlLow := false, refused := some a }) (fun _ => rfl) s
  unfold State.refuseByte State.setAddr
  rw [swap]
  rfl

theorem forwardByte_setAddr (s : State) (a b : Nat) (v : Byte) :
    (s.setAddr b).forwardByte a v = (s.forwardByte a v).setAddr b :=
  modTxn_comm (f := fun x => { x with addr := b })
    (g := fun x => { x with mlLow := true, placed := x.placed ++
      [{ addr := a, byte := s.passedOn a v, locked := s.placedLocked a }] }) (fun _ => rfl)
    { s with mem := s.mem.write a (s.passedOn a v), path := { s.path with link := .forwarding } }

theorem writeOne_setAddr (s : State) (a b : Nat) (v : Byte) :
    (s.setAddr b).writeOne a v = (s.writeOne a v).setAddr b := by
  cases hx : s.path.txn with
  | none =>
    have gone : (s.setAddr b).path.txn = none := by unfold State.setAddr State.modTxn; rw [hx]; rfl
    unfold State.writeOne
    rw [hx, gone]
  | some x =>
    have hxb := setAddr_txn hx b
    cases ha : inLive a with
    | true =>
      have touched : (s.setAddr b).liveTouched { x with addr := b } = (s.liveTouched x).setAddr b := rfl
      rw [writeOne_live hx ha, writeOne_live hxb ha, touched, deliver_setAddr]
      split <;> rfl
    | false =>
      by_cases hr : x.refused.isSome = true
      · rw [writeOne_ignored hx ha hr, writeOne_ignored hxb ha hr]
      · rw [Bool.not_eq_true, Option.isSome_eq_false_iff, Option.isNone_iff_eq_none] at hr
        cases hd : s.refusalAt x a with
        | some d => rw [writeOne_refuses hx ha hr hd, writeOne_refuses hxb ha hr hd, refuseByte_setAddr]
        | none => rw [writeOne_passes hx ha hr hd, writeOne_passes hxb ha hr hd, forwardByte_setAddr]

theorem writeAll_setAddr (s : State) (l : List Byte) (a b : Nat) :
    State.writeAll l a (s.setAddr b) = (State.writeAll l a s).setAddr b := by
  induction l generalizing a s with
  | nil => rfl
  | cons v rest ih => rw [State.writeAll, writeOne_setAddr, ih]; rfl

theorem setAddr_setAddr (s : State) (b c : Nat) : (s.setAddr b).setAddr c = s.setAddr c := by
  simp [State.setAddr, State.modTxn, Function.comp_def]

/-! ## The pieces of a burst -/

/-- What the bytes of a write leave: the moment, the reset line, and a transaction of its command. -/
structure WriteKept (s t : State) : Prop where
  clock : t.clock = s.clock
  line : t.line = s.line
  txn : ∀ x, s.path.txn = some x → ∃ y, t.path.txn = some y ∧ y.cmd = x.cmd ∧ y.stuck = x.stuck

theorem WriteKept.refl (s : State) : WriteKept s s := ⟨rfl, rfl, fun x hx => ⟨x, hx, rfl, rfl⟩⟩

theorem WriteKept.trans {s t u : State} (h : WriteKept s t) (k : WriteKept t u) : WriteKept s u where
  clock := k.clock.trans h.clock
  line := k.line.trans h.line
  txn x hx := by
    obtain ⟨y, hy, cmd, stuck⟩ := h.txn x hx
    obtain ⟨z, hz, cmd', stuck'⟩ := k.txn y hy
    exact ⟨z, hz, cmd'.trans cmd, stuck'.trans stuck⟩

theorem forwardByte_txn {s : State} {x : Txn} (hx : s.path.txn = some x) (a : Nat) (v : Byte) :
    (s.forwardByte a v).path.txn = some { x with mlLow := true, placed := x.placed ++
      [{ addr := a, byte := s.passedOn a v, locked := s.placedLocked a }] } := by
  unfold State.forwardByte State.modTxn
  dsimp only
  rw [hx]
  rfl

theorem writeOne_writeKept (s : State) (a : Nat) (v : Byte) : WriteKept s (s.writeOne a v) := by
  have delivered (x : Txn) (hx : s.path.txn = some x) (off : Nat) :
      WriteKept s ((s.liveTouched x).deliver off v) := by
    obtain ⟨frame, txn⟩ := deliver_kept (s.liveTouched x) off v
    refine ⟨congrArg (fun f => f.1) frame, congrArg (fun f => f.2.1) frame, fun z hz => ?_⟩
    obtain rfl : x = z := Option.some.inj (hx.symm.trans hz)
    obtain ⟨y, hy, course⟩ := txn _ rfl
    exact ⟨y, hy, congrArg (fun c => c.1) course, congrArg (fun c => c.2.2.2.2) course⟩
  cases hx : s.path.txn with
  | none =>
    have idle : s.writeOne a v = s := by unfold State.writeOne; rw [hx]
    rw [idle]
    exact .refl s
  | some x =>
    cases ha : inLive a with
    | true =>
      rw [writeOne_live hx ha]
      split
      · exact ⟨rfl, rfl, fun z hz => ⟨_, rfl, by rw [hx] at hz; cases hz; exact ⟨rfl, rfl⟩⟩⟩
      · exact delivered x hx _
    | false =>
      cases hr : x.refused with
      | some r => rw [writeOne_ignored hx ha (by rw [hr]; rfl)]; exact .refl s
      | none =>
        cases hd : s.refusalAt x a with
        | some d =>
          rw [writeOne_refuses hx ha hr hd]
          exact ⟨rfl, rfl, fun z hz => ⟨_, refuseByte_txn hz a d, rfl, rfl⟩⟩
        | none =>
          rw [writeOne_passes hx ha hr hd]
          exact ⟨rfl, rfl, fun z hz => ⟨_, forwardByte_txn hz a v, rfl, rfl⟩⟩

theorem writeAll_writeKept (l : List Byte) (a : Nat) (s : State) : WriteKept s (State.writeAll l a s) := by
  induction l generalizing a s with
  | nil => exact .refl s
  | cons v rest ih => exact (writeOne_writeKept s a v).trans (ih _ _)

theorem takeWrite_goesOn {s : State} {x : Txn} (hx : s.path.txn = some x) (hs : x.stuck = false)
    (hc : x.cmd = some .write) (addr : Nat) (bytes : List Byte) :
    s.takeWrite addr bytes = State.writeBurst bytes x.addr s := by
  unfold State.takeWrite
  rw [openTxn_some hx hs]
  dsimp only
  rw [hc]

theorem takeWrite_begins {s : State} {x : Txn} (hx : s.path.txn = some x) (hs : x.stuck = false)
    (hc : x.cmd = none) (addr : Nat) (bytes : List Byte) : s.takeWrite addr bytes =
      State.writeBurst bytes (addr % Config.memSize) (s.openWrite (addr % Config.memSize)) := by
  unfold State.takeWrite
  rw [openTxn_some hx hs]
  dsimp only
  rw [hc]

theorem takeWrite_other {s : State} {x : Txn} (hx : s.path.txn = some x) (hs : x.stuck = false)
    (hc : x.cmd = some .read ∨ x.cmd = some .other) (addr : Nat) (bytes : List Byte) :
    s.takeWrite addr bytes = s := by
  unfold State.takeWrite
  rw [openTxn_some hx hs]
  dsimp only
  rcases hc with hc | hc <;> rw [hc]

/-- The next piece of a burst goes on where the one before it has stopped. -/
theorem writeBurst_pieces {s : State} {x : Txn} (hx : s.path.txn = some x) (hs : x.stuck = false)
    (hc : x.cmd = some .write) (a addr : Nat) (one two : List Byte) :
    (State.writeBurst one a s).takeWrite addr two = State.writeBurst (one ++ two) a s := by
  obtain ⟨y, hy, cmd, stuck⟩ := (writeAll_writeKept one a s).txn x hx
  rw [writeBurst_eq, writeBurst_eq, takeWrite_goesOn (x := { y with addr := nextAddr^[one.length] a })
    (setAddr_txn hy _) (stuck.trans hs) (cmd.trans hc), writeBurst_eq, writeAll_setAddr, setAddr_setAddr,
    writeAll_append, List.length_append, Nat.add_comm, Function.iterate_add_apply]

/-- The transaction as a write's address is complete (R155; log 53). -/
def State.openedTxn (s : State) (x : Txn) (a : Nat) : Txn := { x with
  cmd := some .write, mlLow := decide (s.classify a = .forwarded), decided := s.classRefusal a }

theorem openWrite_eq {s : State} {x : Txn} (hx : s.path.txn = some x) (a : Nat) : s.openWrite a =
    { s with path := { s.path with
      link := if decide (s.classify a = .forwarded) then .forwarding else s.path.link
      txn := some (s.openedTxn x a) } } := by
  unfold State.openWrite State.modTxn State.openedTxn
  dsimp only
  rw [hx]
  rfl

/-- A write in two pieces is the write in one. -/
theorem takeWrite_pieces {s : State} {x : Txn} (hx : s.path.txn = some x) (hs : x.stuck = false) (addr : Nat)
    (one two : List Byte) : (s.takeWrite addr one).takeWrite addr two = s.takeWrite addr (one ++ two) := by
  rcases hc : x.cmd with _ | _ | _ | _
  · have opened : (s.openWrite (addr % Config.memSize)).path.txn = some (s.openedTxn x (addr % Config.memSize)) := by
      rw [openWrite_eq hx]
    rw [takeWrite_begins hx hs hc, takeWrite_begins hx hs hc, writeBurst_pieces opened hs rfl]
  · rw [takeWrite_other hx hs (.inl hc), takeWrite_other hx hs (.inl hc), takeWrite_other hx hs (.inl hc)]
  · rw [takeWrite_goesOn hx hs hc, takeWrite_goesOn hx hs hc, writeBurst_pieces hx hs hc]
  · rw [takeWrite_other hx hs (.inr hc), takeWrite_other hx hs (.inr hc), takeWrite_other hx hs (.inr hc)]

/-! ## A live byte in place of its row (R161; log 8) -/

/-- The offsets of the live bytes with a behaviour when written. -/
def actingOffsets : List Nat := [19, 20, 21, 22, 25, 43, 44, 45, 46, 47, 53, 55]

theorem deliver_absorbed {off : Nat} (h : off ∉ actingOffsets) (s : State) (v : Byte) : s.deliver off v = s := by
  unfold State.deliver
  split <;> simp_all [actingOffsets]

/-- The row that stands for a live byte has the byte's effect on the window touched. -/
theorem exec_liveRowOf {s : State} {τ : Nat} {off : Fin 128} {v : Byte} {c : Instr} (hline : s.line = .released)
    (hlive : s.takesLive = true) (hc : liveRowOf τ off v = some c) :
    exec c s = .next ((s.touchedAt τ).deliver off.val v) := by
  have row (act : State → State) : (s.advance τ).liveRow act = act (s.touchedAt τ) := liveRow_advance hlive τ act
  obtain ⟨off, hoff⟩ := off
  unfold liveRowOf at hc
  dsimp only at hc ⊢
  split at hc
  · cases hc
    by_cases hv : v = 1#8
    · rw [if_pos hv]
      simp only [exec, execClaimRelease, timed_released hline, row]
      rw [State.deliver, if_pos hv]
    · rw [if_neg hv]
      simp only [exec, execLiveWriteAbsorbed, timed_released hline, row]
      rw [State.deliver, if_neg hv]
      rfl
  · cases hc
  · cases hc
  · cases hc
  · cases hc; simp only [exec, execTestAbort, timed_released hline, row]; rfl
  · cases hc; simp only [exec, execBankSwitchWrite, timed_released hline, row]; rfl
  · cases hc; simp only [exec, execMapLockWrite, timed_released hline, row]; rfl
  · cases hc; simp only [exec, execStartLevelWrite, timed_released hline, row]; rfl
  · cases hc
  · cases hc
  · cases hc
    by_cases hv : v = 1#8
    · rw [if_pos hv]
      simp only [exec, execScanTrigger, timed_released hline, row]
      rw [State.deliver, State.scanWrite, if_pos hv]
      rfl
    · by_cases hv' : v = 2#8
      · rw [if_neg hv, if_pos hv']
        simp only [exec, execScanStop, timed_released hline, row]
        rw [State.deliver, State.scanWrite, if_neg hv, if_pos hv']
      · rw [if_neg hv, if_neg hv']
        simp only [exec, execLiveWriteAbsorbed, timed_released hline, row]
        rw [State.deliver, State.scanWrite, if_neg hv, if_neg hv']
        rfl
  · cases hc; simp only [exec, execBarClear, timed_released hline, row]; rfl
  · cases hc
    simp only [exec, execLiveWriteAbsorbed, timed_released hline, row]
    rw [deliver_absorbed (by simp_all [actingOffsets])]
    rfl

/-- The part as a live byte's row finds it: the byte is one of this transaction. -/
def State.rowState (s : State) (x : Txn) : State :=
  { s with path := { s.path with txn := some { x with cmd := none } } }

/-- What the write of a live byte makes of its transaction's own fields, the address aside. -/
def Txn.liveWrite (x y : Txn) : Txn :=
  { y with cmd := some .write, mlLow := false, decided := if x.cmd = none then none else x.decided }

theorem rowState_takesLive {s : State} {x : Txn} (hs : x.stuck = false) : (s.rowState x).takesLive = true := by
  simp [State.takesLive, State.rowState, hs]

theorem rowState_lapse (s : State) (x : Txn) (now : Nat) : (s.rowState x).lapseAfter now =
    if x.live = false ∧ s.test.claim = .held then some now else s.test.lapse := by
  simp [State.lapseAfter, State.touches, State.rowState]

/-- The touch of a live byte of a write is that of its row. -/
theorem liveTouched_row (s : State) (τ : Nat) {x y : Txn} (hl : y.live = x.live)
    (hy : { y with mlLow := false, live := true } = x.liveWrite { x with cmd := none, live := true }) :
    (s.advance τ).liveTouched y = ((s.rowState x).touchedAt τ).modTxn x.liveWrite := by
  unfold State.touchedAt
  rw [rowState_lapse]
  unfold State.liveTouched
  rw [hy, hl]
  rfl

/-- A write that reaches a live byte, with its address or with the bytes before it, has the touch of that byte's row. -/
theorem takeWrite_reachesLive {s : State} {x : Txn} (hx : s.path.txn = some x) (hs : x.stuck = false)
    (hr : x.refused = none) {addr a : Nat} (ha : inLive a = true) (hm : a < Config.memSize)
    (h : x.cmd = none ∧ addr = a ∨ x.cmd = some .write ∧ x.addr = a) (τ : Nat) (bytes : List Byte) : ∃ u y,
    (s.advance τ).takeWrite addr bytes = State.writeBurst bytes a u ∧ u.path.txn = some y ∧
      y.refused = none ∧ u.liveTouched y = ((s.rowState x).touchedAt τ).modTxn x.liveWrite := by
  rcases h with ⟨hc, rfl⟩ | ⟨hc, hxa⟩
  · have cls : (s.advance τ).classify addr = .live := if_pos ha
    have decided : (s.advance τ).classRefusal addr = none := by unfold State.classRefusal; rw [cls]
    refine ⟨(s.advance τ).openWrite addr, (s.advance τ).openedTxn x addr, ?_, ?_, hr, ?_⟩
    · rw [takeWrite_begins (s := s.advance τ) hx hs hc, Nat.mod_eq_of_lt hm]
    · rw [openWrite_eq (s := s.advance τ) hx]
    · rw [openWrite_eq (s := s.advance τ) hx, cls]
      refine Eq.trans ?_ (liveTouched_row s τ (x := x) (y := (s.advance τ).openedTxn x addr) rfl ?_)
      · rfl
      · unfold State.openedTxn Txn.liveWrite
        rw [decided, if_pos hc]
  · refine ⟨s.advance τ, x, ?_, hx, hr, liveTouched_row s τ rfl ?_⟩
    · rw [takeWrite_goesOn (s := s.advance τ) hx hs hc, hxa]
    · unfold Txn.liveWrite
      rw [if_neg (by simp [hc]), ← hc]

/-- A live byte of a write acts on the window touched as its row does. -/
theorem takeWrite_live {s : State} {x : Txn} (hx : s.path.txn = some x) (hs : x.stuck = false) (hr : x.refused = none)
    {addr : Nat} {off : Fin 128}
    (h : x.cmd = none ∧ addr = 128 + off.val ∨ x.cmd = some .write ∧ x.addr = 128 + off.val) (τ : Nat) (v : Byte) :
    (s.advance τ).takeWrite addr [v] =
      (((s.rowState x).touchedAt τ).deliver off.val v).modTxn fun y => { x.liveWrite y with addr := 129 + off.val } := by
  have small : off.val < 128 := off.isLt
  have live : inLive (128 + off.val) = true := by simp [inLive]; omega
  have next : nextAddr (128 + off.val) = 129 + off.val := by unfold nextAddr Config.memSize; omega
  obtain ⟨u, y, begun, hu, unrefused, touched⟩ :=
    takeWrite_reachesLive hx hs hr live (by unfold Config.memSize; omega) h τ [v]
  have commuted := deliver_modTxn (f := x.liveWrite) (fun _ _ => rfl) (off := off.val) (v := v) (fun y => by
    unfold Txn.stored
    split
    · rfl
    · split <;> rfl) ((s.rowState x).touchedAt τ)
  rw [begun, writeBurst_eq, State.writeAll, State.writeAll, writeOne_live hu live, if_neg (by simp [unrefused]), touched,
    Nat.add_sub_cancel_left, commuted, List.length_singleton, Function.iterate_one, next]
  simp [State.setAddr, State.modTxn, Function.comp_def]

/-! ## The four statements, each for its state -/

theorem exec_arrayWrite {s : State} (hline : s.line = .released) (τ addr : Nat) (bytes : List Byte) :
    exec (.arrayWrite τ addr bytes) s = .next ((s.advance τ).takeWrite addr bytes) := by
  simp only [exec, execArrayWrite, timed_released hline]

theorem advance_of_le {s : State} {τ : Nat} (h : τ ≤ s.clock) : s.advance τ = s := by
  have clock : max s.clock τ = s.clock := max_eq_left h
  unfold State.advance
  rw [clock]

theorem takeWrite_writeKept {s : State} {x : Txn} (hx : s.path.txn = some x) (hs : x.stuck = false) (addr : Nat)
    (bytes : List Byte) : (s.takeWrite addr bytes).clock = s.clock ∧ (s.takeWrite addr bytes).line = s.line := by
  have burst (a : Nat) (u : State) : (State.writeBurst bytes a u).clock = u.clock ∧
      (State.writeBurst bytes a u).line = u.line := by
    rw [writeBurst_eq]
    exact ⟨(writeAll_writeKept bytes a u).clock, (writeAll_writeKept bytes a u).line⟩
  rcases hc : x.cmd with _ | _ | _ | _
  · rw [takeWrite_begins hx hs hc]; exact burst _ _
  · rw [takeWrite_other hx hs (.inl hc)]; exact ⟨rfl, rfl⟩
  · rw [takeWrite_goesOn hx hs hc]; exact burst _ _
  · rw [takeWrite_other hx hs (.inr hc)]; exact ⟨rfl, rfl⟩

/-- A burst in two pieces is the burst whole (log 8). -/
theorem exec_arrayWrite_pieces {s : State} {x : Txn} (hline : s.line = .released) (hx : s.path.txn = some x)
    (hs : x.stuck = false) (τ addr : Nat) (one two : List Byte) :
    ∃ mid, exec (.arrayWrite τ addr one) s = .next mid ∧
      exec (.arrayWrite τ addr (one ++ two)) s = exec (.arrayWrite τ addr two) mid := by
  obtain ⟨clock, line⟩ := takeWrite_writeKept (s := s.advance τ) hx hs addr one
  have still : ((s.advance τ).takeWrite addr one).advance τ = (s.advance τ).takeWrite addr one :=
    advance_of_le (by rw [clock]; exact le_max_right ..)
  refine ⟨_, exec_arrayWrite hline τ addr one, ?_⟩
  rw [exec_arrayWrite hline, exec_arrayWrite (line.trans hline), still, takeWrite_pieces (s := s.advance τ) hx hs]

/-- A first byte that was found refusing with its address is refused when it comes (R155; log 53). -/
theorem exec_arrayWrite_decided {s : State} {x : Txn} {d : Nat × WriteCause} (hline : s.line = .released)
    (hx : s.path.txn = some x) (hs : x.stuck = false) (hc : x.cmd = some .write) (hr : x.refused = none)
    (hd : x.decided = some d) (ha : inLive x.addr = false) (τ addr : Nat) (v : Byte) :
    ∃ t, exec (.arrayWrite τ addr [v]) s = .next t ∧ t.mem = s.mem ∧
      Raised .writeRefused d.1 x.addr d.2.code s.store.plan.tag s t ∧
      t.path.txn.map (fun y => (y.refused, y.placed)) = some (some x.addr, x.placed) ∧ SameBut [.ev, .path] s t := by
  have refusal : (s.advance τ).refusalAt x x.addr = some d := by unfold State.refusalAt; rw [hd]
  have eq : (s.advance τ).takeWrite addr [v] =
      ((s.advance τ).refuseByte x.addr d).setAddr (nextAddr x.addr) := by
    rw [takeWrite_goesOn (s := s.advance τ) hx hs hc, writeBurst_eq, State.writeAll, State.writeAll,
      writeOne_refuses (s := s.advance τ) hx ha hr refusal]
    rfl
  refine ⟨_, exec_arrayWrite hline .., ?_⟩
  rw [eq]
  refine ⟨rfl, ?_, ?_, ((refuseByte_only (s.advance τ) x.addr d).trans (.mono (.setPath _ _))).sameBut_advance⟩
  · exact (refuseByte_raised (s.advance τ) x.addr d).congr rfl rfl rfl rfl ⟨rfl, rfl, rfl, rfl, rfl⟩
  · rw [setAddr_txn (refuseByte_txn (s := s.advance τ) hx x.addr d)]
    rfl

end Sys2Proof.Machine
end

section
/-! PROOFS. An array write from its address on: the bytes forwarded, the first that is not, and what follows it
(R155, R158 to R161; O56). -/

namespace Sys2Proof.Machine
open Sys2Proof

theorem classify_live {s : State} {a : Nat} (h : s.classify a = .live) : inLive a = true := by
  unfold State.classify State.classifyInst State.classifyHigh at h
  by_contra outside
  rw [if_neg outside] at h
  split at h
  · split_ifs at h
  · split at h
    · cases h
    · split at h
      · cases h
      · cases h
      · cases h
      · cases h
      · split_ifs at h

theorem burstAddr_lt (a n : Nat) : burstAddr a n < Config.memSize := Nat.mod_lt _ (by decide)

theorem burstAddr_burstAddr (a n k : Nat) : burstAddr (burstAddr a n) k = burstAddr a (n + k) := by
  unfold burstAddr
  rw [Nat.mod_add_mod, Nat.add_assoc]

theorem refusalSubject_congr {s t : State} (h : t.path.inst = s.path.inst) (a : Nat) :
    t.refusalSubject a = s.refusalSubject a := by
  unfold State.refusalSubject State.regionIdx
  rw [regions_congr h]

theorem OnlyTouched.raised {s r t : State} {kind : EventKind} {subject : Nat} {value : Int} {cause tag : Nat}
    (k : OnlyTouched r t) (h : Raised kind subject value cause tag s r) : Raised kind subject value cause tag s t := by
  have path := congrArg State.path k.rest
  have inst : t.path.inst = r.path.inst := by rw [path]
  have ownq : t.path.ownq = r.path.ownq := by rw [path]
  have only := k.only
  exact h.congr rfl rfl ownq only.ev ⟨by rw [only.store], by rw [only.store], inst, by rw [only.phase], only.clock⟩

/-! ## A write just begun -/

/-- A transaction that can begin an array write at an address: nothing refused, the live window not reached. -/
structure Txn.Fresh (s : State) (x : Txn) (a : Nat) : Prop where
  txn : s.path.txn = some x
  refused : x.refused = none
  live : x.live = false
  inside : a < Config.memSize

/-- The first `n` bytes of a burst from `a` are all forwarded, none of them twice. -/
def State.Opens (s : State) (a n : Nat) : Prop := n ≤ Config.memSize ∧ ∀ k < n, s.classify (burstAddr a k) = .forwarded

section
variable {s : State} {x : Txn} {a n : Nat} {l : List Byte} (fresh : Txn.Fresh s x a) (opens : s.Opens a n)
include fresh

theorem opened_txn : (s.openWrite a).path.txn = some (s.openedTxn x a) := by rw [openWrite_eq fresh.txn]

include opens

theorem openedTxn_decided (hn : 0 < n) : (s.openedTxn x a).decided = none := by
  have first := opens.2 0 hn
  rw [burstAddr_zero fresh.inside] at first
  unfold State.openedTxn State.classRefusal
  rw [first]

/-- The part after the bytes before the first that is not forwarded. -/
def State.openedAll (s : State) (x : Txn) (a : Nat) (l : List Byte) : State :=
  (s.openWrite a).forwardAll (s.openedTxn x a) a l

theorem opened_take (hn : n ≤ l.length) :
    State.writeAll (l.take n) a (s.openWrite a) = s.openedAll x a (l.take n) := by
  have size : (l.take n).length = n := List.length_take_of_le hn
  refine writeAll_forward (opened_txn fresh) fresh.refused fresh.live fresh.inside _ (fun h => ?_) fun k hk => ?_
  · exact openedTxn_decided fresh opens (Nat.pos_of_ne_zero fun h0 => h (by simp [h0]))
  · rw [openWrite_eq fresh.txn]
    exact opens.2 k (size ▸ hk)

theorem opened_split (hn : n < l.length) : State.writeAll l a (s.openWrite a) =
    State.writeAll (l.drop (n + 1)) (burstAddr a (n + 1)) ((s.openedAll x a (l.take n)).writeOne (burstAddr a n) l[n]) := by
  rw [writeAll_split hn fresh.inside, opened_take fresh opens hn.le]

/-- The byte at which forwarding ends for a refusal. -/
theorem opened_refusalAt {cause : WriteCause} (hc : s.classify (burstAddr a n) = .refusing cause) (l : List Byte) :
    (s.openedAll x a l).refusalAt ((s.openWrite a).forwardTxn (s.openedTxn x a) a l) (burstAddr a n) =
      some (s.refusalSubject (burstAddr a n), cause) := by
  have cls : s.classRefusal (burstAddr a n) = some (s.refusalSubject (burstAddr a n), cause) := by
    unfold State.classRefusal; rw [hc]
  have decided : ((s.openWrite a).forwardTxn (s.openedTxn x a) a l).decided = (s.openedTxn x a).decided := rfl
  have live : ((s.openWrite a).forwardTxn (s.openedTxn x a) a l).live = x.live := rfl
  unfold State.refusalAt
  rw [decided, live, fresh.live]
  rcases Nat.eq_zero_or_pos n with rfl | pos
  · rw [burstAddr_zero fresh.inside] at cls ⊢
    have here : (s.openedTxn x a).decided = s.classRefusal a := rfl
    rw [here, cls]
  · rw [openedTxn_decided fresh opens pos]
    exact cls

/-- The part at the refusal of byte `n`. -/
def State.refusedAt (s : State) (x : Txn) (a n : Nat) (l : List Byte) (cause : WriteCause) : State :=
  (s.openedAll x a (l.take n)).refuseByte (burstAddr a n) (s.refusalSubject (burstAddr a n), cause)

theorem opened_refused {cause : WriteCause} (hn : n < l.length) (hc : s.classify (burstAddr a n) = .refusing cause) :
    State.writeAll l a (s.openWrite a) =
      State.writeAll (l.drop (n + 1)) (burstAddr a (n + 1)) (s.refusedAt x a n l cause) := by
  have outside : inLive (burstAddr a n) = false := Bool.eq_false_iff.mpr fun e => by simp [State.classify, e] at hc
  rw [opened_split fresh opens hn, writeOne_refuses (s := s.openedAll x a (l.take n))
    (x := (s.openWrite a).forwardTxn (s.openedTxn x a) a (l.take n)) rfl outside fresh.refused
    (opened_refusalAt fresh opens hc _)]
  rfl

/-- The memory after a write holds the bytes before the first that is not forwarded, and no more of its bytes. -/
theorem opened_mem (hn : n ≤ l.length) (stop : n < l.length → s.classify (burstAddr a n) ≠ .forwarded) :
    (State.writeAll l a (s.openWrite a)).mem = s.mem.place (s.forwards a (l.take n)) := by
  have placed : (s.openedAll x a (l.take n)).mem = s.mem.place (s.forwards a (l.take n)) := rfl
  rcases hn.lt_or_eq with before | whole
  · rw [opened_split fresh opens before, ← placed]
    have stops : inLive (burstAddr a n) = true ∨
        ((s.openWrite a).forwardTxn (s.openedTxn x a) a (l.take n)).refused.isSome = true ∨
        (s.openedAll x a (l.take n)).refusalAt ((s.openWrite a).forwardTxn (s.openedTxn x a) a (l.take n))
          (burstAddr a n) ≠ none := by
      cases hc : s.classify (burstAddr a n) with
      | forwarded => exact absurd hc (stop before)
      | live => exact .inl (classify_live hc)
      | refusing cause => exact .inr (.inr (by rw [opened_refusalAt fresh opens hc]; exact Option.some_ne_none _))
    obtain ⟨mem, shut⟩ := writeOne_stops (s := s.openedAll x a (l.take n)) rfl stops l[n]
    exact (writeAll_shut shut _ _).trans mem
  · have all : l.take n = l := List.take_of_length_le whole.ge
    rw [← placed, ← opened_take fresh opens hn, all]

end

theorem refusedAt_txn (s : State) (x : Txn) (a n : Nat) (l : List Byte) (cause : WriteCause) :
    (s.refusedAt x a n l cause).path.txn = some { (s.openWrite a).forwardTxn (s.openedTxn x a) a (l.take n) with
      mlLow := false, refused := some (burstAddr a n) } := refuseByte_txn rfl ..

/-! ## The write recorded -/

/-- The part after an array write that has begun with it. -/
def State.written (s : State) (a : Nat) (l : List Byte) : State :=
  (State.writeAll l a (s.openWrite a)).setAddr (burstAddr a l.length)

section
variable {s : State} {x : Txn} {a n : Nat} {l : List Byte} (fresh : Txn.Fresh s x a)
include fresh

theorem takeWrite_written (hs : x.stuck = false) (hc : x.cmd = none) (l : List Byte) :
    s.takeWrite a l = s.written a l := by
  rw [takeWrite_begins fresh.txn hs hc, Nat.mod_eq_of_lt fresh.inside, writeBurst_eq, nextAddr_iterate fresh.inside]
  rfl

theorem written_nil : s.written a [] = { s with path := { s.path with
    link := if decide (s.classify a = .forwarded) then .forwarding else s.path.link
    txn := some { s.openedTxn x a with addr := a } } } := by
  unfold State.written
  rw [List.length_nil, burstAddr_zero fresh.inside, State.writeAll, openWrite_eq fresh.txn]
  rfl

variable (opens : s.Opens a n)
include opens

theorem written_read (hm : s.MemOk) (hn : n ≤ l.length)
    (stop : n < l.length → s.classify (burstAddr a n) ≠ .forwarded) :
    (∀ k < n, ∀ v, l[k]? = some v → (s.written a l).mem.read (burstAddr a k) = s.passedOn (burstAddr a k) v) ∧
    ∀ b, (∀ k < n, burstAddr a k ≠ b) → (s.written a l).mem.read b = s.mem.read b := by
  have size : (l.take n).length = n := List.length_take_of_le hn
  have mem : (s.written a l).mem = s.mem.place (s.forwards a (l.take n)) := opened_mem fresh opens hn stop
  rw [mem]
  refine ⟨fun k hk v hv => ?_, fun b hb => forwards_read_outside hm (size.symm ▸ hb)⟩
  obtain ⟨hkl, rfl⟩ := List.getElem?_eq_some_iff.mp hv
  rw [forwards_read hm (by rw [size]; exact opens.1) (by rw [size]; exact hk), List.getElem_take]

/-- The write ends with the bytes it has placed, its transaction as forwarded. -/
theorem written_whole (whole : n = l.length) :
    s.written a l = (s.openedAll x a l).setAddr (burstAddr a l.length) := by
  have all := opened_take fresh opens whole.le
  rw [whole, List.take_length] at all
  unfold State.written
  rw [all]

/-! ## The first refusal (R159) -/

section
variable {cause : WriteCause} (hn : n < l.length) (hc : s.classify (burstAddr a n) = .refusing cause)
include hn hc

theorem written_refused : OnlyTouched (s.refusedAt x a n l cause) (s.written a l) := by
  unfold State.written
  rw [opened_refused fresh opens hn hc]
  exact (writeAll_refused (refusedAt_txn ..) rfl _ _).trans (setAddr_onlyTouched _ _)

theorem written_refused_raised :
    Raised .writeRefused (s.refusalSubject (burstAddr a n)) (burstAddr a n) cause.code s.store.plan.tag s
      (s.written a l) := by
  have raised : Raised .writeRefused (s.refusalSubject (burstAddr a n)) (burstAddr a n) cause.code s.store.plan.tag s
      (s.refusedAt x a n l cause) :=
    (refuseByte_raised (s.openedAll x a (l.take n)) (burstAddr a n) (s.refusalSubject (burstAddr a n), cause)).congr
      rfl rfl rfl rfl ⟨rfl, rfl, rfl, rfl, rfl⟩
  exact (written_refused fresh opens hn hc).raised raised

/-- Where no byte of the write is of the live window the window is not touched. -/
theorem written_refused_outside (h : ∀ k < l.length, inLive (burstAddr a k) = false) :
    (s.written a l).test = s.test := by
  have idle : State.writeAll (l.drop (n + 1)) (burstAddr a (n + 1)) (s.refusedAt x a n l cause) =
      s.refusedAt x a n l cause := by
    refine writeAll_refused_outside (refusedAt_txn ..) rfl fun k hk => ?_
    rw [nextAddr_iterate (burstAddr_lt a (n + 1)), burstAddr_burstAddr]
    exact h _ (by rw [List.length_drop] at hk; omega)
  unfold State.written
  rw [opened_refused fresh opens hn hc, idle]
  exact (refuseByte_only (s.openedAll x a (l.take n)) (burstAddr a n) (s.refusalSubject (burstAddr a n), cause)).test

end

/-! ## After the window (R159) -/

/-- The bytes of the live window leave the transaction without a refusal, and the map in use as it was. -/
theorem opened_through {m : Nat} (hnm : n < m) (hm : m < l.length)
    (live : ∀ k, n ≤ k → k < m → inLive (burstAddr a k) = true) :
    (State.writeAll (l.take m) a (s.openWrite a)).path.inst = s.path.inst ∧
    ∃ y, (State.writeAll (l.take m) a (s.openWrite a)).path.txn = some y ∧
      y.live = true ∧ y.refused = none ∧ y.decided = none := by
  have size : (l.take m).length = m := List.length_take_of_le hm.le
  have before : n ≤ (l.take m).length := size.symm ▸ hnm.le
  have cut : State.writeAll (l.take m) a (s.openWrite a) =
      State.writeAll ((l.take m).drop n) (burstAddr a n) (s.openedAll x a ((l.take m).take n)) := by
    conv_lhs => rw [← List.take_append_drop n (l.take m), writeAll_append, List.length_take_of_le before,
      nextAddr_iterate fresh.inside, opened_take fresh opens before]
  have left : ((l.take m).drop n).length = m - n := by rw [List.length_drop, size]
  obtain ⟨frame, y, hy, course⟩ := writeAll_live (s := s.openedAll x a ((l.take m).take n))
    (x := (s.openWrite a).forwardTxn (s.openedTxn x a) a ((l.take m).take n)) rfl fresh.refused
    (l := (l.take m).drop n) (a := burstAddr a n) fun k hk => by
      rw [nextAddr_iterate (burstAddr_lt a n), burstAddr_burstAddr]
      exact live _ (Nat.le_add_right ..) (by omega)
  have decided : (s.openedTxn x a).decided = none := by
    rcases Nat.eq_zero_or_pos n with rfl | pos
    · have first := live 0 le_rfl hnm
      rw [burstAddr_zero fresh.inside] at first
      unfold State.openedTxn State.classRefusal State.classify
      rw [if_pos first]
    · exact openedTxn_decided fresh opens pos
  have inside : (l.take m).drop n ≠ [] := List.ne_nil_of_length_pos (by omega)
  simp only [Txn.course, Prod.mk.injEq] at course
  obtain ⟨-, reached, unrefused, undecided, -⟩ := course
  rw [cut]
  refine ⟨congrArg (fun f => f.2.2.2.1) frame, y, hy, by simp [reached, inside], unrefused, undecided.trans decided⟩

/-- The first byte after the window is refused, whatever its class. -/
theorem written_afterWindow {m : Nat} (hnm : n < m) (hm : m < l.length)
    (live : ∀ k, n ≤ k → k < m → inLive (burstAddr a k) = true) (outside : inLive (burstAddr a m) = false) :
    (s.written a l).path.txn.map (·.refused) = some (some (burstAddr a m)) ∧
    (s.written a l).ev.lastKind = some .writeRefused ∧
    Raised .writeRefused (s.refusalSubject (burstAddr a m)) (burstAddr a m) 6 (s.written a (l.take m)).store.plan.tag
      (s.written a (l.take m)) (s.written a l) := by
  obtain ⟨inst, y, hy, reached, unrefused, undecided⟩ := opened_through fresh opens hnm hm live
  generalize hw : State.writeAll (l.take m) a (s.openWrite a) = w at inst hy
  have mid : s.written a (l.take m) = w.setAddr (burstAddr a (l.take m).length) := by unfold State.written; rw [hw]
  have refusal : w.refusalAt y (burstAddr a m) = some (s.refusalSubject (burstAddr a m), .afterWindow) := by
    unfold State.refusalAt
    rw [undecided, reached, ← refusalSubject_congr inst]
    rfl
  have txn := refuseByte_txn hy (burstAddr a m) (s.refusalSubject (burstAddr a m), .afterWindow)
  have rest : OnlyTouched (w.refuseByte (burstAddr a m) (s.refusalSubject (burstAddr a m), .afterWindow))
      (s.written a l) := by
    unfold State.written
    rw [writeAll_split hm fresh.inside, hw, writeOne_refuses hy outside unrefused refusal]
    exact (writeAll_refused txn rfl _ _).trans (setAddr_onlyTouched _ _)
  obtain ⟨z, hz, same⟩ := rest.refused txn
  refine ⟨by rw [hz]; exact congrArg some same, by rw [rest.only.ev]; rfl, ?_⟩
  rw [mid]
  exact rest.raised ((refuseByte_raised w (burstAddr a m) (s.refusalSubject (burstAddr a m), .afterWindow)).congr
    rfl rfl rfl rfl ⟨rfl, rfl, rfl, rfl, rfl⟩)

end

end Sys2Proof.Machine
end

section
/-! PROOFS. What an array write places, refuses and delivers (R155, R158 to R161; O56). -/

namespace Sys2Proof.Machine
open Sys2Proof

theorem Only.setMem (s : State) (m : Mem) : Only [.mem] s { s with mem := m } :=
  ⟨rfl, rfl, fun b hb => by cases b <;> simp_all [Part.Same]⟩

section
variable {s : State} {x : Txn} {a : Nat}

theorem openedAll_only (hx : s.path.txn = some x) (l : List Byte) : Only [.path, .mem] s (s.openedAll x a l) := by
  unfold State.openedAll State.forwardAll
  rw [openWrite_eq hx]
  exact (Only.setMem s (s.mem.place (s.forwards a l))).next (Only.setPath _ _)

theorem refusedAt_only (hx : s.path.txn = some x) (n : Nat) (l : List Byte) (cause : WriteCause) :
    Only [.ev, .path, .mem] s (s.refusedAt x a n l cause) :=
  (openedAll_only hx _).next (refuseByte_only ..)

end

theorem Only.recorded {l : List Part} {s t : State} (h : Only l s t) (a : Nat) (hp : Part.path ∈ l) :
    Only l s (t.setAddr a) := h.trans ((Only.setPath t _).mono (by simpa using hp))

section
variable {s : State} {x : Txn} {a n : Nat} {l : List Byte} (fresh : Txn.Fresh s x a)
include fresh

theorem openedAll_path (hl : l ≠ []) : (s.openedAll x a l).path = { s.path with
    link := .forwarding, txn := some ((s.openWrite a).forwardTxn (s.openedTxn x a) a l) } := by
  unfold State.openedAll State.forwardAll
  rw [openWrite_eq fresh.txn, if_neg hl]

theorem openedAll_forwards (k : List Byte) : ((s.openWrite a).forwardTxn (s.openedTxn x a) a k).placed =
    x.placed ++ s.forwards a k := by
  unfold State.forwardTxn
  rw [openWrite_eq fresh.txn]
  rfl

/-- A write that is forwarded whole. -/
theorem written_forwarded (opens : s.Opens a l.length) (hl : l ≠ []) :
    (s.written a l).path = { s.path with link := .forwarding, txn := (s.written a l).path.txn } ∧
    (s.written a l).path.txn.map (·.placed) = some (x.placed ++ s.forwards a l) ∧
    (s.written a l).path.txn.map (·.refused) = some none ∧ Only [.path, .mem] s (s.written a l) := by
  rw [written_whole fresh opens rfl]
  have path := openedAll_path fresh hl
  have txn : ((s.openedAll x a l).setAddr (burstAddr a l.length)).path.txn = _ :=
    setAddr_txn (congrArg Path.txn path) _
  refine ⟨?_, ?_, ?_, (openedAll_only fresh.txn l).recorded _ (by decide)⟩
  · rw [State.setAddr, State.modTxn, path]
  · rw [txn, ← openedAll_forwards fresh]; rfl
  · rw [txn, ← fresh.refused]; rfl

/-- A write that is refused at byte `n`. -/
theorem written_refusal {cause : WriteCause} (opens : s.Opens a n) (hn : n < l.length)
    (hc : s.classify (burstAddr a n) = .refusing cause) :
    (s.written a l).path.txn.map (·.refused) = some (some (burstAddr a n)) ∧
    (s.written a l).path.txn.map (·.placed) = some (x.placed ++ s.forwards a (l.take n)) ∧
    Only [.test, .ev, .path, .mem] s (s.written a l) := by
  have rest := written_refused fresh opens hn hc
  have txn := rest.txn
  rw [refusedAt_txn, Option.map_some, openedAll_forwards fresh, Option.map_eq_some_iff] at txn
  obtain ⟨y, hy, same⟩ := txn
  rw [hy]
  exact ⟨congrArg some (congrArg Prod.fst same), congrArg some (congrArg Prod.snd same),
    (refusedAt_only fresh.txn n l cause).next rest.only⟩

end

theorem exec_arrayWrite_fresh {s : State} {x : Txn} {τ addr : Nat} (hline : s.line = .released)
    (fresh : Txn.Fresh (s.advance τ) x addr) (hs : x.stuck = false) (hc : x.cmd = none) (bytes : List Byte) :
    exec (.arrayWrite τ addr bytes) s = .next ((s.advance τ).written addr bytes) := by
  rw [exec_arrayWrite hline, takeWrite_written fresh hs hc]

/-! ## A live byte and its row (R161) -/

section
variable {s : State} {x : Txn} {τ : Nat} {off : Fin 128} {v : Byte}

/-- The part after the write of a live byte. -/
def State.liveWritten (s : State) (x : Txn) (τ : Nat) (off : Fin 128) (v : Byte) : State :=
  (((s.rowState x).touchedAt τ).deliver off.val v).modTxn fun y => { x.liveWrite y with addr := 129 + off.val }

theorem liveWritten_mem : (s.liveWritten x τ off v).mem = s.mem :=
  congrArg (fun f => f.2.2.1) (deliver_kept ((s.rowState x).touchedAt τ) off.val v).1

theorem storedOffset_of_no_row (h : liveRowOf τ off v = none) : storedOffset off.val = true := by
  unfold liveRowOf at h
  unfold storedOffset
  split at h <;> simp_all

theorem stored_request {off : Nat} (h : off ≠ 46 ∧ off ≠ 47) (y : Txn) :
    y.stored off v = { y with reqWritten := true } := by
  unfold Txn.stored
  rw [if_neg h.1, if_neg h.2]

theorem stored_readIndex {off : Nat} (h : off = 46 ∨ off = 47) (y : Txn) : y.stored off v = { y with
    rdLo := if off = 46 then some v else y.rdLo
    rdHi := if off = 47 then some v else y.rdHi } := by
  rcases h with rfl | rfl <;> rfl

theorem stored_readIndex_test {off : Nat} (h : off = 46 ∨ off = 47) (u : TestUnit) : u.stored off v = u := by
  rcases h with rfl | rfl <;> rfl

theorem liveWritten_stored (h : storedOffset off.val = true) : s.liveWritten x τ off v =
    { ((s.rowState x).touchedAt τ).modTxn fun y => { x.liveWrite (y.stored off.val v) with addr := 129 + off.val } with
      test := ((s.rowState x).touchedAt τ).test.stored off.val v } := by
  unfold State.liveWritten
  rw [deliver_stored h]
  simp [State.modTxn, Function.comp_def]

end

/-- Settles O56: the bytes before the first that is not forwarded are the whole of what memory takes, and each way of
stopping (the end, a refusal, the window) is followed from there. -/
theorem arrayWritePlacesForwardedBytes : Obligations.ArrayWritePlacesForwardedBytes := by
  unfold Obligations.ArrayWritePlacesForwardedBytes
  refine ⟨?_, fun τ addr one two x s hline hx hs _ => exec_arrayWrite_pieces hline hx hs τ addr one two,
    fun τ addr v x d s hline hx hs hc hr hd ha => exec_arrayWrite_decided hline hx hs hc hr hd ha τ addr v, ?_⟩
  · intro τ addr bytes x s hline hm hx hs hc hl hr ha now at_ drive passed opens places
    have fresh : Txn.Fresh (s.advance τ) x addr := ⟨hx, hr, hl, ha⟩
    have run := exec_arrayWrite_fresh hline fresh hs hc
    refine ⟨_, run bytes, ?_, ?_, ?_, ?_, ?_, ?_⟩
    · rw [← takeWrite_written fresh hs hc]
      exact (takeWrite_writeKept (s := s.advance τ) hx hs addr bytes).1
    · rintro rfl
      rw [written_nil fresh]
      exact ⟨(Only.setPath (s.advance τ) _).sameBut_advance, rfl⟩
    · exact fun n hn ho stop => written_read fresh ho hm hn stop
    · intro ho hne
      obtain ⟨path, placed, unrefused, only⟩ := written_forwarded fresh ho hne
      refine ⟨path, ?_, unrefused, only.sameBut_advance⟩
      simp only [places, List.take_length]
      exact placed
    · intro n cause hn ho hrefuse
      obtain ⟨refused, placed, only⟩ := written_refusal fresh ho hn hrefuse
      have raised := written_refused_raised fresh ho hn hrefuse
      exact ⟨raised.congr rfl rfl rfl rfl ⟨rfl, rfl, rfl, rfl, rfl⟩, refused, placed,
        only.sameBut_advance, written_refused_outside fresh ho hn hrefuse⟩
    · intro n m hnm hmb ho live outside
      obtain ⟨refused, last, raised⟩ := written_afterWindow fresh ho hnm hmb live outside
      exact ⟨refused, last, _, run (bytes.take m), raised⟩
  · intro τ addr off v x s hline hx hs hr h row taken
    have run : exec (.arrayWrite τ addr [v]) s = .next (s.liveWritten x τ off v) := by
      rw [exec_arrayWrite hline, takeWrite_live hx hs hr h]
      rfl
    refine ⟨_, run, liveWritten_mem, fun c u hc hu => ?_, fun hnone => ?_⟩
    · have effect := exec_liveRowOf (s := s.rowState x) hline (rowState_takesLive hs) hc
      cases hu.symm.trans effect
      rfl
    · have stored := storedOffset_of_no_row hnone
      have absorbed : exec (.liveWriteAbsorbed τ off v) row = .next ((s.rowState x).touchedAt τ) := by
        simp only [exec, execLiveWriteAbsorbed]
        rw [timed_released (s := row) hline]
        exact congrArg _ (liveRow_advance (s := s.rowState x) (rowState_takesLive hs) τ id)
      rw [liveWritten_stored stored]
      refine ⟨((Only.setPath (s.advance τ) _).next (Only.setTest _ _)).sameBut_advance, _, absorbed,
        fun request => ?_, fun index => ?_⟩
      · simp only [stored_request (by omega : off.val ≠ 46 ∧ off.val ≠ 47)]
        exact ⟨rfl, rfl⟩
      · refine ⟨stored_readIndex_test index _, ?_⟩
        simp only [stored_readIndex index]
        rfl

end Sys2Proof.Machine
end

section
/-! PROOFS. The byte images as fields laid out one after the other (10_memory_images.md; O52). -/

namespace Sys2Proof.Machine
open Sys2Proof

/-! ## Fields laid out -/

/-- The bytes of fields, each a width and a value, one after the other. -/
def fieldBytes (fields : List (Nat × Nat)) : List Byte := fields.flatMap fun f => leBytes f.1 f.2

/-- The rows of such fields from an offset on. -/
def fieldRows : Nat → List (Nat × Nat) → List (Nat × Nat × Nat)
  | _, [] => []
  | o, f :: rest => (o, f.1, f.2) :: fieldRows (o + f.1) rest

theorem leBytes_length (n v : Nat) : (leBytes n v).length = n := by
  induction n generalizing v with
  | zero => rfl
  | succ n ih => rw [leBytes, List.length_cons, ih]

theorem leBytes_getElem? {n k : Nat} (h : k < n) (v : Nat) :
    (leBytes n v)[k]? = some (BitVec.ofNat 8 (v / 256 ^ k)) := by
  induction n generalizing k v with
  | zero => cases h
  | succ n ih =>
    rw [leBytes]
    cases k with
    | zero => simp [byteOf]
    | succ k => rw [List.getElem?_cons_succ, ih (Nat.lt_of_succ_lt_succ h), Nat.div_div_eq_div_mul, Nat.pow_succ']

theorem fieldBytes_length (fields : List (Nat × Nat)) : (fieldBytes fields).length = (fields.map (·.1)).sum := by
  simp [fieldBytes, List.length_flatMap, leBytes_length]

theorem fieldsAt_append {bytes : List Byte} {l m : List (Nat × Nat × Nat)} (hl : FieldsAt bytes l)
    (hm : FieldsAt bytes m) : FieldsAt bytes (l ++ m) := fun r hr =>
  (List.mem_append.mp hr).elim (hl r) (hm r)

/-- Fields laid out behind other bytes stand there. -/
theorem fieldsAt_fieldRows (before : List Byte) (fields : List (Nat × Nat)) (after : List Byte) :
    FieldsAt (before ++ fieldBytes fields ++ after) (fieldRows before.length fields) := by
  induction fields generalizing before with
  | nil => exact fun r hr => absurd hr List.not_mem_nil
  | cons f rest ih =>
    have cut : before ++ fieldBytes (f :: rest) ++ after = (before ++ leBytes f.1 f.2) ++ fieldBytes rest ++ after := by
      simp [fieldBytes]
    have next := ih (before ++ leBytes f.1 f.2)
    rw [List.length_append, leBytes_length, ← cut] at next
    intro r hr
    rcases List.mem_cons.mp hr with rfl | later
    · intro k hk
      have inside : k < (leBytes f.1 f.2).length := by rwa [leBytes_length]
      rw [cut, List.append_assoc, List.append_assoc, List.getElem?_append_right (Nat.le_add_right ..),
        Nat.add_sub_cancel_left, List.getElem?_append_left inside, leBytes_getElem? hk]
    · exact next r later

/-- The fields of a run of fields that stands among others. -/
theorem fieldsAt_among (before fields after : List (Nat × Nat)) :
    FieldsAt (fieldBytes (before ++ fields ++ after)) (fieldRows (before.map (·.1)).sum fields) := by
  have here := fieldsAt_fieldRows (fieldBytes before) fields (fieldBytes after)
  rw [fieldBytes_length] at here
  simpa only [fieldBytes, List.flatMap_append] using here

/-- All the fields of an image. -/
theorem fieldsAt_fieldBytes (fields : List (Nat × Nat)) : FieldsAt (fieldBytes fields) (fieldRows 0 fields) := by
  have all := fieldsAt_among [] fields []
  rwa [List.nil_append, List.append_nil] at all

theorem leBytes_zero (n : Nat) : leBytes n 0 = List.replicate n 0#8 := by
  induction n with
  | zero => rfl
  | succ n ih => rw [leBytes, List.replicate_succ, ← ih]; rfl

/-! ## Port image and records -/

/-- The fields of a port image. -/
def State.portFields (s : State) (p : Fin 48) : List (Nat × Nat) :=
  let x := s.port p
  let last (f : TestSummary → Nat) := (x.lastTest.map f).getD 0
  [(1, x.action.code), (1, statusCode x.status),
    (1, (if s.queued p then 1 else 0) + if s.stale (portChannel p) then 2 else 0), (1, x.trips),
    (4, x.deficit), (4, if x.action = .off then 0 else (s.policy p).cap), (2, x.u), (2, s.current p),
    (1, x.attempts), (1, last (·.kind.code)), (1, last (·.result.code)), (1, last (·.result.abortCode)),
    (2, last (·.value)), (4, x.feedSecs), (2, x.key), (4, 0)]

theorem portImage_eq (s : State) (p : Fin 48) : s.portImage p = fieldBytes (s.portFields p) := by
  unfold State.portImage State.portFields
  dsimp only
  cases (s.port p).lastTest <;> rfl

theorem pattern16_eq (i : Int) : pattern16 i = (BitVec.ofInt 16 i).toNat := by
  rw [BitVec.toNat_ofInt]; rfl

theorem pattern32_eq (i : Int) : pattern32 i = (BitVec.ofInt 32 i).toNat := by
  rw [BitVec.toNat_ofInt]; rfl

/-- The fields of a measurement record. -/
def Meas.fields (m : Meas) : List (Nat × Nat) :=
  [(1, m.channel.val), (1, 0), (2, (BitVec.ofInt 16 m.value).toNat), (4, m.time)]

theorem measBytes_eq (m : Meas) : m.bytes = fieldBytes m.fields := by
  unfold Meas.bytes
  rw [pattern16_eq]
  rfl

/-- The fields of an event record. -/
def Event.fields (e : Event) : List (Nat × Nat) :=
  [(1, e.kind.code), (1, e.phase.code), (4, e.time), (1, e.subject), (1, e.cause),
    (4, (BitVec.ofInt 32 e.value).toNat), (2, e.tag), (2, e.count)]

theorem eventBytes_eq (e : Event) : e.bytes = fieldBytes e.fields := by
  unfold Event.bytes
  rw [pattern32_eq]
  rfl

/-! ## The live window -/

/-- The status fields, before the claim byte. -/
def State.statusFields (s : State) : List (Nat × Nat) :=
  [(1, 0x48), (1, 1), (1, s.phase.phase.code), (1, s.phase.mains.code),
    (1, s.scan.thermal.code), (1, if s.scan.latch then 1 else 0),
    (1, if s.phase.phase = .mains then s.phase.startLevel else s.acct.level), (1, 0),
    (4, s.acct.q), (4, s.acct.f16 / 16), (1, s.sched.queue.length),
    (1, allPorts.countP fun p => (s.port p).action = .feeding),
    (1, allPorts.countP fun p => (s.port p).action = .barred)]

/-- The fields of the test request, behind the claim byte. -/
def State.requestFields (s : State) : List (Nat × Nat) :=
  [(1, s.test.req.port), (1, s.test.req.kind), (1, s.test.req.minutes), (1, s.test.req.outcome.codes.1),
    (1, s.test.req.outcome.codes.2), (1, 0)]

/-- Owner, claim, test in progress and last result. -/
def State.testFields (s : State) : List (Nat × Nat) :=
  let run (f : TestRun → Nat) := (s.test.run.map f).getD 0
  let last (d : Nat) (f : LastResult → Nat) := (s.test.last.map f).getD d
  [(1, s.test.owner.code), (1, s.test.claim.code), (1, (s.test.run.map (·.port.val)).getD 255),
    (1, run (·.kind.code)), (2, run fun x => (s.clock - x.attached) / Config.sec), (1, last 0 (·.kind.code)),
    (1, last 255 (·.port.val)), (1, last 0 fun x => if x.bySupervisor then 2 else 1),
    (1, last 0 (·.result.code)), (1, last 0 (·.result.abortCode)), (2, last 0 (·.value)),
    (2, last 0 fun x => (x.span.map (·.1)).getD 0), (2, last 0 fun x => (x.span.map (·.2)).getD 0)]

/-- The bank switch byte. -/
def State.bankFields (s : State) : List (Nat × Nat) :=
  [(1, s.store.active.code + 2 * (s.store.target.map (·.code + 1)).getD 0 +
      8 * s.store.a.validity.code + 32 * s.store.b.validity.code +
      if s.store.plan = .builtIn then 128 else 0)]

/-- From the map lock to the number of the last round. -/
def State.roundFields (s : State) : List (Nat × Nat) :=
  [(1, if s.path.mapLock then 1 else 0), (1, s.phase.startLevel), (2, s.ev.r), (2, s.ev.w), (2, s.scan.measIdx),
    (1, (s.ev.lastKind.map (·.code)).getD 0), (1, s.scan.state.code), (1, s.scan.pos.val), (1, 0),
    (2, s.sched.record.number)]

/-- A slot of the last round. -/
def SlotRecord.fields (x : SlotRecord) : List (Nat × Nat) :=
  [(1, x.action.code), (1, (x.port.map (·.val)).getD 255), (1, x.outcome.code)]

theorem slotBytes_eq (x : SlotRecord) : x.bytes = fieldBytes x.fields := by
  unfold SlotRecord.bytes SlotRecord.fields
  cases x.port <;> rfl

/-- The slots of the last round. -/
def State.slotFields (s : State) : List (Nat × Nat) :=
  let slot (i : Fin 4) := (s.sched.record.slots.get i).fields
  slot 0 ++ slot 1 ++ slot 2 ++ slot 3

theorem tab4_val {α : Type} (t : Tab α 4) : t.val = [t.get 0, t.get 1, t.get 2, t.get 3] := by
  obtain ⟨l, hl⟩ := t
  match l, hl with
  | [a, b, c, d], _ => rfl

theorem slots_eq (s : State) :
    (s.sched.record.slots.val.map SlotRecord.bytes).flatten = fieldBytes s.slotFields := by
  rw [tab4_val]
  simp [slotBytes_eq, fieldBytes, State.slotFields]

theorem testBytes_eq (s : State) : s.testBytes = fieldBytes s.testFields := by
  unfold State.testBytes State.testFields
  cases s.test.run <;> cases s.test.last <;> rfl

theorem switchByte_eq (s : State) : [byteOf s.switchByte] = fieldBytes s.bankFields := by
  have target : targetCode s.store.target = (s.store.target.map (·.code + 1)).getD 0 := by
    rcases s.store.target with _ | _ | _ <;> rfl
  unfold State.switchByte State.bankFields
  rw [target]
  rfl

/-- The fields of the live window; the claim byte stands as 0 in it. -/
def State.windowFields (s : State) : List (Nat × Nat) :=
  s.statusFields ++ [(1, 0)] ++ s.requestFields ++ s.testFields ++ s.bankFields ++ s.roundFields ++ s.slotFields ++
    [(58, 0)]

theorem fieldBytes_append (l m : List (Nat × Nat)) : fieldBytes (l ++ m) = fieldBytes l ++ fieldBytes m :=
  List.flatMap_append

/-- A count over the ports, port by port. -/
theorem countPorts_eq (s : State) (f : Port → Bool) : s.countPorts f = allPorts.countP fun p => f (s.port p) := by
  unfold State.countPorts
  rw [ports_list, List.countP_map]
  rfl

theorem liveWindow_eq (s : State) : s.liveWindow = fieldBytes s.windowFields := by
  have head : [0x48#8, 0x01#8, byteOf s.phase.phase.code, byteOf s.phase.mains.code, byteOf s.scan.thermal.code,
      byteOf (if s.scan.latch then 1 else 0), byteOf s.level, 0#8] ++ leBytes 4 s.acct.q ++ leBytes 4 s.filter ++
      [byteOf s.sched.queue.length, byteOf s.feedingCount, byteOf s.barredCount, 0#8,
        byteOf s.test.req.port, byteOf s.test.req.kind, byteOf s.test.req.minutes,
        byteOf s.test.req.outcome.codes.1, byteOf s.test.req.outcome.codes.2, 0#8] =
      fieldBytes (s.statusFields ++ [(1, 0)] ++ s.requestFields) := by
    unfold State.feedingCount State.barredCount
    rw [countPorts_eq, countPorts_eq]
    rfl
  have round : [byteOf (if s.path.mapLock then 1 else 0), byteOf s.phase.startLevel] ++
      leBytes 2 s.ev.r ++ leBytes 2 s.ev.w ++ leBytes 2 s.scan.measIdx ++
      [byteOf ((s.ev.lastKind.map (·.code)).getD 0), byteOf s.scan.state.code, byteOf s.scan.pos.val, 0#8] ++
      leBytes 2 s.sched.record.number = fieldBytes s.roundFields := rfl
  have zeros : List.replicate 58 0#8 = fieldBytes [(58, 0)] := by
    rw [← leBytes_zero]; exact (List.append_nil _).symm
  unfold State.liveWindow State.windowFields
  simp only [fieldBytes_append _ _] at head ⊢
  rw [head, testBytes_eq, slots_eq, zeros, ← round, ← switchByte_eq]
  simp only [List.append_assoc, List.cons_append, List.nil_append]

/-- Fields of the live window that stand together. -/
theorem window_fieldsAt {s : State} {o : Nat} (before fields after : List (Nat × Nat))
    (h : s.windowFields = before ++ fields ++ after) (ho : (before.map (·.1)).sum = o) :
    FieldsAt s.liveWindow (fieldRows o fields) := by
  rw [liveWindow_eq, h, ← ho]
  exact fieldsAt_among before fields after

section
variable (s : State)

@[simp] theorem statusFields_width : (s.statusFields.map (·.1)).sum = 19 := by simp [State.statusFields]

@[simp] theorem requestFields_width : (s.requestFields.map (·.1)).sum = 6 := by simp [State.requestFields]

@[simp] theorem testFields_width : (s.testFields.map (·.1)).sum = 17 := by simp [State.testFields]

@[simp] theorem bankFields_width : (s.bankFields.map (·.1)).sum = 1 := by simp [State.bankFields]

@[simp] theorem roundFields_width : (s.roundFields.map (·.1)).sum = 14 := by simp [State.roundFields]

@[simp] theorem slotFields_width : (s.slotFields.map (·.1)).sum = 12 := by simp [State.slotFields, SlotRecord.fields]

theorem window_status : FieldsAt s.liveWindow (fieldRows 0 s.statusFields) :=
  window_fieldsAt [] _ ([(1, 0)] ++ s.requestFields ++ s.testFields ++ s.bankFields ++ s.roundFields ++ s.slotFields ++
    [(58, 0)]) (by simp only [State.windowFields, List.append_assoc, List.nil_append]) (by simp)

theorem window_request : FieldsAt s.liveWindow (fieldRows 20 s.requestFields) :=
  window_fieldsAt (s.statusFields ++ [(1, 0)]) _
    (s.testFields ++ s.bankFields ++ s.roundFields ++ s.slotFields ++ [(58, 0)])
    (by simp only [State.windowFields, List.append_assoc]) (by simp)

theorem window_test : FieldsAt s.liveWindow (fieldRows 26 (s.testFields ++ s.bankFields)) :=
  window_fieldsAt (s.statusFields ++ [(1, 0)] ++ s.requestFields) _ (s.roundFields ++ s.slotFields ++ [(58, 0)])
    (by simp only [State.windowFields, List.append_assoc]) (by simp)

theorem window_round : FieldsAt s.liveWindow (fieldRows 44 s.roundFields) :=
  window_fieldsAt (s.statusFields ++ [(1, 0)] ++ s.requestFields ++ s.testFields ++ s.bankFields) _
    (s.slotFields ++ [(58, 0)]) (by simp only [State.windowFields, List.append_assoc]) (by simp)

theorem window_slots : FieldsAt s.liveWindow (fieldRows 58 s.slotFields) :=
  window_fieldsAt (s.statusFields ++ [(1, 0)] ++ s.requestFields ++ s.testFields ++ s.bankFields ++ s.roundFields) _
    [(58, 0)] rfl (by simp)

theorem window_unused : FieldsAt s.liveWindow (fieldRows 70 [(58, 0)]) :=
  window_fieldsAt (s.statusFields ++ [(1, 0)] ++ s.requestFields ++ s.testFields ++ s.bankFields ++ s.roundFields ++
    s.slotFields) _ [] (List.append_nil _).symm (by simp)

end

/-! ## Part-owned bytes -/

theorem ownedBytes_getElem? (s : State) {k : Nat} (h : k < 7) : s.ownedBytes[k]? = some (s.ownedByte (3 + k)) := by
  simp [State.ownedBytes, h]

/-- The field of the active bank, formed by a load. -/
theorem ownedBytes_active {s : State} (h : s.store.activeFormed = true) : s.ownedBytes =
    [] ++ fieldBytes [(1, s.store.active.code)] ++ [4, 5, 6, 7, 8, 9].map s.ownedByte := by
  have formed : s.ownedByte 3 = byteOf s.store.active.code := if_pos h
  have split : s.ownedBytes = s.ownedByte 3 :: [4, 5, 6, 7, 8, 9].map s.ownedByte := rfl
  rw [split, formed]
  rfl

/-- The ring indexes, formed by a load. -/
theorem ownedBytes_indexes {s : State} (h : s.ev.idxFormed = true) : s.ownedBytes =
    [s.ownedByte 3] ++ fieldBytes [(2, s.ev.w), (2, s.ev.r)] ++ [8, 9].map s.ownedByte := by
  have formed : [4, 5, 6, 7].map s.ownedByte = fieldBytes [(2, s.ev.w), (2, s.ev.r)] := by
    simp [State.ownedByte, h, fieldBytes, leBytes]
  rw [← formed]
  rfl

/-- The measurement index, formed by a load. -/
theorem ownedBytes_meas {s : State} (h : s.scan.measFormed = true) : s.ownedBytes =
    [3, 4, 5, 6, 7].map s.ownedByte ++ fieldBytes [(2, s.scan.measIdx)] ++ [] := by
  have formed : [8, 9].map s.ownedByte = fieldBytes [(2, s.scan.measIdx)] := by
    simp [State.ownedByte, h, fieldBytes, leBytes]
  rw [← formed]
  rfl

theorem ownedByte_unformed_index {s : State} (h : s.ev.idxFormed = false) {o : Nat} (lo : 4 ≤ o) (hi : o ≤ 7) :
    s.ownedByte o = s.imageByte o := by
  interval_cases o <;> simp [State.ownedByte, h]

theorem ownedByte_unformed_meas {s : State} (h : s.scan.measFormed = false) {o : Nat} (lo : 8 ≤ o) (hi : o ≤ 9) :
    s.ownedByte o = s.imageByte o := by
  interval_cases o <;> simp [State.ownedByte, h]

/-- Settles O52: each image is its fields laid out one after the other. -/
theorem imagesFollowLayouts : Obligations.ImagesFollowLayouts := by
  unfold Obligations.ImagesFollowLayouts
  refine ⟨fun s p => ⟨?_, ?_⟩, fun m => ⟨?_, ?_⟩, fun e => ⟨?_, ?_⟩, fun s => ?_,
    fun s => ⟨liveWindow_length s, ?_, ?_, ?_⟩, ?_⟩
  · rw [portImage_eq, fieldBytes_length]; rfl
  · rw [portImage_eq]; exact fieldsAt_fieldBytes (s.portFields p)
  · rw [measBytes_eq, fieldBytes_length]; rfl
  · rw [measBytes_eq]; exact fieldsAt_fieldBytes m.fields
  · rw [eventBytes_eq, fieldBytes_length]; rfl
  · rw [eventBytes_eq]; exact fieldsAt_fieldBytes e.fields
  · refine ⟨by simp [State.ownedBytes], fun h => ?_, fun h => ?_, fun h => ?_, fun h => ?_, fun h k hk => ?_,
      fun h k hk => ?_⟩
    · rw [ownedBytes_active h]; exact fieldsAt_fieldRows [] _ _
    · rw [ownedBytes_indexes h]; exact fieldsAt_fieldRows [s.ownedByte 3] _ _
    · rw [ownedBytes_meas h]; exact fieldsAt_fieldRows ([3, 4, 5, 6, 7].map s.ownedByte) _ _
    · rw [ownedBytes_getElem? s (by decide)]
      simp [State.ownedByte, h]
    · rw [ownedBytes_getElem? s (by omega), show 3 + (1 + k) = 4 + k by omega,
        ownedByte_unformed_index h (by omega) (by omega)]
    · rw [ownedBytes_getElem? s (by omega), show 3 + (5 + k) = 8 + k by omega,
        ownedByte_unformed_meas h (by omega) (by omega)]
  · exact fieldsAt_append (window_status s) (window_request s)
  · exact window_test s
  · have rows := fieldsAt_append (fieldsAt_append (window_round s) (window_unused s)) (window_slots s)
    exact rows
  · refine ⟨rfl, rfl, rfl, rfl, rfl, rfl, rfl, rfl, rfl, rfl, rfl, fun c => ⟨rfl, rfl⟩, rfl, fun c => rfl, rfl, rfl, rfl,
      rfl, rfl, rfl⟩

end Sys2Proof.Machine
end
